-- ==== Sys2Proof/Word.lean ====
section
/-! DEFINITION. The number types of the part: bytes and words as sent, and the numbered objects of Table 0.1. -/

namespace Sys2Proof

/-- One byte of a frame or of spool memory. -/
abbrev Byte := BitVec 8

/-- A 16-bit value that wraps: frame sequences, lane sequences, stream tags, directive tags. -/
abbrev Word16 := BitVec 16

/-- A directive operand or a reply value (R160, R165). -/
abbrev Word32 := BitVec 32

/-- An Ethernet address (R171, R176). -/
abbrev MacAddress := BitVec 48

/-- A job slot, 0 to 255 (Table 0.1). -/
abbrev Slot := Fin 256

/-- A printer lane, 0 to 15 (Table 0.1). -/
abbrev LaneNo := Fin 16

/-- A pool, 0 to 7 (Table 0.1). -/
abbrev PoolNo := Fin 8

/-- An account number, 0 to 1023 (Table 0.1). -/
abbrev AccountNo := Fin 1024

/-- A pointer of the directive queue: a count from 0 to 127 that wraps from 127 to 0 (R162). -/
abbrev QueuePtr := BitVec 7

/-- A bounded number as an index of a table of n entries, or nothing when it lies above the table. -/
def toIndex (n k : Nat) : Option (Fin n) :=
  if h : k < n then some ⟨k, h⟩ else none

/-- A table with every entry changed by `f`, written over lists so that it evaluates. -/
def mapVector {α β : Type} {n : Nat} (f : α → β) (v : Vector α n) : Vector β n :=
  ⟨⟨v.toList.map f⟩, by simp⟩

end Sys2Proof
end

