-- ==== Sys2Proof/Config.lean ====
section
/-! DEFINITION. The sizes and bounds fixed in the part (Table 0.1 and the rules named below). The spec leaves no result of any
command open, so there is no free value here. -/

namespace Sys2Proof.Config

/-- Bytes in a spool block (R25). -/
abbrev blockBytes : Nat := 4096

/-- Blocks of spool memory (R25). -/
abbrev blocks : Nat := 65536

/-- Blocks in an extent (R25). -/
abbrev extentBlocks : Nat := 256

/-- Sheet records in the whole part (R12). -/
abbrev sheetRecords : Nat := 16384

/-- Places in the notice queue (R170). -/
abbrev noticePlaces : Nat := 128

/-- Entries of the directive queue (R162). -/
abbrev directivePlaces : Nat := 64

/-- Where the 32-bit counters saturate (R24, R69, R80, R150, R155, R170). -/
abbrev counterMax : Nat := 4294967295

/-- Where a job's charge total and an account's period charge total stop (R69, R147). -/
abbrev chargeMax : Nat := 281474976710655

/-- The charge divisor (Table 0.1, R133, R134). -/
abbrev chargeDivisor : Nat := 100000

/-- The lowest balance (Table 8.1). -/
abbrev balanceMin : Int := -549755813888

/-- The highest balance (Table 8.1). -/
abbrev balanceMax : Int := 549755813887

/-- The highest credit limit (Table 8.1). -/
abbrev limitMax : Nat := 2147483647

/-- The hail timer's fixed interval in milliseconds (R74). -/
abbrev hailMs : Nat := 100

/-- The notice address after reset (R171). -/
abbrev broadcast : MacAddress := 0xFFFFFFFFFFFF

/-- The frame type of every engine frame (Table 0.1). -/
abbrev frameType : Word16 := 0x9A6C

/-- The shortest data field of an Ethernet frame (R175). -/
abbrev minData : Nat := 46

/-- The most directives of 16 bytes that the longest Ethernet data field holds behind its 4-byte header (R174, R175). -/
abbrev maxDirectives : Nat := 93

/-- The longest payload of a DATA frame (Table 11.2). -/
abbrev maxPayload : Nat := 1492

end Sys2Proof.Config
end

