-- ==== Sys2Proof/Syntax.lean ====
section
/-! DEFINITION. The commands: one constructor for each row of spec/opcode_table.json, with the fields that its frame,
directive or event carries. -/

namespace Sys2Proof

/-- One directive of a management frame: its code, its tag and three operands (R160, R175). -/
structure Directive where
  code : Word16
  tag : Word16
  op0 : Word32
  op1 : Word32
  op2 : Word32
  deriving DecidableEq, Repr

/-- Why a lane controller discards a received link frame (R70): its CRC does not match, or its CRC matches and its kind or
its length is not one of Table 11.7. -/
inductive LinkDiscard where
  | crc
  | kindOrLength
  deriving DecidableEq, Repr

/-- A command. Spool frames carry a stream tag and, but for OPEN, a frame sequence (R1, Table 11.1). A directive carries the
operand fields of Table 11.3. A link frame or lane event carries the lane it belongs to. -/
inductive Instr where
  -- spool frames (Tables 1.1 and 11.2)
  | openJob (tag account : Word16) (pool prio : Byte) (copies winFirst winLast : Word16)
  | sheet (tag seq number : Word16) (cls sides : Byte) (covA covB : Word16) (length : BitVec 24)
  | data (tag seq : Word16) (payload : List Byte)
  | close (tag seq : Word16)
  | cancel (tag seq : Word16)
  | upstreamFrameDiscarded
  -- management frames and the directives of Table 11.3
  | managementFrame (source : MacAddress) (station count : Byte) (directives : List Directive)
  | extend (high1 high2 : Word32)
  | fence (notify : Bool)
  | reset
  | countersRead (item : Word32)
  | rateSet (cls : Byte) (valid : Bool) (bm bc : Word16) (slope : Word32)
  | tierSet (tier : Byte) (valid : Bool) (threshold percentage : Word32)
  | accountOpen (account limit balance : Word32)
  | accountClose (account : Word32)
  | accountLimit (account limit : Word32)
  | accountSwap (account expected new : Word32)
  | accountRead (account item : Word32)
  | accountRoll (account : Word32)
  | laneSet (lane silence escalation pool enable : Byte) (mask reoffer : Word16) (answer : Byte)
  | laneRead (lane item : Word32)
  | poolSet (pool allowance : Word32)
  | poolReserve (pool base limit : Word32)
  | jobRead (slot item : Word32)
  | jobHold (slot tag : Word32)
  | jobRelease (slot tag : Word32)
  | jobCancel (slot tag : Word32)
  | jobMove (slot tag : Word32)
  | purge (scope target : Word32)
  | alertRead (record item : Word32)
  | alertAck (record : Word32)
  | alertMask (mask : Word32)
  | unknownDirective (code : Word16)
  -- the upstream transmitter
  | noticeSend
  -- link frames from a printer (Tables 4.2 and 11.7)
  | hello (lane : LaneNo) (chunk media : Word16) (duplex : Bool) (depth : Byte)
  | proceed (lane : LaneNo) (seq : Word16)
  | wait (lane : LaneNo) (seq : Word16)
  | media (lane : LaneNo) (seq : Word16)
  | refuse (lane : LaneNo) (seq : Word16)
  | out (lane : LaneNo) (seq : Word16)
  | jam (lane : LaneNo) (lastOut : Option Word16) (location : BitVec 4)
  | stopped (lane : LaneNo) (lastOut : Option Word16)
  | clear (lane : LaneNo)
  | status (lane : LaneNo) (tonerLow trayLow doorOpen : Bool)
  | linkFrameDiscarded (lane : LaneNo) (why : LinkDiscard)
  -- lane events
  | carrierLost (lane : LaneNo)
  | carrierPresent (lane : LaneNo)
  | hailTimerExpiry (lane : LaneNo)
  | silenceTimerExpiry (lane : LaneNo)
  | answerTimeout (lane : LaneNo)
  | abortTimeout (lane : LaneNo)
  | reofferTimerExpiry (lane : LaneNo)
  | escalationTimerExpiry (lane : LaneNo)
  -- pins
  | resetPinLow
  | resetPinRise (straps : Byte)
  deriving DecidableEq, Repr

end Sys2Proof
end

