-- ==== Sys2Proof/WellFormed.lean ====
section
/-! DEFINITION. Which commands a sender can form. Every field has the width its frame gives it by its type; what remains is
checked here. -/

namespace Sys2Proof

/-- A command is well formed when a DATA payload fits its frame (Table 11.2), a management frame's directives fit the longest
Ethernet frame (R174, R175), and an unknown directive's code is none of the codes 1 to 25 of Table 11.3. -/
def Instr.wellFormed : Instr → Bool
  | .data _ _ payload => payload.length ≤ Config.maxPayload
  | .managementFrame _ _ _ directives => directives.length ≤ Config.maxDirectives
  | .unknownDirective code => code = 0 || 25 < code.toNat
  | _ => true

end Sys2Proof
end

