-- ==== Sys2Proof/Decode.lean ====
section
/-! DEFINITION. The commands that a word of table bits spells. No row of spec/opcode_table.json gives bits, so no word spells
one (log entry 18); the frames that do have byte layouts are read in Machine/Receive.lean. -/

namespace Sys2Proof

/-- The command of a table word: none, since the table gives no row any bits. -/
def decodeTableWord (_nbits _w : Nat) : Option Instr := none

end Sys2Proof
end

