-- ==== Sys2Proof/Machine/Records.lean ====
section
/-! DEFINITION. The records of the engine's tables as plain data: jobs and sheets (Chapters 1 to 3), pools, lanes (Chapters 4 to
6), meter tables (Chapters 7 and 8), alerts (Chapter 9), directives and notices (Chapter 10). -/

namespace Sys2Proof.Machine

/-! ## Sheets and jobs -/

/-- Why a record is DAMAGED (Table 1.2). -/
inductive DamageReason where
  | gap | short | length | overrun | cls | format
  deriving DecidableEq, Repr

/-- A sheet record's condition (Table 1.2). -/
inductive SheetCond where
  | arriving
  | spooled
  | skipped
  | damaged (reason : DamageReason)
  deriving DecidableEq, Repr

/-- A sheet record (Table 1.2). `place` is the first block and the offset in it, absent until the first payload byte. -/
structure SheetRecord where
  number : Nat
  cls : Nat
  sides : Nat
  covA : Nat
  covB : Nat
  length : Nat
  place : Option (Nat × Nat)
  received : Nat
  cond : SheetCond
  deriving DecidableEq, Repr

/-- The state of a job slot (R48). -/
inductive JobState where
  | free | queued | printing | holding | held | cancelling
  deriving DecidableEq, Repr

/-- A set of hold reasons (R49). -/
structure Reasons where
  operator : Bool
  funds : Bool
  refused : Bool
  deriving DecidableEq, Repr

/-- One member of the set of hold reasons. -/
inductive Reason where
  | operator | funds | refused
  deriving DecidableEq, Repr

/-- A cursor: a copy number and a position in the sheet-record list; the position equal to the list's length is the end of the
list, so that it names the first record appended after it (R47, R89). -/
structure Cursor where
  copy : Nat
  pos : Nat
  deriving DecidableEq, Repr

/-- A job record (Table 3.1 with Table 2.1 and R2). `promised` is the reserved promise, `promisedShared` the shared promise;
`released` counts the blocks freed from the chain head; `passed` are the passed bytes. -/
structure Job where
  state : JobState
  reasons : Reasons
  tag : Word16
  account : AccountNo
  pool : PoolNo
  prio : Fin 4
  copies : Nat
  winFirst : Nat
  winLast : Nat
  intakeOpen : Bool
  expected : Word16
  lastSheet : Nat
  records : List SheetRecord
  send : Cursor
  confirm : Cursor
  lane : Option LaneNo
  pendingHold : Option QueuePtr
  pendingCancel : Option QueuePtr
  confirmed : Nat
  spoiled : Nat
  damaged : Nat
  charge : Nat
  granted : Nat
  spooled : Nat
  allocated : Nat
  promised : Nat
  promisedShared : Nat
  chain : List Nat
  released : Nat
  passed : Nat
  deriving DecidableEq, Repr

/-- One entry of the stream cache (R5). -/
structure CacheEntry where
  valid : Bool
  high : Nat
  slot : Slot
  deriving DecidableEq, Repr

/-- A pool record (R52): allowance (R30), reservation (R26), the pool's free queue (R27), the job queue in its four priority
classes, and the ready-lane queue (R54). -/
structure Pool where
  allowance : Nat
  base : Nat
  limit : Nat
  free : List Nat
  classes : Vector (List Slot) 4
  ready : List LaneNo
  deriving DecidableEq, Repr

/-! ## Lanes -/

/-- The state of a lane (Table 4.4). -/
inductive LaneState where
  | down | training | ready | bound | mediaWait | jammed | offline
  deriving DecidableEq, Repr

/-- A printer's capability (R75). -/
structure Capability where
  chunk : Nat
  media : Word16
  duplex : Bool
  depth : Nat
  deriving DecidableEq, Repr

/-- The condition flags of a STATUS (R79). -/
structure Conditions where
  tonerLow : Bool
  trayLow : Bool
  doorOpen : Bool
  deriving DecidableEq, Repr

/-- A set of lane settings (Table 4.5). Intervals are held in the units of the table: re-offer in milliseconds, answer and
silence in seconds, escalation in minutes with 0 for off. -/
structure Settings where
  pool : PoolNo
  enable : Bool
  mask : Byte
  reoffer : Nat
  answer : Nat
  silence : Nat
  escalation : Nat
  deriving DecidableEq, Repr

/-- An outstanding offer (R92). The record is named by its sheet number. -/
structure Offer where
  copy : Nat
  sheet : Nat
  seq : Word16
  account : AccountNo
  x : Nat
  estimate : Nat
  deriving DecidableEq, Repr

/-- A retained offer: a sheet-copy and the sequence it was last offered under (R92). -/
structure Retained where
  copy : Nat
  sheet : Nat
  seq : Word16
  deriving DecidableEq, Repr

/-- An in-flight entry (Table 5.1). The record is named by its sheet number. -/
structure InFlight where
  seq : Word16
  copy : Nat
  sheet : Nat
  account : AccountNo
  x : Nat
  estimate : Nat
  deriving DecidableEq, Repr

/-- The last jam of a lane (R113). -/
structure LastJam where
  location : BitVec 4
  job : Option (Slot × AccountNo)
  deriving DecidableEq, Repr

/-- A lane record (Table 4.4, R92, R113, R150) with the carrier detect input of the lane's link. A timer is absent when it is
stopped, and otherwise holds the milliseconds left. -/
structure Lane where
  state : LaneState
  carrier : Bool
  job : Option Slot
  cap : Capability
  flags : Conditions
  current : Settings
  pendingSet : Option (Settings × QueuePtr)
  seq : Word16
  offer : Option Offer
  retained : Option Retained
  timeouts : Nat
  abort : Bool
  inflight : List InFlight
  hail : Option Nat
  silence : Option Nat
  answer : Option Nat
  reoffer : Option Nat
  escalation : Option Nat
  crcErrors : Nat
  ignored : Nat
  sheetsOut : Nat
  colourSides : Nat
  monoSides : Nat
  sheetsSpoiled : Nat
  jams : Nat
  lastJam : Option LastJam
  deriving DecidableEq, Repr

/-! ## Meter tables and accounts -/

/-- A rate table entry (R125). -/
structure Rate where
  bm : Word16
  bc : Word16
  slope : Word16
  valid : Bool
  deriving DecidableEq, Repr

/-- A tier table entry (R127). -/
structure Tier where
  threshold : Nat
  percentage : Nat
  valid : Bool
  deriving DecidableEq, Repr

/-- An account record (Table 8.1). -/
structure Account where
  isOpen : Bool
  balance : Int
  limit : Nat
  pending : Nat
  residue : Nat
  periodSheets : Nat
  periodCharge : Nat
  lastSheets : Nat
  lastCharge : Nat
  deriving DecidableEq, Repr

/-! ## Alerts -/

/-- The twelve alert kinds (Table 9.1). -/
inductive AlertKind where
  | jam | jamEscalated | media | refused | laneLost | tonerLow | trayLow | doorOpen
  | overrun | sheetDamaged | recordShort | accountHold
  deriving DecidableEq, Repr

/-- An alert event: its kind and the fields it names (Table 9.1). `lost` is the spoiled count of a LANE-LOST event, and 0
otherwise. -/
structure AlertEvent where
  kind : AlertKind
  lane : Option LaneNo
  slot : Option Slot
  account : Option AccountNo
  copy : Option Nat
  sheet : Option Nat
  lost : Nat
  deriving DecidableEq, Repr

/-- An occupied alert record (Table 9.2). -/
structure AlertRecord where
  kind : AlertKind
  lane : Option LaneNo
  slot : Option Slot
  account : Option AccountNo
  copy : Option Nat
  sheet : Option Nat
  first : Word32
  last : Word32
  count : Nat
  lost : Nat
  relayed : Bool
  deriving DecidableEq, Repr

/-! ## Directives and notices -/

/-- Result codes (Table 10.1). -/
inductive Result where
  | done | range | state | busy | overlap | mismatch | superseded | extendDropped | unknown | queueFull
  deriving DecidableEq, Repr

/-- The condition of a directive queue entry (R162). A pending entry keeps the number of entries that were incomplete before it
when it was taken, which a FENCE reports (R167); a complete one keeps its result and two values. -/
inductive Condition where
  | empty
  | waiting
  | pending (before : Nat)
  | complete (result : Result) (value1 value2 : Word32)
  deriving DecidableEq, Repr

/-- A directive queue entry (R162): the directive, its place in its frame and the frame's size and source (R161), and its
condition. -/
structure QueueEntry where
  directive : Directive
  place : Nat
  size : Nat
  source : MacAddress
  cond : Condition
  deriving DecidableEq, Repr

/-- The directive queue with its three pointers (R162), the pending-extension register (R166) and whether a RESET has been
taken (R163, R168). -/
structure DirectiveQueue where
  ring : Vector QueueEntry 64
  tail : QueuePtr
  take : QueuePtr
  retire : QueuePtr
  ext : Option (Word32 × Word32)
  resetTaken : Bool
  deriving DecidableEq, Repr

/-- Why an OPEN is refused (R3). -/
inductive RejectReason where
  | streamBusy | noSlot | account | pool
  deriving DecidableEq, Repr

/-- One entry of a REPLY (R165). -/
structure ReplyEntry where
  tag : Word16
  result : Result
  value1 : Word32
  value2 : Word32
  deriving DecidableEq, Repr

/-- The totals that DONE and CANCELLED carry (R68). -/
structure Totals where
  confirmed : Nat
  spoiled : Nat
  damaged : Nat
  charge : Nat
  deriving DecidableEq, Repr

/-- An item of the notice queue (R170, Tables 3.5 and 11.4). A REPLY is marked when it is the reply of a RESET, since the engine
resets as that reply leaves the queue (R168). -/
inductive Notice where
  | reply (entries : List ReplyEntry) (resets : Bool)
  | accepted (slot : Slot) (tag : Word16)
  | rejected (tag : Word16) (reason : RejectReason)
  | credit (slot : Slot) (tag : Word16) (granted : Nat)
  | dispatched (slot : Slot) (lane : LaneNo)
  | held (slot : Slot) (tag : Word16) (reasons : Reasons)
  | done (slot : Slot) (tag : Word16) (totals : Totals)
  | cancelled (slot : Slot) (tag : Word16) (totals : Totals)
  | alert (record : Option (Fin 32)) (notLogged : Bool) (fields : AlertRecord)
  | fenceDone (tag : Word16)
  deriving DecidableEq, Repr

/-- A link frame from the engine to a printer (Table 4.1). -/
inductive LinkFrame where
  | hail (lane : LaneNo) (station : Byte)
  | offer (seq : Word16) (slot : Slot) (copy sheet cls sides length chunks : Nat)
  | chunk (seq : Word16) (index : Nat) (bytes : List Byte)
  | abort
  deriving DecidableEq, Repr

/-- A frame the engine has put on a wire, as bytes: on a lane link, CRC included, or on the upstream port, from its destination
address to the end of its data field. -/
inductive Sent where
  | link (lane : LaneNo) (bytes : List Byte)
  | upstream (bytes : List Byte)
  deriving DecidableEq, Repr

/-! ## The bookkeeping of one event -/

/-- A directive that completes in the present event: its queue entry, result and values (R164). -/
structure Completion where
  ptr : QueuePtr
  result : Result
  value1 : Word32
  value2 : Word32
  deriving DecidableEq, Repr

/-- What the present event still has to carry out before it ends, and what it must remember until then: the pools that were given a
dispatch opportunity (R55), the jobs it has requeued (R51), the accounts whose headroom rose (R148), the directives that complete
(R164), and whether a RESET's reply was dropped (R168). -/
structure Todo where
  pools : List PoolNo
  requeued : List Slot
  risen : List AccountNo
  done : List Completion
  reset : Bool
  deriving DecidableEq, Repr

end Sys2Proof.Machine
end

