-- ==== Sys2Proof/Machine/Formats.lean ====
section
/-! DEFINITION. The frames the engine sends, as bytes (R173, R176, R178, Tables 11.4, 11.5 and 11.7). -/

namespace Sys2Proof.Machine

/-- A number in `n` bytes, most significant first (R173). -/
def beBytes : Nat → Nat → List Byte
  | 0, _ => []
  | n + 1, v => beBytes n (v / 256) ++ [BitVec.ofNat 8 v]

/-- The number that bytes spell, most significant first (R173). -/
def beNat (bytes : List Byte) : Nat :=
  bytes.foldl (fun acc b => acc * 256 + b.toNat) 0

/-- One bit of the CRC of R178: shift left, and add the polynomial x^12 + x^5 + 1 when a one was shifted out. -/
def crcBit (crc : Word16) : Word16 :=
  if crc.msb then (crc <<< 1) ^^^ 0x1021 else crc <<< 1

/-- One byte of the CRC of R178, its most significant bit first. -/
def crcByte (crc : Word16) (b : Byte) : Word16 :=
  crcBit (crcBit (crcBit (crcBit (crcBit (crcBit (crcBit (crcBit (crc ^^^ (b.setWidth 16 <<< 8)))))))))

/-- The CRC-16 of a link frame's kind and body, starting from all ones, with no final inversion (R178). -/
def crc16 (bytes : List Byte) : Word16 :=
  bytes.foldl crcByte 0xFFFF

/-- A link frame's kind and body (Table 11.7). -/
def LinkFrame.body : LinkFrame → List Byte
  | .hail lane station => [0x01] ++ beBytes 1 lane ++ [station]
  | .offer seq slot copy sheet cls sides length chunks =>
      [0x02] ++ beBytes 2 seq.toNat ++ beBytes 1 slot ++ beBytes 2 copy ++ beBytes 2 sheet ++ beBytes 1 cls
        ++ beBytes 1 sides ++ beBytes 3 length ++ beBytes 3 chunks
  | .chunk seq index bytes =>
      [0x03] ++ beBytes 2 seq.toNat ++ beBytes 3 index ++ beBytes 2 bytes.length ++ bytes
  | .abort => [0x04]

/-- A link frame as it is sent: kind, body and CRC, high byte first (R70, R178). -/
def LinkFrame.bytes (f : LinkFrame) : List Byte :=
  f.body ++ beBytes 2 (crc16 f.body).toNat

/-! ## Codes (Table 11.5) -/

/-- The code of a result. -/
def resultCode : Result → Nat
  | .done => 0 | .range => 1 | .state => 2 | .busy => 3 | .overlap => 4 | .mismatch => 5
  | .superseded => 6 | .extendDropped => 7 | .unknown => 8 | .queueFull => 9

/-- The code of a job state; FREE has none and is never reported. -/
def jobStateCode : JobState → Nat
  | .free => 0 | .queued => 1 | .printing => 2 | .holding => 3 | .held => 4 | .cancelling => 5

/-- The code of a lane state. -/
def laneStateCode : LaneState → Nat
  | .down => 0 | .training => 1 | .ready => 2 | .bound => 3 | .mediaWait => 4 | .jammed => 5 | .offline => 6

/-- The code of an alert kind. -/
def alertKindCode : AlertKind → Nat
  | .jam => 1 | .jamEscalated => 2 | .media => 3 | .refused => 4 | .laneLost => 5 | .tonerLow => 6 | .trayLow => 7
  | .doorOpen => 8 | .overrun => 9 | .sheetDamaged => 10 | .recordShort => 11 | .accountHold => 12

/-- The code of a reason for refusing an OPEN (Table 11.4). -/
def rejectCode : RejectReason → Nat
  | .streamBusy => 1 | .noSlot => 2 | .account => 3 | .pool => 4

/-- A set of hold reasons as flags: bit 0 OPERATOR, bit 1 FUNDS, bit 2 REFUSED (Table 11.5). That the bits that no flag is named for are 0
is the model's choice (log entry 21). -/
def reasonsCode (r : Reasons) : Nat :=
  r.operator.toNat + 2 * r.funds.toNat + 4 * r.refused.toNat

/-- Condition flags: bit 0 TONER-LOW, bit 1 TRAY-LOW, bit 2 DOOR-OPEN (Table 11.5). That the bits that no flag is named for are 0 is the
model's choice (log entry 21). -/
def conditionsCode (f : Conditions) : Nat :=
  f.tonerLow.toNat + 2 * f.trayLow.toNat + 4 * f.doorOpen.toNat

/-- An optional number in `n` bytes; absent is written with every bit set (R173). -/
def optBytes (n : Nat) (v : Option Nat) : List Byte :=
  beBytes n (v.getD (256 ^ n - 1))

/-! ## Notices (R176, Table 11.4) -/

/-- The item type of a notice. -/
def noticeType : Notice → Nat
  | .reply _ _ => 1 | .accepted _ _ => 2 | .rejected _ _ => 3 | .credit _ _ _ => 4 | .dispatched _ _ => 5
  | .held _ _ _ => 6 | .done _ _ _ => 7 | .cancelled _ _ _ => 8 | .alert _ _ _ => 9 | .fenceDone _ => 10

/-- The entry count of a notice: the entries of a REPLY, and 0 for every other item. -/
def noticeCount : Notice → Nat
  | .reply entries _ => entries.length
  | _ => 0

/-- One entry of a REPLY body. -/
def replyEntryBytes (e : ReplyEntry) : List Byte :=
  beBytes 2 e.tag.toNat ++ beBytes 2 (resultCode e.result) ++ beBytes 4 e.value1.toNat ++ beBytes 4 e.value2.toNat

/-- The body of a DONE or CANCELLED. -/
def totalsBytes (slot : Slot) (tag : Word16) (t : Totals) : List Byte :=
  beBytes 2 slot ++ beBytes 2 tag.toNat ++ beBytes 4 t.confirmed ++ beBytes 4 t.spoiled ++ beBytes 4 t.damaged
    ++ beBytes 6 t.charge

/-- The body of an ALERT: a copy or a sheet that is absent is written as 0, the other absent fields with every bit set (R173). Table 11.4
gives the not-logged field one byte and names no bit of it; that it holds 1 when the event was not logged and 0 when it was is the
model's choice (log entry 21). -/
def alertBytes (record : Option (Fin 32)) (notLogged : Bool) (a : AlertRecord) : List Byte :=
  optBytes 1 (record.map (·.val)) ++ beBytes 1 notLogged.toNat ++ beBytes 1 (alertKindCode a.kind)
    ++ optBytes 1 (a.lane.map (·.val)) ++ optBytes 2 (a.slot.map (·.val)) ++ optBytes 2 (a.account.map (·.val))
    ++ beBytes 2 (a.copy.getD 0) ++ beBytes 2 (a.sheet.getD 0) ++ beBytes 4 a.first.toNat ++ beBytes 4 a.last.toNat
    ++ beBytes 1 a.count ++ beBytes 2 a.lost

/-- The body of a notice item. -/
def noticeBody : Notice → List Byte
  | .reply entries _ => entries.flatMap replyEntryBytes
  | .accepted slot tag => beBytes 2 slot ++ beBytes 2 tag.toNat
  | .rejected tag reason => optBytes 2 none ++ beBytes 2 tag.toNat ++ beBytes 1 (rejectCode reason)
  | .credit slot tag granted => beBytes 2 slot ++ beBytes 2 tag.toNat ++ beBytes 4 granted
  | .dispatched slot lane => beBytes 2 slot ++ beBytes 1 lane
  | .held slot tag reasons => beBytes 2 slot ++ beBytes 2 tag.toNat ++ beBytes 1 (reasonsCode reasons)
  | .done slot tag totals => totalsBytes slot tag totals
  | .cancelled slot tag totals => totalsBytes slot tag totals
  | .alert record notLogged fields => alertBytes record notLogged fields
  | .fenceDone tag => beBytes 2 tag.toNat

/-- A data field, padded with zero bytes to the Ethernet minimum (R176; the padding's value is log entry 8). -/
def padData (bytes : List Byte) : List Byte :=
  bytes ++ List.replicate (Config.minData - bytes.length) 0

/-- The engine's own address, 02-5C-16-40-00-ss (R176). -/
def engineAddress (station : Byte) : MacAddress :=
  0x025C16400000 ||| station.setWidth 48

/-- A notice frame: destination, source, type and padded data field (R171, R176). The frame check sequence that the port
appends is left out (log entry 8). -/
def noticeFrame (dest : MacAddress) (station : Byte) (n : Notice) : List Byte :=
  beBytes 6 dest.toNat ++ beBytes 6 (engineAddress station).toNat ++ beBytes 2 Config.frameType.toNat
    ++ padData ([0x20, station] ++ beBytes 1 (noticeType n) ++ beBytes 1 (noticeCount n) ++ noticeBody n)

end Sys2Proof.Machine
end

