-- ==== Sys2Proof/Machine/State.lean ====
section
/-! DEFINITION. The state of the engine, the reasons a step can stop, and the state after reset (R180 and the reset values that
each chapter gives). -/

namespace Sys2Proof.Machine

/-- Why the engine stops with a fault: never. The spec names no event that stops the engine (bad frames are discarded, bad
directives complete with a result code, a lost lane retrains), so this type is empty. -/
inductive Fault where
  deriving DecidableEq, Repr

/-- Why a command has no meaning. -/
inductive Refusal where
  /-- Raised by no command: every row of the opcode table has its meaning. It would be safe, since a run would stop at it. -/
  | notModelled (mnemonic : String)
  deriving DecidableEq, Repr

/-- The engine. `sent`, `pending`, `todo` and `strapChanges` are the model's own: the frames put on the wires, the commands that
wait, what the present event still has to carry out, and the levels that the outside puts on the strap inputs for the coming resets
by directive (log entries 8, 3, 9 and 19). -/
structure State where
  resetLow : Bool
  straps : Byte
  strapChanges : List Byte
  station : Byte
  cache : Vector CacheEntry 64
  unknownStream : Nat
  closedStream : Nat
  duplicates : Nat
  badHeaders : Nat
  overruns : Nat
  mem : List Host.Cell
  sharedFree : List Nat
  waitList : List Slot
  jobs : Vector Job 256
  pools : Vector Pool 8
  lanes : Vector Lane 16
  rates : Vector Rate 16
  tiers : Vector Tier 4
  accounts : Vector Account 1024
  alerts : Vector (Option AlertRecord) 32
  overflow : Bool
  overflowCount : Nat
  intakeMask : BitVec 4
  tick : Word32
  queue : DirectiveQueue
  notices : List Notice
  noticeDrops : Nat
  noticeAddr : MacAddress
  sent : List Sent
  pending : List Instr
  todo : Todo
  deriving DecidableEq, Repr

/-! ## Values after reset -/

/-- A FREE job record (R47). Its fields other than the state have no meaning; these are the model's (log entry 6). -/
def Job.vacant : Job where
  state := .free
  reasons := ⟨false, false, false⟩
  tag := 0
  account := 0
  pool := 0
  prio := 0
  copies := 1
  winFirst := 0
  winLast := 0
  intakeOpen := false
  expected := 0
  lastSheet := 0
  records := []
  send := ⟨1, 0⟩
  confirm := ⟨1, 0⟩
  lane := none
  pendingHold := none
  pendingCancel := none
  confirmed := 0
  spoiled := 0
  damaged := 0
  charge := 0
  granted := 0
  spooled := 0
  allocated := 0
  promised := 0
  promisedShared := 0
  chain := []
  released := 0
  passed := 0

/-- A pool record after reset: allowance 64 (R30), no reservation (R26), empty queues (R27, R52, R54). -/
def Pool.afterReset : Pool where
  allowance := 64
  base := 1
  limit := 0
  free := []
  classes := Vector.replicate 4 []
  ready := []

/-- The lane settings after reset (Table 4.4). -/
def Settings.afterReset : Settings where
  pool := 0
  enable := true
  mask := 0
  reoffer := 200
  answer := 2
  silence := 5
  escalation := 5

/-- A lane record after reset (Table 4.4): TRAINING with the hail timer running, or DOWN with every timer stopped when the
carrier is absent (R78). -/
def Lane.afterReset (carrier : Bool) : Lane where
  state := if carrier then .training else .down
  carrier := carrier
  job := none
  cap := ⟨256, 0, false, 1⟩
  flags := ⟨false, false, false⟩
  current := Settings.afterReset
  pendingSet := none
  seq := 0
  offer := none
  retained := none
  timeouts := 0
  abort := false
  inflight := []
  hail := if carrier then some Config.hailMs else none
  silence := none
  answer := none
  reoffer := none
  escalation := none
  crcErrors := 0
  ignored := 0
  sheetsOut := 0
  colourSides := 0
  monoSides := 0
  sheetsSpoiled := 0
  jams := 0
  lastJam := none

/-- A rate entry after reset (R125). -/
def Rate.afterReset : Rate := ⟨0, 0, 0, false⟩

/-- The tier table after reset (R127). -/
def tiersAfterReset : Vector Tier 4 :=
  #v[⟨0, 100, true⟩, ⟨0, 100, false⟩, ⟨0, 100, false⟩, ⟨0, 100, false⟩]

/-- An account after reset (R138). -/
def Account.afterReset : Account := ⟨false, 0, 0, 0, 0, 0, 0, 0, 0⟩

/-- A directive queue entry after reset (R162). -/
def QueueEntry.afterReset : QueueEntry := ⟨⟨0, 0, 0, 0, 0⟩, 0, 0, 0, .empty⟩

/-- The management unit's directive queue after reset (R162, R166). -/
def DirectiveQueue.afterReset : DirectiveQueue where
  ring := Vector.replicate 64 QueueEntry.afterReset
  tail := 0
  take := 0
  retire := 0
  ext := none
  resetTaken := false

/-- Nothing left to carry out. -/
def Todo.nothing : Todo := ⟨[], [], [], [], false⟩

/-- The HAILs that start-up sends, one on each lane with carrier (R74, R180). R180 gives them no order among the lanes; that they stand in
ascending lane number among the frames sent is the model's choice (log entry 8). -/
def firstHails (station : Byte) (carriers : List Bool) : List Sent :=
  ((List.finRange 16).zip carriers).filterMap fun p =>
    if p.2 then some (.link p.1 (LinkFrame.hail p.1 station).bytes) else none

/-- The engine when its start-up has run (R180): every block at the value its chapter gives for the state after reset, the
straps read into the station number, spool memory as it was, and a HAIL sent on each lane with carrier. `straps` and `carriers` are
the levels on the strap and carrier detect inputs, `changes` the strap levels still to come, `sent` the frames sent before,
`pending` the commands that wait outside. -/
def State.startUp (straps : Byte) (changes : List Byte) (carriers : Vector Bool 16) (mem : List Host.Cell) (sent : List Sent)
    (pending : List Instr) : State where
  resetLow := false
  straps := straps
  strapChanges := changes
  station := straps
  cache := Vector.replicate 64 ⟨false, 0, 0⟩
  unknownStream := 0
  closedStream := 0
  duplicates := 0
  badHeaders := 0
  overruns := 0
  mem := mem
  sharedFree := List.range Config.blocks
  waitList := []
  jobs := Vector.replicate 256 Job.vacant
  pools := Vector.replicate 8 Pool.afterReset
  lanes := mapVector Lane.afterReset carriers
  rates := Vector.replicate 16 Rate.afterReset
  tiers := tiersAfterReset
  accounts := Vector.replicate 1024 Account.afterReset
  alerts := Vector.replicate 32 none
  overflow := false
  overflowCount := 0
  intakeMask := 0
  tick := 0
  queue := DirectiveQueue.afterReset
  notices := []
  noticeDrops := 0
  noticeAddr := Config.broadcast
  sent := sent ++ firstHails straps carriers.toList
  pending := pending
  todo := Todo.nothing

/-- The engine right after reset: straps 0, no change of them to come, and carrier on every lane are the model's levels (log entries 5
and 19), spool memory holds nothing written (log entry 7). -/
def State.reset : State :=
  State.startUp 0 [] (Vector.replicate 16 true) [] [] []

end Sys2Proof.Machine
end

