-- ==== Sys2Proof/Machine/Ops.lean ====
section
/-! DEFINITION. The named operations over spool memory, the tables of the state, the wires and the notice queue. -/

namespace Sys2Proof.Machine

/-! ## Spool memory

A list of (address, byte) with strictly rising addresses and no entry equal to what an unlisted address reads as. The byte
address of offset o in block b is 4096 × b + o (R25). -/

/-- What a byte that nothing has written reads as (log entry 7). -/
def Memory.unwritten : Byte := 0

/-- Reads one byte. -/
def Memory.read : List Host.Cell → Nat → Byte
  | [], _ => Memory.unwritten
  | (b, v) :: rest, a => if a = b then v else Memory.read rest a

/-- Writes one byte and keeps the canonical form. -/
def Memory.write : List Host.Cell → Nat → Byte → List Host.Cell
  | [], a, v => if v = Memory.unwritten then [] else [(a, v)]
  | (b, w) :: rest, a, v =>
      if a < b then (if v = Memory.unwritten then (b, w) :: rest else (a, v) :: (b, w) :: rest)
      else if a = b then (if v = Memory.unwritten then rest else (a, v) :: rest)
      else (b, w) :: Memory.write rest a v

/-- The canonical form, for the addresses from `low` on. -/
def Memory.wfFrom : Nat → List Host.Cell → Bool
  | _, [] => true
  | low, (b, v) :: rest => low ≤ b && v != Memory.unwritten && Memory.wfFrom (b + 1) rest

/-- The canonical form. -/
def Memory.wf (m : List Host.Cell) : Bool := Memory.wfFrom 0 m

/-! ## Counters -/

/-- A 32-bit counter raised by `n`, which saturates. -/
def raise32 (n k : Nat) : Nat := min (k + n) Config.counterMax

/-- A 32-bit counter raised by one, which saturates. -/
def bump (k : Nat) : Nat := raise32 1 k

/-! ## Tables -/

/-- The job record of a slot. -/
def State.job (s : State) (i : Slot) : Job := s.jobs[i]

/-- The state with the job record of a slot replaced. -/
def State.setJob (s : State) (i : Slot) (j : Job) : State := { s with jobs := s.jobs.set i j }

/-- The state with the job record of a slot changed by `f`. -/
def State.modJob (s : State) (i : Slot) (f : Job → Job) : State := s.setJob i (f (s.job i))

/-- A lane record. -/
def State.lane (s : State) (l : LaneNo) : Lane := s.lanes[l]

/-- The state with a lane record replaced. -/
def State.setLane (s : State) (l : LaneNo) (r : Lane) : State := { s with lanes := s.lanes.set l r }

/-- The state with a lane record changed by `f`. -/
def State.modLane (s : State) (l : LaneNo) (f : Lane → Lane) : State := s.setLane l (f (s.lane l))

/-- A pool record. -/
def State.pool (s : State) (p : PoolNo) : Pool := s.pools[p]

/-- The state with a pool record replaced. -/
def State.setPool (s : State) (p : PoolNo) (r : Pool) : State := { s with pools := s.pools.set p r }

/-- The state with a pool record changed by `f`. -/
def State.modPool (s : State) (p : PoolNo) (f : Pool → Pool) : State := s.setPool p (f (s.pool p))

/-- An account record. -/
def State.account (s : State) (a : AccountNo) : Account := s.accounts[a]

/-- The state with an account record replaced. -/
def State.setAccount (s : State) (a : AccountNo) (r : Account) : State := { s with accounts := s.accounts.set a r }

/-- The state with an account record changed by `f`. -/
def State.modAccount (s : State) (a : AccountNo) (f : Account → Account) : State := s.setAccount a (f (s.account a))

/-! ## The wires and the notice queue -/

/-- Puts a frame on a lane link (R71). -/
def State.transmit (s : State) (l : LaneNo) (f : LinkFrame) : State :=
  { s with sent := s.sent ++ [.link l f.bytes] }

/-- Whether an item to be queued finds room in the notice queue (R170). -/
def State.noticeRoom (s : State) : Bool := s.notices.length < Config.noticePlaces

/-- Queues an item into the notice queue; at a full queue it is dropped and counted (R170). -/
def State.notice (s : State) (n : Notice) : State :=
  if s.noticeRoom then { s with notices := s.notices ++ [n] } else { s with noticeDrops := bump s.noticeDrops }

/-! ## The bookkeeping of one event -/

/-- Notes a dispatch opportunity of a pool (R55). -/
def State.noteDispatch (s : State) (p : PoolNo) : State :=
  { s with todo := { s.todo with pools := s.todo.pools ++ [p] } }

/-- Notes that the event has requeued a job (R51). -/
def State.noteRequeued (s : State) (i : Slot) : State :=
  { s with todo := { s.todo with requeued := s.todo.requeued ++ [i] } }

/-- Notes a funds rise of an account, once for the event (R148). -/
def State.noteRise (s : State) (a : AccountNo) : State :=
  if s.todo.risen.contains a then s else { s with todo := { s.todo with risen := s.todo.risen ++ [a] } }

/-- Notes that a directive completes (R164). -/
def State.complete (s : State) (p : QueuePtr) (r : Result) (v1 v2 : Word32) : State :=
  { s with todo := { s.todo with done := s.todo.done ++ [⟨p, r, v1, v2⟩] } }

/-- Notes that a directive completes, when there is one. -/
def State.completeOpt (s : State) (p : Option QueuePtr) (r : Result) (v1 v2 : Word32) : State :=
  match p with
  | some q => s.complete q r v1 v2
  | none => s

/-- The start of an event: nothing is left to carry out. -/
def State.begin (s : State) : State := { s with todo := Todo.nothing }

end Sys2Proof.Machine
end

