-- ==== Sys2Proof/Machine/Flags.lean ====
section
/-! DEFINITION. Sets of flags: hold reasons (R49), alert masks (R156) and condition flags (R79). -/

namespace Sys2Proof.Machine

/-- The empty set of hold reasons. -/
def Reasons.none : Reasons := ⟨false, false, false⟩

/-- A set of hold reasons with one member added (R49). -/
def Reasons.add (r : Reasons) : Reason → Reasons
  | .operator => { r with operator := true }
  | .funds => { r with funds := true }
  | .refused => { r with refused := true }

/-- The set left when JOB-RELEASE has removed OPERATOR and REFUSED (R59). -/
def Reasons.afterRelease (r : Reasons) : Reasons := { r with operator := false, refused := false }

/-- The set left when a funds rise has removed FUNDS (R148). -/
def Reasons.afterRise (r : Reasons) : Reasons := { r with funds := false }

/-- Whether a set of hold reasons is empty. -/
def Reasons.isEmpty (r : Reasons) : Bool := !(r.operator || r.funds || r.refused)

/-- Whether a kind is one of the four intake kinds, governed by the intake mask (Table 9.1). -/
def AlertKind.isIntake : AlertKind → Bool
  | .overrun | .sheetDamaged | .recordShort | .accountHold => true
  | _ => false

/-- The bit of a kind in its mask: the lane mask of LANE-SET, or the intake mask of ALERT-MASK (R175). -/
def AlertKind.maskBit : AlertKind → Nat
  | .jam => 0 | .jamEscalated => 1 | .media => 2 | .refused => 3 | .laneLost => 4 | .tonerLow => 5 | .trayLow => 6
  | .doorOpen => 7 | .overrun => 0 | .sheetDamaged => 1 | .recordShort => 2 | .accountHold => 3

/-- Whether a kind is masked: by the intake mask, or by the current mask of the lane the event names (R156). -/
def State.masked (s : State) (k : AlertKind) (lane : Option LaneNo) : Bool :=
  if k.isIntake then s.intakeMask.getLsbD k.maskBit
  else match lane with
    | some l => (s.lane l).current.mask.getLsbD k.maskBit
    | none => false

/-- The kinds of the flags that are off in the old set and on in the new (R79). R79 gives no order of their alerts; that they are
raised in the order TONER-LOW, TRAY-LOW, DOOR-OPEN is the model's choice (log entry 20). -/
def risenConditions (old new : Conditions) : List AlertKind :=
  (if !old.tonerLow && new.tonerLow then [.tonerLow] else [])
    ++ (if !old.trayLow && new.trayLow then [.trayLow] else [])
    ++ (if !old.doorOpen && new.doorOpen then [.doorOpen] else [])

end Sys2Proof.Machine
end

