-- ==== Sys2Proof/Machine/AlertLog.lean ====
section
/-! DEFINITION. The alert log: taking an alert event, coalescing, overflow and relaying (R152 to R157). -/

namespace Sys2Proof.Machine

/-- Whether an alert record has the key of an event: kind, lane and job slot (Table 9.1). -/
def AlertRecord.hasKey (r : AlertRecord) (e : AlertEvent) : Bool :=
  r.kind == e.kind && r.lane == e.lane && r.slot == e.slot

/-- The record number that holds an event's key, if any (R153). -/
def State.findAlert (s : State) (e : AlertEvent) : Option (Fin 32) :=
  (List.finRange 32).find? fun i => match s.alerts[i] with
    | some r => r.hasKey e
    | none => false

/-- The lowest-numbered free record, if any (R153). -/
def State.freeAlert (s : State) : Option (Fin 32) :=
  (List.finRange 32).find? fun i => s.alerts[i].isNone

/-- A record as an event with its key leaves it (R153): the count and the lost-sheet total rise and saturate, the last time, the
account, the copy and the sheet become the event's. -/
def AlertRecord.coalesce (r : AlertRecord) (e : AlertEvent) (tick : Word32) : AlertRecord :=
  { r with account := e.account, copy := e.copy, sheet := e.sheet, last := tick,
           count := min (r.count + 1) 255, lost := min (r.lost + e.lost) 65535 }

/-- A new record for an event (R153); it is also what the notice of an event that was not logged carries (R156). -/
def AlertEvent.record (e : AlertEvent) (tick : Word32) : AlertRecord :=
  ⟨e.kind, e.lane, e.slot, e.account, e.copy, e.sheet, tick, tick, 1, e.lost, false⟩

/-- Stores a record and relays it unless its kind is masked; the relayed field says whether its notice entered the notice
queue (R156). -/
def State.relayInto (s : State) (i : Fin 32) (r : AlertRecord) : State :=
  if s.masked r.kind r.lane then { s with alerts := s.alerts.set i (some { r with relayed := false }) }
  else { s.notice (.alert (some i) false r) with
           alerts := s.alerts.set i (some { r with relayed := s.noticeRoom }) }

/-- Takes an alert event: it coalesces into the record with its key, or fills the lowest free record, or at a full log sets the
overflow flag, raises the overflow counter and is relayed as not logged (R153, R155, R156). -/
def State.raiseAlert (s : State) (e : AlertEvent) : State :=
  match s.findAlert e with
  | some i =>
      match s.alerts[i] with
      | some r => s.relayInto i (r.coalesce e s.tick)
      | none => s
  | none =>
      match s.freeAlert with
      | some i => s.relayInto i (e.record s.tick)
      | none =>
          let t := { s with overflow := true, overflowCount := bump s.overflowCount }
          if t.masked e.kind e.lane then t else t.notice (.alert none true (e.record s.tick))

/-- Relays one held record on unmask: its notice carries the record as it stands, and the relayed field becomes yes when the
notice enters the queue (R157). -/
def State.relayHeld (s : State) (p : AlertRecord → Bool) (i : Fin 32) : State :=
  match s.alerts[i] with
  | some r =>
      if !r.relayed && p r then
        { s.notice (.alert (some i) false r) with
            alerts := s.alerts.set i (some { r with relayed := s.noticeRoom }) }
      else s
  | none => s

/-- Relays, in ascending record number, every unrelayed record of the kinds just unmasked (R157). -/
def State.relayUnmasked (s : State) (p : AlertRecord → Bool) : State :=
  (List.finRange 32).foldl (fun t i => t.relayHeld p i) s

/-- The records that a change of a lane's mask unmasks: lane kinds of that lane whose flag was set and is now clear (R157). -/
def unmaskedOnLane (l : LaneNo) (old new : Byte) (r : AlertRecord) : Bool :=
  !r.kind.isIntake && r.lane == some l && old.getLsbD r.kind.maskBit && !new.getLsbD r.kind.maskBit

/-- The records that a change of the intake mask unmasks (R157, R158). -/
def unmaskedAtIntake (old new : BitVec 4) (r : AlertRecord) : Bool :=
  r.kind.isIntake && old.getLsbD r.kind.maskBit && !new.getLsbD r.kind.maskBit

/-- The alert of an intake kind for a job: it names the job slot, its account and a sheet number, and no lane and no copy
(Table 9.1). -/
def intakeAlert (k : AlertKind) (slot : Slot) (account : AccountNo) (sheet : Nat) : AlertEvent :=
  ⟨k, none, some slot, some account, none, some sheet, 0⟩

/-- The alert of a lane about a sheet-copy of its bound job (MEDIA, REFUSED, ACCOUNT-HOLD of Table 9.1). -/
def sheetAlert (k : AlertKind) (l : LaneNo) (slot : Slot) (account : AccountNo) (copy sheet : Nat) : AlertEvent :=
  ⟨k, some l, some slot, some account, some copy, some sheet, 0⟩

/-- The alert of a lane that names a job when there is one, and a sheet-copy when there is one. -/
def laneAlert (k : AlertKind) (l : LaneNo) (job : Option (Slot × AccountNo)) (copy sheet : Option Nat) (lost : Nat) :
    AlertEvent :=
  ⟨k, some l, job.map (·.1), job.map (·.2), copy, sheet, lost⟩

end Sys2Proof.Machine
end

