-- ==== Sys2Proof/Machine/Operands.lean ====
section
/-! DEFINITION. The operand forms of the directives: the fields of Table 11.3, wide operands (R166), clamps, and the packing of
reply values (R177). -/

namespace Sys2Proof.Machine

/-- Bits `low` to `low + n - 1` of an operand (R173: bit 0 is the least significant). -/
def field (w : Word32) (low n : Nat) : BitVec n := w.extractLsb' low n

/-- The command that takes a directive: its code and the operand fields that Table 11.3 names; every other operand bit is
ignored, and a code that is not in the table is an unknown directive (R163, R175). -/
def commandOf (d : Directive) : Instr :=
  match d.code.toNat with
  | 1 => .extend d.op1 d.op2
  | 2 => .fence (d.op0 != 0)
  | 3 => .reset
  | 4 => .countersRead d.op0
  | 5 => .rateSet (field d.op0 0 8) (d.op0.getLsbD 16) (field d.op1 16 16) (field d.op1 0 16) d.op2
  | 6 => .tierSet (field d.op0 0 8) (d.op0.getLsbD 16) d.op1 d.op2
  | 7 => .accountOpen d.op0 d.op1 d.op2
  | 8 => .accountClose d.op0
  | 9 => .accountLimit d.op0 d.op1
  | 10 => .accountSwap d.op0 d.op1 d.op2
  | 11 => .accountRead d.op0 d.op1
  | 12 => .accountRoll d.op0
  | 13 => .laneSet (field d.op0 0 8) (field d.op0 8 8) (field d.op0 16 8) (field d.op1 24 8) (field d.op1 16 8)
      (field d.op1 0 16) (field d.op2 16 16) (field d.op2 8 8)
  | 14 => .laneRead d.op0 d.op1
  | 15 => .poolSet d.op0 d.op1
  | 16 => .poolReserve d.op0 d.op1 d.op2
  | 17 => .jobRead d.op0 d.op1
  | 18 => .jobHold d.op0 d.op1
  | 19 => .jobRelease d.op0 d.op1
  | 20 => .jobCancel d.op0 d.op1
  | 21 => .jobMove d.op0 d.op1
  | 22 => .purge d.op0 d.op1
  | 23 => .alertRead d.op0 d.op1
  | 24 => .alertAck d.op0
  | 25 => .alertMask d.op0
  | _ => .unknownDirective d.code

/-- A wide operand: the signed 64-bit figure of its high and low parts (R166). -/
def wideOperand (high low : Word32) : Int := (high ++ low).toInt

/-- Whether a figure lies in the signed 40-bit range of a balance (Table 8.1). -/
def balanceInRange (b : Int) : Bool := Config.balanceMin ≤ b && b ≤ Config.balanceMax

/-- The low 32 bits of a signed figure's 64-bit two's complement form (R140, R142, R143). -/
def lowWord (b : Int) : Word32 := (BitVec.ofInt 64 b).extractLsb' 0 32

/-- The high 32 bits of a signed figure's 64-bit two's complement form. -/
def highWord (b : Int) : Word32 := (BitVec.ofInt 64 b).extractLsb' 32 32

/-- A reply value. -/
def val32 (n : Nat) : Word32 := BitVec.ofNat 32 n

/-- A flag as a reply value. -/
def flag32 (b : Bool) : Word32 := val32 b.toNat

/-- Two fields in one value: the first in bits 16 to 31, the second in bits 0 to 15 (R177). -/
def pack16 (hi lo : Nat) : Word32 := val32 (hi % 65536 * 65536 + lo % 65536)

/-- Four byte fields in one value, the first in bits 24 to 31 (R177). -/
def pack8 (a b c d : Nat) : Word32 := val32 (a % 256 * 16777216 + b % 256 * 65536 + c % 256 * 256 + d % 256)

/-- A quantity wider than one value, as its remainder by 4,294,967,296 (R64). -/
def wideLow (n : Nat) : Word32 := val32 (n % 4294967296)

/-- A quantity wider than one value, as its quotient by 4,294,967,296 (R64). -/
def wideHigh (n : Nat) : Word32 := val32 (n / 4294967296)

/-- A value brought into the range `low` to `high` (the convention "Clamping"). -/
def clamp (low high n : Nat) : Nat := if n < low then low else if high < n then high else n

/-- The copies of a job: 0 is taken as 1, and a value above 999 as 999 (R4). -/
def clampCopies (n : Nat) : Nat := clamp 1 999 n

/-- The priority of a job: a value above 3 is taken as 3 (R4). -/
def clampPriority (n : Nat) : Fin 4 := ⟨min n 3, by omega⟩

/-- The chunk size of a capability: at least 256, at most 16384, and rounded down to a power of two (R75). -/
def clampChunk (n : Nat) : Nat :=
  if n < 512 then 256 else if n < 1024 then 512 else if n < 2048 then 1024 else if n < 4096 then 2048
  else if n < 8192 then 4096 else if n < 16384 then 8192 else 16384

/-- The settings of a LANE-SET, each clamped into its range (Table 4.5). -/
def clampSettings (silence escalation pool enable : Byte) (mask reoffer : Word16) (answer : Byte) : Settings where
  pool := ⟨min pool.toNat 7, by omega⟩
  enable := enable != 0
  mask := mask.setWidth 8
  reoffer := clamp 10 2550 reoffer.toNat / 10 * 10
  answer := clamp 1 30 answer.toNat
  silence := clamp 2 60 silence.toNat
  escalation := min escalation.toNat 60

end Sys2Proof.Machine
end

