-- ==== Sys2Proof/Machine/Spool.lean ====
section
/-! DEFINITION. The spool manager: regions and free queues (R25 to R27), promises (R32), grants (R37 to R40), allocation and
storing (R33 to R36), and the release of blocks (R43 to R45). -/

namespace Sys2Proof.Machine

/-! ## Regions -/

/-- Whether a pool has a reservation: the limit extent is not below the base (R26). -/
def Pool.reserved (p : Pool) : Bool := p.base ≤ p.limit

/-- Whether a block lies in the extents `base` to `limit` (R25, R26). -/
def inExtents (base limit b : Nat) : Bool := base ≤ b / Config.extentBlocks && b / Config.extentBlocks ≤ limit

/-- The pool whose reservation contains a block, or nothing when the block is in the shared region (R26). -/
def State.regionOf (s : State) (b : Nat) : Option PoolNo :=
  (List.finRange 8).find? fun p => inExtents (s.pool p).base (s.pool p).limit b

/-- Returns a block to the tail of its region's free queue (R27). -/
def State.freeBlock (s : State) (b : Nat) : State :=
  match s.regionOf b with
  | some p => s.modPool p fun r => { r with free := r.free ++ [b] }
  | none => { s with sharedFree := s.sharedFree ++ [b] }

/-- Returns blocks in order, the first one first (R43, R45). -/
def State.freeBlocks (s : State) (bs : List Nat) : State := bs.foldl State.freeBlock s

/-! ## Promises and grants -/

/-- A job's outstanding promise (R31). -/
def Job.outstanding (j : Job) : Nat := j.promised + j.promisedShared

/-- The promise total of a pool's region: the reserved promises of that pool's jobs (R32). -/
def State.promiseTotal (s : State) (p : PoolNo) : Nat :=
  ((s.jobs.toList.filter fun j => j.state != .free && j.pool == p).map (·.promised)).sum

/-- The shared promise total: the shared promises of all jobs (R32). -/
def State.sharedTotal (s : State) : Nat :=
  ((s.jobs.toList.filter fun j => j.state != .free).map (·.promisedShared)).sum

/-- The free-unpromised count of a pool's region, 0 when the pool has no reservation (R32, R39). -/
def State.poolUnpromised (s : State) (p : PoolNo) : Nat :=
  if (s.pool p).reserved then (s.pool p).free.length - s.promiseTotal p else 0

/-- The free-unpromised count of the shared region (R32). -/
def State.sharedUnpromised (s : State) : Nat := s.sharedFree.length - s.sharedTotal

/-- A pool's refill mark: half its allowance, and at least 1 (R37). -/
def Pool.refillMark (p : Pool) : Nat := max (p.allowance / 2) 1

/-- Whether a job is due for credit: its intake is open and its outstanding promise is below its pool's refill mark (R37). -/
def State.due (s : State) (i : Slot) : Bool :=
  (s.job i).intakeOpen && (s.job i).outstanding < (s.pool (s.job i).pool).refillMark

/-- A job joins the tail of the grant wait list when it is due and not already on it (R37). -/
def State.joinWait (s : State) (i : Slot) : State :=
  if s.due i && !s.waitList.contains i then { s with waitList := s.waitList ++ [i] } else s

/-- A job leaves the grant wait list (R37). -/
def State.leaveWait (s : State) (i : Slot) : State := { s with waitList := s.waitList.filter (· != i) }

/-- The size of the grant a walk makes to a job (R39): the lesser of what its allowance leaves and the free-unpromised blocks of
its pool's region and the shared region together. -/
def State.grantSize (s : State) (i : Slot) : Nat :=
  min ((s.pool (s.job i).pool).allowance - (s.job i).outstanding)
    (s.poolUnpromised (s.job i).pool + s.sharedUnpromised)

/-- A job with `g` units granted, `r` of them drawn from its pool's region and the rest from the shared region (R39). -/
def Job.grant (j : Job) (g r : Nat) : Job :=
  { j with granted := j.granted + g, promised := j.promised + r, promisedShared := j.promisedShared + (g - r) }

/-- A walk's visit to one job (R39, R40): the grant, drawn first from the pool's region, its CREDIT notice, and the job's
leaving of the list when its outstanding promise has reached the refill mark. -/
def State.grantTo (s : State) (i : Slot) : State :=
  if s.grantSize i = 0 then s
  else
    let t := (s.modJob i fun j => j.grant (s.grantSize i) (min (s.grantSize i) (s.poolUnpromised j.pool)))
    let t := t.notice (.credit i (t.job i).tag (t.job i).granted)
    if t.due i then t else t.leaveWait i

/-- One walk of the grant wait list, from head to tail (R38, R39). -/
def State.walk (s : State) : State := s.waitList.foldl State.grantTo s

/-- The return of a job's outstanding promise when its intake closes (R41): the promises become 0, the granted units are lowered
to the blocks allocated, the job leaves the wait list, and a promise above 0 makes it a grant opportunity. -/
def State.returnPromise (s : State) (i : Slot) : State :=
  let t := (s.modJob i fun j => { j with granted := j.allocated, promised := 0, promisedShared := 0 }).leaveWait i
  if 0 < (s.job i).outstanding then t.walk else t

/-! ## Taking payload -/

/-- Allocates one block to a job (R34): from the head of its pool's queue while its reserved promise is nonzero, and otherwise
from the head of the shared queue. -/
def State.allocate (s : State) (i : Slot) : State :=
  if 0 < (s.job i).promised then
    match (s.pool (s.job i).pool).free with
    | b :: rest =>
        (s.modPool (s.job i).pool fun p => { p with free := rest }).modJob i fun j =>
          { j with promised := j.promised - 1, chain := j.chain ++ [b], allocated := j.allocated + 1 }
    | [] => s
  else
    match s.sharedFree with
    | b :: rest =>
        ({ s with sharedFree := rest }).modJob i fun j =>
          { j with promisedShared := j.promisedShared - 1, chain := j.chain ++ [b], allocated := j.allocated + 1 }
    | [] => s

/-- Allocates `n` blocks to a job, one at a time. -/
def State.allocateMany : Nat → State → Slot → State
  | 0, s, _ => s
  | n + 1, s, i => State.allocateMany n (s.allocate i) i

/-- The block of a job's chain that holds its payload byte `k`, counted from 0 since OPEN, with the offset in it (R31, R35). -/
def Job.placeOf (j : Job) (k : Nat) : Nat × Nat :=
  (j.chain.getD (k / Config.blockBytes - j.released) 0, k % Config.blockBytes)

/-- The address in spool memory of a job's payload byte `k` (R25, R35). -/
def storeAddress (j : Job) (k : Nat) : Nat := (j.placeOf k).1 * Config.blockBytes + (j.placeOf k).2

/-- Stores payload bytes in order from payload byte `k` on (R35). -/
def storeBytes (j : Job) : List Host.Cell → Nat → List Byte → List Host.Cell
  | m, _, [] => m
  | m, k, b :: rest =>
      storeBytes j (Memory.write m (storeAddress j k) b) (k + 1) rest

/-- The blocks a frame of `p` payload bytes needs (R34). -/
def Job.blocksFor (j : Job) (p : Nat) : Nat :=
  (j.spooled + p + (Config.blockBytes - 1)) / Config.blockBytes - j.allocated

/-- Whether a frame of `p` payload bytes is within the job's credit (R33). -/
def Job.withinCredit (j : Job) (p : Nat) : Bool := j.spooled + p ≤ Config.blockBytes * j.granted

/-! ## Serving a sheet (R36) -/

/-- The address of byte `k` of a sheet that starts at `place` in a chain: the chain is followed in order from the sheet's first
block. -/
def sheetAddress (chain : List Nat) (place : Nat × Nat) (k : Nat) : Nat :=
  chain.getD (chain.idxOf place.1 + (place.2 + k) / Config.blockBytes) 0 * Config.blockBytes
    + (place.2 + k) % Config.blockBytes

/-- The bytes `k` to `k + n - 1` of a job's sheet (R36). -/
def State.sheetBytes (s : State) (j : Job) (rec : SheetRecord) (k n : Nat) : List Byte :=
  match rec.place with
  | some place => (List.range n).map fun d => Memory.read s.mem (sheetAddress j.chain place (k + d))
  | none => []

/-! ## Releasing -/

/-- The bytes that records received (R42). -/
def receivedBytes (rs : List SheetRecord) : Nat := (rs.map (·.received)).sum

/-- How many blocks a release pass frees from the head of a chain: those that lie wholly before the passed-bytes point, that is
those at chain positions k with 4096 × (k + 1) not above it (R43). -/
def Job.freeable (j : Job) : Nat := min j.chain.length (j.passed / Config.blockBytes - j.released)

/-- A job whose confirm cursor, on the final copy, has passed the records before it: their received bytes join the passed bytes
and the records leave the head of the list (R42, R44). The cursors name the same records as before. -/
def Job.passRecords (j : Job) : Job :=
  { j with
    passed := j.passed + receivedBytes (j.records.take j.confirm.pos)
    records := j.records.drop j.confirm.pos
    confirm := { j.confirm with pos := 0 }
    send := { j.send with pos := j.send.pos - j.confirm.pos } }

/-- Whether the confirm cursor has passed records on the final copy that are still in the list (R42). -/
def Job.hasPassed (j : Job) : Bool := j.confirm.copy == j.copies && 0 < j.confirm.pos

/-- A release pass (R43, R44): the passed records are freed and the passed blocks join their free queues; a pass that frees a
block is a grant opportunity. Without passed records nothing happens. -/
def State.releasePass (s : State) (i : Slot) : State :=
  if (s.job i).hasPassed then
    let j := (s.job i).passRecords
    let n := j.freeable
    let t := (s.setJob i { j with chain := j.chain.drop n, released := j.released + n }).freeBlocks (j.chain.take n)
    if 0 < n then t.walk else t
  else s

end Sys2Proof.Machine
end

