-- ==== Sys2Proof/Machine/Jobs.lean ====
section
/-! DEFINITION. The job table: cursors (R89 to R91), the pools' queues (R52, R54), leaving a lane (R56, R83), hold reasons
(R49, R50), completion and release (R67, R68), and the closing of intake (R22, R41). -/

namespace Sys2Proof.Machine

/-! ## Cursors -/

/-- Whether cursors move over a record: it is SKIPPED or DAMAGED (R89). -/
def SheetCond.passable : SheetCond → Bool
  | .skipped | .damaged _ => true
  | _ => false

/-- The move of a cursor by the table of R90: over a SKIPPED or DAMAGED record, or from the end of a copy that is not the final
one when intake is closed; nothing where the table says that it stops. -/
def Job.cursorMove (j : Job) (c : Cursor) : Option Cursor :=
  match j.records[c.pos]? with
  | some r => if r.cond.passable then some { c with pos := c.pos + 1 } else none
  | none => if !j.intakeOpen && c.copy < j.copies then some ⟨c.copy + 1, 0⟩ else none

/-- Whether one cursor is behind another (R89). -/
def Cursor.behind (a b : Cursor) : Bool := a.copy < b.copy || (a.copy == b.copy && a.pos < b.pos)

/-- A cursor settled by at most `n` moves (R90). -/
def Job.settleBy (j : Job) : Nat → Cursor → Cursor
  | 0, c => c
  | n + 1, c => match j.cursorMove c with
    | some d => j.settleBy n d
    | none => c

/-- A cursor settled by at most `n` moves, none of them from the send cursor on (R91). -/
def Job.settleBehind (j : Job) : Nat → Cursor → Cursor
  | 0, c => c
  | n + 1, c =>
      if c.behind j.send then
        match j.cursorMove c with
        | some d => j.settleBehind n d
        | none => c
      else c

/-- As many moves as a cursor can make through every copy of the list. -/
def Job.positions (j : Job) : Nat := (j.copies + 1) * (j.records.length + 1)

/-- A job with its send cursor settled (R90). -/
def Job.settleSend (j : Job) : Job := { j with send := j.settleBy j.positions j.send }

/-- A job with its confirm cursor settled (R91). -/
def Job.settleConfirm (j : Job) : Job := { j with confirm := j.settleBehind j.positions j.confirm }

/-- The record under a cursor, if it is on one. -/
def Job.recordAt (j : Job) (c : Cursor) : Option SheetRecord := j.records[c.pos]?

/-- The job's record with a sheet number. -/
def Job.recordOf (j : Job) (sheet : Nat) : Option SheetRecord := j.records.find? fun r => r.number == sheet

/-- The sheet in progress: the last record of the list when it is ARRIVING (R2). -/
def Job.inProgress (j : Job) : Option SheetRecord :=
  match j.records.getLast? with
  | some r => if r.cond = .arriving then some r else none
  | none => none

/-- A list with its last entry changed. -/
def modLast {α : Type} (f : α → α) : List α → List α
  | [] => []
  | [a] => [f a]
  | a :: b :: rest => a :: modLast f (b :: rest)

/-- Whether a job can put a sheet-copy to a printer or can complete (R53): its intake is closed, or the first record from the
send cursor on that is neither SKIPPED nor DAMAGED is SPOOLED. -/
def Job.sendable (j : Job) : Bool :=
  !j.intakeOpen ||
    match (j.records.drop j.send.pos).find? fun r => !r.cond.passable with
    | some r => r.cond == .spooled
    | none => false

/-- Whether a job has completed (R67): its intake is closed and its list is empty, or its confirm cursor, on the final copy, has
passed the last record. A FREE slot has no job, and a CANCELLING job is not tested. -/
def Job.completed (j : Job) : Bool :=
  j.state != .free && j.state != .cancelling && !j.intakeOpen
    && (j.records.isEmpty || (j.confirm.copy == j.copies && j.records.length ≤ j.confirm.pos))

/-! ## The pools' queues -/

/-- The jobs of a pool in queue order: class 3, then 2, then 1, then 0 (R52). -/
def Pool.queueOrder (p : Pool) : List Slot := p.classes[3] ++ p.classes[2] ++ p.classes[1] ++ p.classes[0]

/-- A job joins the tail of its class (R4, R52). -/
def State.joinTail (s : State) (i : Slot) : State :=
  (s.modPool (s.job i).pool fun p =>
    { p with classes := p.classes.set (s.job i).prio (p.classes[(s.job i).prio] ++ [i]) }).noteDispatch (s.job i).pool

/-- A slot put at the front of a class, behind only those of the slots in `requeued` that stand at the front and are lower (R51). -/
def insertRequeued (requeued : List Slot) (i : Slot) : List Slot → List Slot
  | [] => [i]
  | k :: rest => if requeued.contains k && k < i then k :: insertRequeued requeued i rest else i :: k :: rest

/-- A job joins the front of its class, where the jobs that one event has requeued stand in ascending slot order (R51). -/
def State.joinFront (s : State) (i : Slot) : State :=
  ((s.modPool (s.job i).pool fun p =>
    { p with classes := p.classes.set (s.job i).prio (insertRequeued s.todo.requeued i p.classes[(s.job i).prio]) }).noteRequeued
      i).noteDispatch (s.job i).pool

/-- A job leaves its pool's job queue (R52). -/
def State.leaveQueue (s : State) (i : Slot) : State :=
  s.modPool (s.job i).pool fun p =>
    { p with classes := p.classes.set (s.job i).prio (p.classes[(s.job i).prio].filter (· != i)) }

/-- A job is requeued: QUEUED at the front of its class, among the jobs that the event has requeued (R51). -/
def State.requeue (s : State) (i : Slot) : State :=
  (s.modJob i fun j => { j with state := .queued }).joinFront i

/-- A lane leaves its pool's ready-lane queue (R54). -/
def State.leaveReady (s : State) (l : LaneNo) : State :=
  s.modPool (s.lane l).current.pool fun p => { p with ready := p.ready.filter (· != l) }

/-- A lane with no job enters READY and joins the tail of its pool's ready-lane queue when it is enabled, which is a dispatch
opportunity, and enters OFFLINE when it is not (R54, R75, R82, R117). -/
def State.enterIdle (s : State) (l : LaneNo) : State :=
  if (s.lane l).current.enable then
    ((s.modLane l fun r => { r with state := .ready }).modPool (s.lane l).current.pool fun p =>
      { p with ready := p.ready ++ [l] }).noteDispatch (s.lane l).current.pool
  else s.modLane l fun r => { r with state := .offline }

/-! ## Leaving a lane -/

/-- The lane's side of a job's leaving (R56, R83, R107): the bound job becomes absent, the re-offer timer stops, the retained
offer is dropped and a pending set becomes the current one; a BOUND lane enters READY or OFFLINE and a lane in another state
keeps it; then the pending LANE-SET completes with DONE and the state the lane is left in, and the kinds it unmasks are
relayed. -/
def State.unbind (s : State) (l : LaneNo) : State :=
  let t := s.modLane l fun r =>
    { r with job := none, reoffer := none, retained := none, pendingSet := none,
             current := (r.pendingSet.map (·.1)).getD r.current }
  let t := if (t.lane l).state = .bound then t.enterIdle l else t
  match (s.lane l).pendingSet with
  | some (set, p) =>
      (t.complete p .done (val32 (laneStateCode (t.lane l).state)) 1).relayUnmasked
        (unmaskedOnLane l (s.lane l).current.mask set.mask)
  | none => t

/-- A job leaves its lane (R56). -/
def State.leaveLane (s : State) (i : Slot) : State :=
  match (s.job i).lane with
  | some l => (s.modJob i fun j => { j with lane := none }).unbind l
  | none => s

/-! ## Hold reasons -/

/-- Whether a job has sheets in flight: its lane has an offer outstanding or an in-flight entry (R48). -/
def State.sheetsInFlight (s : State) (i : Slot) : Bool :=
  match (s.job i).lane with
  | some l => (s.lane l).offer.isSome || !(s.lane l).inflight.isEmpty
  | none => false

/-- A job enters HELD (R50, R58): the HELD notice with the set as it stands, the completion of a pending JOB-HOLD with DONE and
that set, and the leaving of its lane. -/
def State.enterHeld (s : State) (i : Slot) : State :=
  let t := (s.modJob i fun j => { j with state := .held, pendingHold := none }).notice
    (.held i (s.job i).tag (s.job i).reasons)
  (t.completeOpt (s.job i).pendingHold .done (val32 (reasonsCode (s.job i).reasons)) 0).leaveLane i

/-- A hold reason is raised against a job, which answers by its state (R49). -/
def State.raiseReason (s : State) (i : Slot) (r : Reason) : State :=
  let t := s.modJob i fun j => { j with reasons := j.reasons.add r }
  match (s.job i).state with
  | .queued => (t.leaveQueue i).enterHeld i
  | .printing => if s.sheetsInFlight i then t.modJob i fun j => { j with state := .holding } else t.enterHeld i
  | .holding => t
  | .held => t
  | .cancelling => s
  | .free => s

/-- A HOLDING job with nothing in flight becomes HELD (R50). -/
def State.settleHolding (s : State) (i : Slot) : State :=
  if (s.job i).state = .holding && !s.sheetsInFlight i then s.enterHeld i else s

/-! ## Completion and release -/

/-- The stream cache without the entries that name a slot (R8). -/
def State.forgetSlot (s : State) (i : Slot) : State :=
  { s with cache := mapVector (fun e => if e.slot = i then { e with valid := false } else e) s.cache }

/-- The totals a DONE or CANCELLED notice carries (R68). -/
def Job.totals (j : Job) : Totals := ⟨j.confirmed, j.spoiled, j.damaged, j.charge⟩

/-- A job is released, as cancelled or as DONE (R68): the notice; the leaving of its job queue or of its lane; the freeing of its
blocks, records and promise (R45); the invalidation of its cache entries (R8); the slot becomes FREE; a pending JOB-CANCEL
completes with DONE and a pending JOB-HOLD with STATE (R58); and the walk that the release gives. -/
def State.releaseJob (s : State) (i : Slot) (cancelled : Bool) : State :=
  let j := s.job i
  let t := s.notice (if cancelled then .cancelled i j.tag j.totals else .done i j.tag j.totals)
  let t := if j.state = .queued then t.leaveQueue i else t
  let t := ((t.leaveLane i).freeBlocks j.chain).leaveWait i
  let t := (t.forgetSlot i).setJob i Job.vacant
  ((t.completeOpt j.pendingCancel .done 0 0).completeOpt j.pendingHold .state 0 0).walk

/-- The completion test (R67): a job that has completed is released as DONE. It leaves its lane only with nothing in flight (R107);
where R89 to R91 keep the confirm cursor behind every sheet in flight, a completed job has none (log entry 15). -/
def State.testCompletion (s : State) (i : Slot) : State :=
  if (s.job i).completed && !s.sheetsInFlight i then s.releaseJob i false else s

/-- Both cursors of a job are settled; the release pass and the completion test follow (R90, R91). -/
def State.settle (s : State) (i : Slot) : State :=
  ((s.modJob i fun j => j.settleSend.settleConfirm).releasePass i).testCompletion i

/-! ## Intake's part -/

/-- An intake event that reaches a bound job's records settles its cursors; an unbound job's cursors stay (R102). -/
def State.settleBound (s : State) (i : Slot) : State :=
  if (s.job i).lane.isSome then s.settle i else s

/-- A record becomes DAMAGED: the job's damaged-records total rises by one and the alert of R13 is raised. -/
def State.countDamage (s : State) (i : Slot) (reason : DamageReason) (sheet : Nat) : State :=
  (s.modJob i fun j => { j with damaged := bump j.damaged }).raiseAlert
    (intakeAlert (if reason = .overrun then .overrun else .sheetDamaged) i (s.job i).account sheet)

/-- The sheet in progress, if there is one, becomes DAMAGED (R13); at a bound job the cursors are settled (R102). R13 gives the alert no
place among the notices of the event; that its ALERT comes before the CREDIT notices of the settling's release pass is the model's choice
(log entry 20). -/
def State.damageInProgress (s : State) (i : Slot) (reason : DamageReason) : State :=
  match (s.job i).inProgress with
  | some rec =>
      ((s.modJob i fun j => { j with records := modLast (fun r => { r with cond := .damaged reason }) j.records }).countDamage
        i reason rec.number).settleBound i
  | none => s

/-- A QUEUED job that may have become sendable gives its pool a dispatch opportunity (R53). -/
def State.noteSendable (s : State) (i : Slot) : State :=
  if (s.job i).state = .queued then s.noteDispatch (s.job i).pool else s

/-- A job's intake closes (R22, R41, R67, R102): any sheet in progress is damaged SHORT, the intake open flag becomes false, the
outstanding promise is returned, a bound job's cursors are settled, the completion test is made, and a QUEUED job is now
sendable. The rules do not order these settlings and the return of the promise, each of which may lead to a grant walk. The model
settles over the SHORT damage first, with intake still open, so that a grant walk of that settling may still grant to this job; then it
returns the promise, and settles for the closing itself after that (log entry 20). -/
def State.closeIntake (s : State) (i : Slot) : State :=
  let t := (s.damageInProgress i .short).modJob i fun j => { j with intakeOpen := false }
  let t := t.returnPromise i
  let t := if (t.job i).lane.isSome then t.settle i else t.testCompletion i
  t.noteSendable i

end Sys2Proof.Machine
end

