-- ==== Sys2Proof/Machine/Meter.lean ====
section
/-! DEFINITION. The meter unit: pricing (R125 to R135), the pending sum (R145), the funds check (R146) and the debit (R147). -/

namespace Sys2Proof.Machine

/-! ## The divider (R135) -/

/-- One step of the restoring divider: the next dividend bit is brought down into the partial remainder; when that reaches the
divisor, the divisor is subtracted and the quotient bit is 1. -/
def divideStep (q r bit : Nat) : Nat × Nat :=
  if Config.chargeDivisor ≤ 2 * r + bit then (2 * q + 1, 2 * r + bit - Config.chargeDivisor) else (2 * q, 2 * r + bit)

/-- The quotient and remainder after `n` steps over an `n`-bit dividend, the most significant bit first. -/
def divideSteps : Nat → Nat → Nat × Nat
  | 0, _ => (0, 0)
  | n + 1, x => divideStep (divideSteps n (x / 2)).1 (divideSteps n (x / 2)).2 (x % 2)

/-- The meter unit's divider: 36 steps over a 36-bit dividend, by 100,000 (R135). -/
def divide (x : Nat) : Nat × Nat := divideSteps 36 (x % 2 ^ 36)

/-! ## Pricing -/

/-- The value of one printed side (R131): Bc × 1000 + S × c for a coverage c above 0, Bm × 1000 for a coverage of 0. -/
def sideValue (r : Rate) (c : Nat) : Nat :=
  if 0 < c then r.bc.toNat * 1000 + r.slope.toNat * c else r.bm.toNat * 1000

/-- N, the sum of a sheet's side values: side A alone on a simplex sheet, both sides on a duplex one (R131). -/
def sheetValue (r : Rate) (rec : SheetRecord) : Nat :=
  sideValue r rec.covA + (if rec.sides = 2 then sideValue r rec.covB else 0)

/-- The rate entry of a record's class (R130). -/
def State.rateOf (s : State) (rec : SheetRecord) : Rate :=
  match toIndex 16 rec.cls with
  | some i => s.rates[i]
  | none => Rate.afterReset

/-- The tier for a period sheet count: the highest-numbered valid tier whose threshold is at or below it, tier 0 being always
valid with threshold 0 (R127, R129). -/
def State.tierFor (s : State) (count : Nat) : Tier :=
  if s.tiers[3].valid && s.tiers[3].threshold ≤ count then s.tiers[3]
  else if s.tiers[2].valid && s.tiers[2].threshold ≤ count then s.tiers[2]
  else if s.tiers[1].valid && s.tiers[1].threshold ≤ count then s.tiers[1]
  else s.tiers[0]

/-- The scaled numerator X of a sheet-copy for an account: N × P (R131), with the rates, the tier and the period count as they
stand. -/
def State.scaled (s : State) (rec : SheetRecord) (a : AccountNo) : Nat :=
  sheetValue (s.rateOf rec) rec * (s.tierFor (s.account a).periodSheets).percentage

/-- The estimate: X over 100,000, rounded up (R133). -/
def estimateOf (x : Nat) : Nat := if (divide x).2 = 0 then (divide x).1 else (divide x).1 + 1

/-! ## Accounts -/

/-- The funds check for an account and an estimate (R146): it passes when the balance less the pending sum and the estimate is
not below the negative of the credit limit. -/
def Account.covers (a : Account) (estimate : Nat) : Bool :=
  -(a.limit : Int) ≤ a.balance - ((a.pending : Int) + estimate)

/-- An account's headroom: balance minus pending sum plus credit limit (Chapter 8). -/
def Account.headroom (a : Account) : Int := a.balance - a.pending + a.limit

/-- Raises the pending sum at an offer (R145). -/
def State.raisePending (s : State) (a : AccountNo) (estimate : Nat) : State :=
  s.modAccount a fun r => { r with pending := r.pending + estimate }

/-- Notes a funds rise when an OPEN account's headroom is now above what it was (R148). -/
def State.noteHeadroom (s : State) (a : AccountNo) (before : Int) : State :=
  if (s.account a).isOpen && before < (s.account a).headroom then s.noteRise a else s

/-- Lowers the pending sum by an estimate that is no longer held; for a nonzero one that is a funds rise (R145, R148). -/
def State.lowerPending (s : State) (a : AccountNo) (estimate : Nat) : State :=
  (s.modAccount a fun r => { r with pending := r.pending - estimate }).noteHeadroom a (s.account a).headroom

/-- The charge of a confirmation (R134): X plus the account's residue, over 100,000. -/
def Account.chargeFor (a : Account) (x : Nat) : Nat := (divide (x + a.residue)).1

/-- An account as a confirmation leaves it (R134, R147): the pending sum falls by the estimate, the balance by the charge down
to its lowest value, the residue is the remainder, and the period figures rise and saturate. -/
def Account.debit (a : Account) (x estimate : Nat) : Account :=
  { a with
    pending := a.pending - estimate
    balance := max (a.balance - a.chargeFor x) Config.balanceMin
    residue := (divide (x + a.residue)).2
    periodSheets := bump a.periodSheets
    periodCharge := min (a.periodCharge + a.chargeFor x) Config.chargeMax }

/-- Settles an account at a confirmation, and notes the funds rise when the headroom rose (R147, R148). -/
def State.debit (s : State) (a : AccountNo) (x estimate : Nat) : State :=
  (s.modAccount a fun r => r.debit x estimate).noteHeadroom a (s.account a).headroom

end Sys2Proof.Machine
end

