-- ==== Sys2Proof/Machine/Delivery.lean ====
section
/-! DEFINITION. Sheet delivery and its stops: the offer step (R93 to R96), chunks (R98), confirmation (R104), spoils and
withdrawals (R109, R110), the settlement at a last-out (R111), rewinds (R112), ABORT (R120), training (R74) and lane loss
(R65, R87, R122). -/

namespace Sys2Proof.Machine

/-! ## Timers (Table 4.6) -/

/-- A running silence timer started with the current silence timeout (R84). -/
def Lane.startSilence (r : Lane) : Lane := { r with silence := some (r.current.silence * 1000) }

/-- The answer timer started with the current answer timeout (R85, R86). -/
def Lane.startAnswer (r : Lane) : Lane := { r with answer := some (r.current.answer * 1000) }

/-- The re-offer timer started with the current re-offer interval (R99). -/
def Lane.startReoffer (r : Lane) : Lane := { r with reoffer := some r.current.reoffer }

/-- The escalation timer started with the current interval, and not started when that is 0 (R113). -/
def Lane.startEscalation (r : Lane) : Lane :=
  if r.current.escalation = 0 then r else { r with escalation := some (r.current.escalation * 60000) }

/-- Every timer of a lane stopped (R78, R87). -/
def Lane.stopTimers (r : Lane) : Lane :=
  { r with hail := none, silence := none, answer := none, reoffer := none, escalation := none }

/-! ## The offer step -/

/-- Whether a sheet passes the capability test (R77). -/
def Capability.takes (c : Capability) (rec : SheetRecord) : Bool :=
  c.media.getLsbD rec.cls && (rec.sides != 2 || c.duplex)

/-- How many chunks a sheet is cut into (R95, R98). -/
def chunkCount (length chunk : Nat) : Nat := (length + (chunk - 1)) / chunk

/-- The first sequence from `q` on that no in-flight entry carries, looked for over `n` values (R93). -/
def freshSeq (entries : List InFlight) : Nat → Word16 → Word16
  | 0, q => q
  | n + 1, q => if entries.any fun e => e.seq == q then freshSeq entries n (q + 1) else q

/-- The sequence of an offer of a sheet-copy and the counter after it: the retained sequence when the retained offer is of this
sheet-copy, and otherwise the counter's next value (R93). -/
def Lane.offerSeq (r : Lane) (copy sheet : Nat) : Word16 × Word16 :=
  match r.retained with
  | some o =>
      if o.copy = copy && o.sheet = sheet then (o.seq, r.seq)
      else (freshSeq r.inflight r.inflight.length r.seq, freshSeq r.inflight r.inflight.length r.seq + 1)
  | none => (freshSeq r.inflight r.inflight.length r.seq, freshSeq r.inflight r.inflight.length r.seq + 1)

/-- The OFFER frame of a sheet-copy (R71, R95). -/
def offerFrame (r : Lane) (i : Slot) (rec : SheetRecord) (seq : Word16) (copy : Nat) : LinkFrame :=
  .offer seq i copy rec.number rec.cls rec.sides rec.length (chunkCount rec.length r.cap.chunk)

/-- The record a lane may offer now: all the conditions of R95 hold, and the send cursor of its PRINTING job stands on a SPOOLED
record. -/
def State.offerable (s : State) (l : LaneNo) : Option (Slot × SheetRecord) :=
  let r := s.lane l
  match r.job with
  | some i =>
      let j := s.job i
      if j.state = .printing && r.state = .bound && r.offer.isNone && !r.abort && r.reoffer.isNone
          && r.inflight.length < r.cap.depth then
        match j.recordAt j.send with
        | some rec => if rec.cond = .spooled then some (i, rec) else none
        | none => none
      else none
  | none => none

/-- A sheet-copy is given up as refused (R77, R101): the retained offer is dropped, the REFUSED alert is raised, and REFUSED is
raised against the job, which becomes HELD if it is HOLDING with nothing in flight. -/
def State.refuseSheet (s : State) (l : LaneNo) (i : Slot) (copy sheet : Nat) : State :=
  (((s.modLane l fun r => { r with retained := none }).raiseAlert
    (sheetAlert .refused l i (s.job i).account copy sheet)).raiseReason i .refused).settleHolding i

/-- The fourth part of the offer step (R95): the pending sum rises by the estimate, the offer is recorded under its sequence, the
OFFER is sent, and the answer timer starts with a count of 0. -/
def State.sendOffer (s : State) (l : LaneNo) (i : Slot) (rec : SheetRecord) : State :=
  let copy := (s.job i).send.copy
  let a := (s.job i).account
  let x := s.scaled rec a
  let q := (s.lane l).offerSeq copy rec.number
  let t := (s.raisePending a (estimateOf x)).modLane l fun r =>
    { r.startAnswer with offer := some ⟨copy, rec.number, q.1, a, x, estimateOf x⟩, seq := q.2, timeouts := 0 }
  t.transmit l (offerFrame (s.lane l) i rec q.1 copy)

/-- The offer step (R95): the capability test, X and the estimate, the funds check, and the offer. Where its conditions do not
hold it does nothing (R94). -/
def State.offerStep (s : State) (l : LaneNo) : State :=
  match s.offerable l with
  | some (i, rec) =>
      if !(s.lane l).cap.takes rec then s.refuseSheet l i (s.job i).send.copy rec.number
      else if (s.account (s.job i).account).covers (estimateOf (s.scaled rec (s.job i).account)) then s.sendOffer l i rec
      else (s.raiseAlert (sheetAlert .accountHold l i (s.job i).account (s.job i).send.copy rec.number)).raiseReason i .funds
  | none => s

/-- An event that reaches the records of a bound job is an offer opportunity of its lane (R102). -/
def State.offerBound (s : State) (i : Slot) : State :=
  match (s.job i).lane with
  | some l => s.offerStep l
  | none => s

/-! ## Chunks -/

/-- The CHUNK frames of a sheet-copy, in index order (R98): every chunk but the last carries the chunk size, the last carries the
remainder. -/
def State.chunkFrames (s : State) (j : Job) (rec : SheetRecord) (seq : Word16) (chunk : Nat) : List LinkFrame :=
  (List.range (chunkCount rec.length chunk)).map fun k =>
    .chunk seq k (s.sheetBytes j rec (k * chunk) (min chunk (rec.length - k * chunk)))

/-- Puts frames on a lane link in order. -/
def State.transmitAll (s : State) (l : LaneNo) (fs : List LinkFrame) : State :=
  fs.foldl (fun t f => t.transmit l f) s

/-! ## Confirmation -/

/-- The lane meters at a confirmation (R104, R150): each printed side is colour when its coverage is above 0 and mono when it
is 0. -/
def Lane.meter (r : Lane) (rec : SheetRecord) : Lane :=
  let sides := if rec.sides = 2 then [rec.covA, rec.covB] else [rec.covA]
  { r with
    sheetsOut := bump r.sheetsOut
    colourSides := raise32 (sides.countP fun c => 0 < c) r.colourSides
    monoSides := raise32 (sides.countP fun c => c = 0) r.monoSides }

/-- The job totals at a confirmation (R69, R104). -/
def Job.confirmTotals (j : Job) (charge : Nat) : Job :=
  { j with confirmed := bump j.confirmed, charge := min (j.charge + charge) Config.chargeMax }

/-- Confirms the head entry of a lane's in-flight list (R104): the account is settled, the lane meters and the job totals rise,
the entry leaves the list, and the confirm cursor moves past its record and is settled. -/
def State.confirmHead (s : State) (l : LaneNo) : State :=
  match (s.lane l).job, (s.lane l).inflight with
  | some i, e :: rest =>
      let charge := (s.account e.account).chargeFor e.x
      let t := s.debit e.account e.x e.estimate
      let t := t.modLane l fun r =>
        { (match (s.job i).recordOf e.sheet with | some rec => r.meter rec | none => r) with inflight := rest }
      let t := t.modJob i fun j =>
        { j.confirmTotals charge with confirm := { j.confirm with pos := j.confirm.pos + 1 } }
      t.settle i
  | _, _ => s

/-- Confirms `n` entries, one at a time from the head. -/
def State.confirmMany : Nat → State → LaneNo → State
  | 0, s, _ => s
  | n + 1, s, l => State.confirmMany n (s.confirmHead l) l

/-! ## Spoils and withdrawals -/

/-- Spoils the head entry of a lane's in-flight list (R109). -/
def State.spoilHead (s : State) (l : LaneNo) : State :=
  match (s.lane l).inflight with
  | e :: rest =>
      let t := (s.lowerPending e.account e.estimate).modLane l fun r =>
        { r with sheetsSpoiled := bump r.sheetsSpoiled, inflight := rest }
      match (s.lane l).job with
      | some i => t.modJob i fun j => { j with spoiled := bump j.spoiled }
      | none => t
  | [] => s

/-- Spoils `n` entries, from the head to the tail. -/
def State.spoilMany : Nat → State → LaneNo → State
  | 0, s, _ => s
  | n + 1, s, l => State.spoilMany n (s.spoilHead l) l

/-- Spoils every entry of a lane's in-flight list. -/
def State.spoilAll (s : State) (l : LaneNo) : State := State.spoilMany (s.lane l).inflight.length s l

/-- The offer of a lane is no longer outstanding: its answer timer stops, the count becomes 0, and its estimate leaves the pending
sum. -/
def State.dropOffer (s : State) (l : LaneNo) : State :=
  match (s.lane l).offer with
  | some o => (s.lowerPending o.account o.estimate).modLane l fun r => { r with offer := none, answer := none, timeouts := 0 }
  | none => s

/-- How many entries a last-out confirms: those from the head up to the entry that carries it, or none (R103, R111). -/
def confirmedBy (entries : List InFlight) (lastOut : Option Word16) : Nat :=
  match lastOut with
  | some q =>
      match entries.findIdx? fun e => e.seq == q with
      | some k => k + 1
      | none => 0
  | none => 0

/-- The settlement of an in-flight list at a last-out (R111). -/
def State.settleAt (s : State) (l : LaneNo) (lastOut : Option Word16) : State :=
  (State.confirmMany (confirmedBy (s.lane l).inflight lastOut) s l).spoilAll l

/-- The entry that a settlement at a last-out spoils first, if any (R113, R122). -/
def firstSpoiled (entries : List InFlight) (lastOut : Option Word16) : Option InFlight :=
  (entries.drop (confirmedBy entries lastOut)).head?

/-- A job is rewound (R112): its send cursor is set to its confirm cursor and settled; the lane's retained offer is kept only
when the send cursor then stands on its sheet-copy (R99, R110). -/
def State.rewind (s : State) (l : LaneNo) (i : Slot) : State :=
  let t := (s.modJob i fun j => { j with send := j.confirm }).settle i
  let j := t.job i
  t.modLane l fun r =>
    { r with retained := r.retained.filter fun o =>
        o.copy == j.send.copy && (j.recordAt j.send).map (·.number) == some o.sheet }

/-- A bound job that is PRINTING or HOLDING is rewound; another is not (R112, R113, R122). -/
def State.rewindBound (s : State) (l : LaneNo) : State :=
  match (s.lane l).job with
  | some i => if (s.job i).state = .printing || (s.job i).state = .holding then s.rewind l i else s
  | none => s

/-! ## ABORT, training and lane loss -/

/-- The lane of a job that becomes CANCELLING sends ABORT (R86, R120): its re-offer timer stops, the answer timeout count is
discarded, and the answer timer times the STOPPED. -/
def State.sendAbort (s : State) (l : LaneNo) : State :=
  (s.modLane l fun r => { r.startAnswer with abort := true, reoffer := none, timeouts := 0 }).transmit l .abort

/-- Entry to TRAINING (R74, R92): flags, offers, counts and timers are cleared, a HAIL is sent and the hail timer starts. -/
def State.enterTraining (s : State) (l : LaneNo) : State :=
  (s.modLane l fun r =>
    { r.stopTimers with
      state := .training, flags := ⟨false, false, false⟩, offer := none, retained := none, timeouts := 0, abort := false,
      inflight := [], hail := some Config.hailMs }).transmit l (.hail l s.station)

/-- The job and account of a lane's bound job. -/
def State.boundJob (s : State) (l : LaneNo) : Option (Slot × AccountNo) :=
  (s.lane l).job.map fun i => (i, (s.job i).account)

/-- What becomes of the job of a lost lane (R65): PRINTING is requeued, HOLDING becomes HELD, CANCELLING is released as
cancelled. -/
def State.moveOnLost (s : State) (i : Slot) : State :=
  match (s.job i).state with
  | .printing => (s.leaveLane i).requeue i
  | .holding => s.enterHeld i
  | .cancelling => s.releaseJob i true
  | _ => s

/-- The LANE-LOST alert of a lane that loses `entries` (R122): it carries their number and names the first of them. -/
def State.lostAlert (s : State) (l : LaneNo) (entries : List InFlight) : AlertEvent :=
  laneAlert .laneLost l (s.boundJob l) (entries.head?.map (·.copy)) (entries.head?.map (·.sheet)) entries.length

/-- The lane's part of a lane loss (R87, R122): every timer stops, the offer is withdrawn, every entry is spoiled, LANE-LOST is
raised, the lane enters DOWN and the job is rewound. -/
def State.loseWork (s : State) (l : LaneNo) : State :=
  let t := ((s.modLane l Lane.stopTimers).dropOffer l).spoilAll l
  let t := t.raiseAlert (s.lostAlert l (s.lane l).inflight)
  (t.modLane l fun r => { r with state := .down, abort := false, timeouts := 0 }).rewindBound l

/-- The job of a lost lane moves on (R65). -/
def State.loseJob (s : State) (l : LaneNo) : State :=
  match (s.lane l).job with
  | some i => s.moveOnLost i
  | none => s

/-- A lane in DOWN with its carrier present enters TRAINING (R78, R87). -/
def State.retrain (s : State) (l : LaneNo) : State := if (s.lane l).carrier then s.enterTraining l else s

/-- Lane loss (R87, R122): the lane gives up its work, the job moves on, and with carrier present the lane enters TRAINING. -/
def State.laneLoss (s : State) (l : LaneNo) : State := ((s.loseWork l).loseJob l).retrain l

end Sys2Proof.Machine
end

