-- ==== Sys2Proof/Machine/Dispatcher.lean ====
section
/-! DEFINITION. The pool dispatcher (R55, R106) and the release of FUNDS holds after a funds rise (R148). -/

namespace Sys2Proof.Machine

/-- The first sendable job of a pool in queue order (R53, R55). -/
def State.firstSendable (s : State) (p : PoolNo) : Option Slot :=
  (s.pool p).queueOrder.find? fun i => (s.job i).sendable

/-- A binding (R55, R106): the job leaves the job queue and becomes PRINTING, the lane leaves the ready-lane queue and becomes
BOUND with nothing in flight and nothing retained, DISPATCHED is queued, the cursors are settled, and unless the job completed
the binding is an offer opportunity. -/
def State.bindJob (s : State) (l : LaneNo) (i : Slot) : State :=
  let t := ((s.leaveQueue i).leaveReady l).modJob i fun j => { j with state := .printing, lane := some l }
  let t := t.modLane l fun r =>
    { r with state := .bound, job := some i, inflight := [], offer := none, retained := none, timeouts := 0 }
  ((t.notice (.dispatched i l)).settle i).offerStep l

/-- A pool's dispatcher at a dispatch opportunity (R55): while a lane is ready and a job is sendable, the head lane is bound to
the first sendable job, at most `n` times. Each binding takes a job out of the job queue. -/
def State.dispatchPool : Nat → State → PoolNo → State
  | 0, s, _ => s
  | n + 1, s, p =>
      match (s.pool p).ready.head?, s.firstSendable p with
      | some l, some i => State.dispatchPool n (s.bindJob l i) p
      | _, _ => s

/-- The dispatch opportunities that the event has noted, pool by pool in the order they were noted (R55). -/
def State.dispatchNoted (s : State) : State :=
  let t := s.todo.pools.foldl (fun t p => State.dispatchPool ((t.pool p).queueOrder.length) t p) s
  { t with todo := { t.todo with pools := [] } }

/-- Whether a job names an account and holds FUNDS (R148). -/
def Job.fundsHeld (j : Job) (a : AccountNo) : Bool := j.state != .free && j.account == a && j.reasons.funds

/-- The visit of a funds rise to one job (R148): FUNDS leaves its set; with the set empty a HELD job is requeued and a HOLDING one
becomes PRINTING. -/
def State.liftFunds (s : State) (a : AccountNo) (i : Slot) : State :=
  if (s.job i).fundsHeld a then
    let t := s.modJob i fun j => { j with reasons := j.reasons.afterRise }
    if (s.job i).reasons.afterRise.isEmpty then
      match (s.job i).state with
      | .held => t.requeue i
      | .holding => t.modJob i fun j => { j with state := .printing }
      | _ => t
    else t
  else s

/-- The jobs that a funds rise of an account returns from HOLDING to PRINTING (R148). -/
def State.returnedBy (s : State) (a : AccountNo) : List Slot :=
  (List.finRange 256).filter fun i =>
    (s.job i).fundsHeld a && (s.job i).state == .holding && (s.job i).reasons.afterRise.isEmpty

/-- One funds rise at the end of an event (R148): every job that names the account and holds FUNDS is visited, in ascending slot
order. Then each job returned to PRINTING has an offer opportunity, in ascending slot order too (log entry 11). -/
def State.fundsRise (s : State) (a : AccountNo) : State :=
  let t := (List.finRange 256).foldl (fun t i => State.liftFunds t a i) s
  (s.returnedBy a).foldl State.offerBound t

/-- The funds rises that the event has noted (R148). -/
def State.risesNoted (s : State) : State :=
  let t := s.todo.risen.foldl State.fundsRise s
  { t with todo := { t.todo with risen := [] } }

end Sys2Proof.Machine
end

