-- ==== Sys2Proof/Machine/Directives.lean ====
section
/-! DEFINITION. The management unit: the directive queue (R161 to R163), completion, replies and retirement (R164, R165), EXTEND
(R166), FENCE (R167) and RESET (R168); and the end of every event, in which its noted consequences are carried out. -/

namespace Sys2Proof.Machine

/-! ## The directive queue -/

/-- The ring place of a pointer: its value mod 64 (R162). -/
def ringPlace (p : QueuePtr) : Fin 64 := ⟨p.toNat % 64, Nat.mod_lt _ (by decide)⟩

/-- The entry that a pointer names. -/
def State.entry (s : State) (p : QueuePtr) : QueueEntry := s.queue.ring[ringPlace p]

/-- The state with the entry that a pointer names replaced. -/
def State.setEntry (s : State) (p : QueuePtr) (e : QueueEntry) : State :=
  { s with queue := { s.queue with ring := s.queue.ring.set (ringPlace p) e } }

/-- The state with the condition of an entry replaced. -/
def State.setCond (s : State) (p : QueuePtr) (c : Condition) : State := s.setEntry p { s.entry p with cond := c }

/-- The entries held: tail less retire, mod 128 (R162). -/
def DirectiveQueue.held (q : DirectiveQueue) : Nat := (q.tail - q.retire).toNat

/-- The free room: 64 less the entries held (R161). -/
def DirectiveQueue.room (q : DirectiveQueue) : Nat := Config.directivePlaces - q.held

/-- The pointers from `p` on, `n` of them. -/
def pointersFrom : QueuePtr → Nat → List QueuePtr
  | _, 0 => []
  | p, n + 1 => p :: pointersFrom (p + 1) n

/-- Writes one directive at the tail, marked with its place in its frame, the frame's size and its source (R161). -/
def State.enqueueOne (s : State) (d : Directive) (place size : Nat) (source : MacAddress) : State :=
  let t := s.setEntry s.queue.tail ⟨d, place, size, source, .waiting⟩
  { t with queue := { t.queue with tail := t.queue.tail + 1 } }

/-- Writes a frame's directives at the tail in frame order, the first at place `k` of the frame. -/
def State.enqueue (size : Nat) (source : MacAddress) : State → List Directive → Nat → State
  | s, [], _ => s
  | s, d :: rest, k => State.enqueue size source (s.enqueueOne d k size source) rest (k + 1)

/-- Whether a condition is complete. -/
def Condition.isComplete : Condition → Bool
  | .complete _ _ _ => true
  | _ => false

/-- The pointers of the entries of a frame, from one of them. -/
def State.frameOf (s : State) (p : QueuePtr) : List QueuePtr :=
  pointersFrom (p - BitVec.ofNat 7 (s.entry p).place) (s.entry p).size

/-- Whether every entry of a frame is complete (R165). -/
def State.frameComplete (s : State) (p : QueuePtr) : Bool :=
  (s.frameOf p).all fun q => (s.entry q).cond.isComplete

/-- The last entry of a frame. -/
def State.frameLast (s : State) (p : QueuePtr) : QueuePtr :=
  p - BitVec.ofNat 7 (s.entry p).place + BitVec.ofNat 7 (s.entry p).size - 1

/-- Whether an entry is the last of its frame (R166, R168). -/
def QueueEntry.isLast (e : QueueEntry) : Bool := e.place + 1 == e.size

/-- Whether the entry holds a directive of a code. -/
def QueueEntry.isCode (e : QueueEntry) (code : Nat) : Bool := e.directive.code.toNat == code

/-! ## Completion, replies and retirement -/

/-- The REPLY entry of a complete directive (R165). -/
def QueueEntry.reply (e : QueueEntry) : ReplyEntry :=
  match e.cond with
  | .complete r v1 v2 => ⟨e.directive.tag, r, v1, v2⟩
  | _ => ⟨e.directive.tag, .done, 0, 0⟩

/-- A RESET that has been taken as the last of its frame completes with DONE when every other directive of the frame is
complete (R168). -/
def State.completeReset (s : State) (p : QueuePtr) : State :=
  let q := s.frameLast p
  match (s.entry q).cond with
  | .pending _ =>
      if s.queue.resetTaken && (s.entry q).isCode 3
          && ((s.frameOf p).filter (· != q)).all fun x => (s.entry x).cond.isComplete
      then s.setCond q (.complete .done 0 0)
      else s
  | _ => s

/-- The retire pointer advances over entries in queue order while the entry and every other entry of its frame are complete
(R165), at most `n` of them. -/
def State.retireBy : Nat → State → State
  | 0, s => s
  | n + 1, s =>
      if s.queue.retire != s.queue.take && s.frameComplete s.queue.retire then
        State.retireBy n { s with queue := { s.queue with retire := s.queue.retire + 1 } }
      else s

/-- The reply of a complete frame is queued, or dropped, and its entries are retired (R165). A reply of a RESET that is dropped
makes the engine reset in this event (R168). -/
def State.replyFrame (s : State) (p : QueuePtr) : State :=
  if s.frameComplete p then
    let resets := s.queue.resetTaken && (s.entry (s.frameLast p)).isCode 3
    let t := s.notice (.reply ((s.frameOf p).map fun q => (s.entry q).reply) resets)
    let t := if resets && !s.noticeRoom then { t with todo := { t.todo with reset := true } } else t
    State.retireBy Config.directivePlaces t
  else s

/-- One entry becomes complete, with its own consequences (R164, R165, R168). -/
def State.finishEntry (s : State) (p : QueuePtr) (r : Result) (v1 v2 : Word32) : State :=
  ((s.setCond p (.complete r v1 v2)).completeReset p).replyFrame p

/-- The pointers of the taken entries still held, oldest first (R162). -/
def DirectiveQueue.taken (q : DirectiveQueue) : List QueuePtr := pointersFrom q.retire (q.take - q.retire).toNat

/-- The number of entries before one that are incomplete (R167). -/
def State.incompleteBefore (s : State) (p : QueuePtr) : Nat :=
  (pointersFrom s.queue.retire (p - s.queue.retire).toNat).countP fun q => !(s.entry q).cond.isComplete

/-- The oldest pending FENCE all of whose earlier entries are complete, with its count (R167). -/
def State.readyFence (s : State) : Option (QueuePtr × Nat) :=
  s.queue.taken.findSome? fun p =>
    match (s.entry p).cond with
    | .pending n => if (s.entry p).isCode 2 && s.incompleteBefore p = 0 then some (p, n) else none
    | _ => none

/-- Queues FENCE-DONE when the FENCE's notify flag is set (R167). -/
def State.fenceNotice (s : State) (p : QueuePtr) : State :=
  if (s.entry p).directive.op0 != 0 then s.notice (.fenceDone (s.entry p).directive.tag) else s

/-- Completes the pending FENCEs whose earlier entries are all complete, oldest first, at most `n` of them (R167). -/
def State.completeFences : Nat → State → State
  | 0, s => s
  | n + 1, s =>
      match s.readyFence with
      | some (p, k) => State.completeFences n ((s.fenceNotice p).finishEntry p .done (val32 k) 0)
      | none => s

/-- Puts a completion among others in queue order (R164). -/
def insertCompletion (retire : QueuePtr) (c : Completion) : List Completion → List Completion
  | [] => [c]
  | d :: rest =>
      if (c.ptr - retire).toNat ≤ (d.ptr - retire).toNat then c :: d :: rest
      else d :: insertCompletion retire c rest

/-- The completions of one event in queue order, oldest entry first (R164). -/
def inQueueOrder (retire : QueuePtr) (cs : List Completion) : List Completion :=
  cs.foldr (insertCompletion retire) []

/-- One completion with its consequences: the entry's own, then the FENCEs behind it (R164, R167). -/
def State.carryOut (s : State) (c : Completion) : State :=
  State.completeFences Config.directivePlaces (s.finishEntry c.ptr c.result c.value1 c.value2)

/-- The completions that the event has noted, in queue order (R164). -/
def State.completionsNoted (s : State) : State :=
  (inQueueOrder s.queue.retire s.todo.done).foldl State.carryOut s

/-! ## Start-up and the end of an event -/

/-- The start-up that a reset of either kind runs (R180), with the levels on the strap inputs and those still to come: the straps are
read, every block takes its values after reset, spool memory is kept, and each lane with carrier sends a HAIL. -/
def State.restart (s : State) (straps : Byte) (changes : List Byte) : State :=
  State.startUp straps changes (mapVector Lane.carrier s.lanes) s.mem s.sent s.pending

/-- A reset by directive (R168, R179): the straps are read at the levels that the outside has put on them since the last reset, and
at the old ones where it has put none (log entry 19). -/
def State.directiveReset (s : State) : State := s.restart (s.strapChanges.headD s.straps) s.strapChanges.tail

/-- The end of every event. Dispatch comes first, then the funds rises ("after every other consequence of that event for jobs and
lanes", R148) and the dispatch they lead to, then the completions (after "any notice the event itself queues", R164), and last a
reset that is due (R168). -/
def State.finish (s : State) : State :=
  let t := s.dispatchNoted.risesNoted.dispatchNoted.completionsNoted
  if t.todo.reset then t.directiveReset else { t with todo := Todo.nothing }

/-! ## Taking a directive -/

/-- Whether the directive at the take pointer is the one a command takes: the take pointer differs from the tail, no RESET has
been taken, and the entry spells this command (R163). -/
def State.takeable (s : State) (c : Instr) : Bool :=
  !s.resetLow && !s.queue.resetTaken && s.queue.take != s.queue.tail
    && commandOf (s.entry s.queue.take).directive == c

/-- The completion of an EXTEND as the next directive of its frame is taken, before that directive is carried out (R166): with
DONE when it takes a wide operand, else with EXTEND-DROPPED. The register is emptied. -/
def State.closeExtend (s : State) (wide : Bool) : State :=
  match s.queue.ext with
  | some _ =>
      let t := s.setCond (s.queue.take - 1) (.complete (if wide then .done else .extendDropped) 0 0)
      { t with queue := { t.queue with ext := none } }
  | none => s

/-- The taking of the directive at the take pointer: the take pointer advances over it and its entry is incomplete (R163). -/
def State.advanceTake (s : State) : State :=
  let t := s.setCond s.queue.take (.pending (s.incompleteBefore s.queue.take))
  { t with queue := { t.queue with take := t.queue.take + 1 } }

/-- The state in which a taken directive is carried out. -/
def State.taken (s : State) (wide : Bool) : State := (s.begin.closeExtend wide).advanceTake

/-- High part 1 or 2 of the pending-extension register, 0 when it is empty (R166). -/
def State.high1 (s : State) : Word32 := (s.queue.ext.map (·.1)).getD 0

/-- High part 2 of the pending-extension register, 0 when it is empty (R166). -/
def State.high2 (s : State) : Word32 := (s.queue.ext.map (·.2)).getD 0

/-- Takes a directive as one event: `effect` is given its entry and the state in which it is carried out. Where the directive at
the take pointer is not this one, the event does not take place and nothing changes (log entry 2). -/
def takeDirective (c : Instr) (wide : Bool) (s : State) (effect : QueuePtr → State → State) :
    Host.Outcome State Fault Refusal :=
  .next (if s.takeable c then (effect s.queue.take (s.taken wide)).finish else s)

/-- A quick directive that reports and changes nothing else, or is refused: it completes with a result and two values (R163). -/
def State.answer (s : State) (p : QueuePtr) (a : Result × Word32 × Word32) : State := s.complete p a.1 a.2.1 a.2.2

/-- A refusal with no values. -/
def refusal (r : Result) : Result × Word32 × Word32 := (r, 0, 0)

end Sys2Proof.Machine
end

