-- ==== Sys2Proof/Machine/Intake.lean ====
section
/-! DEFINITION. The spool frames OPEN, SHEET, DATA, CLOSE and CANCEL, and discarded upstream frames (Chapter 1, R174). -/

namespace Sys2Proof.Machine

/-- One event: while RESET is low nothing is taken (R179); otherwise the effect is carried out with its consequences. -/
def event (s : State) (effect : State → State) : Host.Outcome State Fault Refusal :=
  .next (if s.resetLow then s else (effect s.begin).finish)

/-! ## Classification and the frame sequence check -/

/-- The stream cache index of a tag (R5). -/
def cacheIndex (tag : Word16) : Fin 64 := ⟨tag.toNat % 64, Nat.mod_lt _ (by decide)⟩

/-- Whether a cache entry matches a tag (R5). -/
def CacheEntry.matchesTag (e : CacheEntry) (tag : Word16) : Bool := e.valid && e.high == tag.toNat / 64

/-- Fills the cache entry of a tag with a slot (R4, R6). -/
def State.fillCache (s : State) (tag : Word16) (i : Slot) : State :=
  { s with cache := s.cache.set (cacheIndex tag) ⟨true, tag.toNat / 64, i⟩ }

/-- Whether a job record is that of a live job with intake open on a tag (R3, R6). -/
def Job.isOpenOn (j : Job) (tag : Word16) : Bool := j.state != .free && j.intakeOpen && j.tag == tag

/-- The live job with intake open on a tag, searched for in the job table (R3, R6). -/
def State.searchOpen (s : State) (tag : Word16) : Option Slot :=
  (List.finRange 256).find? fun i => (s.job i).isOpenOn tag

/-- Classification of a frame to a job slot, with the closed-stream test (R6, R7): the state after it and the slot, or nothing
when the frame is dropped. -/
def State.classify (s : State) (tag : Word16) : State × Option Slot :=
  if s.cache[cacheIndex tag].matchesTag tag then
    if (s.job s.cache[cacheIndex tag].slot).intakeOpen then (s, some s.cache[cacheIndex tag].slot)
    else ({ s with closedStream := bump s.closedStream }, none)
  else
    match s.searchOpen tag with
    | some i => (s.fillCache tag i, some i)
    | none => ({ s with unknownStream := bump s.unknownStream }, none)

/-- The frame sequence check (R11): the state after it and whether the frame is taken. -/
def State.sequence (s : State) (i : Slot) (seq : Word16) : State × Bool :=
  if seq = (s.job i).expected then (s.modJob i fun j => { j with expected := seq + 1 }, true)
  else if seq = (s.job i).expected - 1 then ({ s with duplicates := bump s.duplicates }, false)
  else ((s.damageInProgress i .gap).modJob i fun j => { j with expected := seq + 1 }, true)

/-- The four steps of a SHEET, DATA, CLOSE or CANCEL frame (R1): classification, the closed-stream test, the sequence check, and
the handling of its kind. -/
def State.spoolFrame (s : State) (tag seq : Word16) (handle : State → Slot → State) : State :=
  match s.classify tag with
  | (t, none) => t
  | (t, some i) =>
      match t.sequence i seq with
      | (u, true) => handle u i
      | (u, false) => u

/-! ## OPEN -/

/-- The lowest-numbered FREE slot (R4). -/
def State.freeSlot (s : State) : Option Slot := (List.finRange 256).find? fun i => (s.job i).state == .free

/-- The four tests of R3 in order: the reason that refuses an OPEN, or the slot, account and pool it gets. -/
def State.openTest (s : State) (tag account : Word16) (pool : Byte) : Except RejectReason (Slot × AccountNo × PoolNo) :=
  if (s.searchOpen tag).isSome then .error .streamBusy
  else match s.freeSlot with
    | none => .error .noSlot
    | some i => match toIndex 1024 account.toNat with
      | none => .error .account
      | some a =>
          if !(s.account a).isOpen then .error .account
          else match toIndex 8 pool.toNat with
            | none => .error .pool
            | some p => .ok (i, a, p)

/-- A job record as an accepted OPEN fills it (R2, R4, R31, R47). -/
def Job.opened (tag : Word16) (a : AccountNo) (p : PoolNo) (prio : Byte) (copies winFirst winLast : Word16) : Job :=
  { Job.vacant with
    state := .queued, tag := tag, account := a, pool := p, prio := clampPriority prio.toNat,
    copies := clampCopies copies.toNat, winFirst := winFirst.toNat, winLast := winLast.toNat,
    intakeOpen := true, expected := 1 }

/-- An accepted OPEN (R4): the record and the cache entry are filled, the job enters its pool's job queue and the wait list,
ACCEPTED is queued, and the walk of the initial grant follows. -/
def State.acceptOpen (s : State) (i : Slot) (j : Job) : State :=
  (((((s.setJob i j).fillCache j.tag i).joinTail i).joinWait i).notice (.accepted i j.tag)).walk

/-- OPEN (R3, R4). -/
def execOpenJob (tag account : Word16) (pool prio : Byte) (copies winFirst winLast : Word16) (s : State) :
    Host.Outcome State Fault Refusal :=
  event s fun t =>
    match t.openTest tag account pool with
    | .error reason => t.notice (.rejected tag reason)
    | .ok (i, a, p) => t.acceptOpen i (Job.opened tag a p prio copies winFirst winLast)

/-! ## SHEET -/

/-- The sheet records in use in the whole part (R12). -/
def State.recordsInUse (s : State) : Nat := (s.jobs.toList.map fun j => j.records.length).sum

/-- Whether a sheet number lies outside a job's enabled print window (R4, R16). -/
def Job.outsideWindow (j : Job) (number : Nat) : Bool :=
  j.winFirst ≤ j.winLast && (number < j.winFirst || j.winLast < number)

/-- Whether a media class is in the rate table and valid there (R17). -/
def State.classValid (s : State) (cls : Nat) : Bool :=
  match toIndex 16 cls with
  | some i => s.rates[i].valid
  | none => false

/-- The condition of a new record (R16, R17): SKIPPED outside the window, then DAMAGED for class or for format, else ARRIVING. -/
def State.headerCond (s : State) (j : Job) (number cls sides length : Nat) : SheetCond :=
  if j.outsideWindow number then .skipped
  else if !s.classValid cls then .damaged .cls
  else if (sides != 1 && sides != 2) || length = 0 then .damaged .format
  else .arriving

/-- A new record as its header fills it (R16). -/
def SheetRecord.ofHeader (number cls sides covA covB length : Nat) (cond : SheetCond) : SheetRecord where
  number := number
  cls := cls
  sides := sides
  covA := min covA 1000
  covB := if sides = 1 then 0 else min covB 1000
  length := length
  place := none
  received := 0
  cond := cond

/-- A header obtains a record (R15 to R17): it joins the tail of the list, a failed test damages it and counts a bad header, and
at a bound job the cursors are settled and the lane has an offer opportunity (R102). That the damage's ALERT comes before the CREDIT
notices of the settling's release pass is the model's choice (log entry 20). -/
def State.takeHeader (s : State) (i : Slot) (number cls sides covA covB length : Nat) : State :=
  let cond := s.headerCond (s.job i) number cls sides length
  let t := s.modJob i fun j =>
    { j with records := j.records ++ [SheetRecord.ofHeader number cls sides covA covB length cond], lastSheet := number }
  let t := match cond with
    | .damaged reason => { t.countDamage i reason number with badHeaders := bump t.badHeaders }
    | _ => t
  (t.settleBound i).offerBound i

/-- A taken SHEET header (R14, R15): it ends the sheet in progress, and is refused for its number, dropped for want of a record, or
obtains a record. The rules place no settling between R14 and R15: that the cursors of a bound job settle over the damage of this frame
(R102), and a record passed by that on the final copy is freed (R44), before the header's own test for a free record, is the model's
choice (log entry 20). -/
def State.sheetHeader (s : State) (i : Slot) (number cls sides covA covB length : Nat) : State :=
  let t := s.damageInProgress i .short
  if number ≤ (t.job i).lastSheet then { t with badHeaders := bump t.badHeaders }
  else if Config.sheetRecords ≤ t.recordsInUse then
    t.raiseAlert (intakeAlert .recordShort i (t.job i).account number)
  else t.takeHeader i number cls sides covA covB length

/-- SHEET (R14 to R17). -/
def execSheet (tag seq number : Word16) (cls sides : Byte) (covA covB : Word16) (length : BitVec 24) (s : State) :
    Host.Outcome State Fault Refusal :=
  event s fun t => t.spoolFrame tag seq fun u i =>
    u.sheetHeader i number.toNat cls.toNat sides.toNat covA.toNat covB.toNat length.toNat

/-! ## DATA -/

/-- A record that takes `n` more bytes, its first one stored at `place` (R21). -/
def SheetRecord.receive (r : SheetRecord) (n : Nat) (place : Nat × Nat) : SheetRecord :=
  { r with
    received := r.received + n
    place := if r.place.isSome then r.place else some place
    cond := if r.received + n = r.length then .spooled else r.cond }

/-- The spool manager takes a DATA frame (R21, R34, R35): its blocks are allocated, its bytes stored and the record advanced; when
blocks were allocated the job joins the wait list if it is due and the list is walked; a record that becomes SPOOLED settles
a bound job's cursors and is an offer opportunity, and may make a QUEUED job sendable. R21 puts the walk before the dispatch
opportunity of a QUEUED job; that the walk also comes before the settling and the offer opportunity of a bound job's lane is the
model's choice (log entry 20). -/
def State.takeData (s : State) (i : Slot) (rec : SheetRecord) (payload : List Byte) : State :=
  let n := (s.job i).blocksFor payload.length
  let t := State.allocateMany n s i
  let j := t.job i
  let t := ({ t with mem := storeBytes j t.mem j.spooled payload }).modJob i fun j =>
    { j with
      spooled := j.spooled + payload.length
      records := modLast (fun r => r.receive payload.length (j.placeOf j.spooled)) j.records }
  let t := if 0 < n then (t.joinWait i).walk else t
  if rec.received + payload.length = rec.length then ((t.settleBound i).offerBound i).noteSendable i else t

/-- A taken DATA frame (R18 to R20): dropped with no sheet in progress; without payload it changes nothing; too long for the bytes
still due it damages the sheet for LENGTH; beyond the credit it is an overrun; otherwise it is taken. -/
def State.sheetData (s : State) (i : Slot) (payload : List Byte) : State :=
  match (s.job i).inProgress with
  | none => s
  | some rec =>
      if payload.isEmpty then s
      else if rec.length - rec.received < payload.length then s.damageInProgress i .length
      else if (s.job i).withinCredit payload.length then s.takeData i rec payload
      else { s.damageInProgress i .overrun with overruns := bump s.overruns }

/-- DATA (R18 to R21, R33 to R35). -/
def execData (tag seq : Word16) (payload : List Byte) (s : State) : Host.Outcome State Fault Refusal :=
  event s fun t => t.spoolFrame tag seq fun u i => u.sheetData i payload

/-! ## CLOSE and CANCEL -/

/-- CLOSE (R22): intake closes, which is an offer opportunity of a bound lane (R102). -/
def execClose (tag seq : Word16) (s : State) : Host.Outcome State Fault Refusal :=
  event s fun t => t.spoolFrame tag seq fun u i => (u.closeIntake i).offerBound i

/-- A cancel (R60, R61): an open intake closes first, without an offer (R102: a cancel releases a starved job at once); a job that
the close completed is gone, and the directive finds its slot FREE (log entry 10); otherwise a pending JOB-HOLD is superseded, a
job with nothing in flight is released as cancelled, and another becomes CANCELLING and its lane sends ABORT. -/
def State.cancelJob (s : State) (i : Slot) (directive : Option QueuePtr) : State :=
  let t := if (s.job i).intakeOpen then s.closeIntake i else s
  if (t.job i).state = .free then t.completeOpt directive .state 0 0
  else
    let t := (t.completeOpt (t.job i).pendingHold .superseded 0 0).modJob i fun j => { j with pendingHold := none }
    if t.sheetsInFlight i then
      let u := t.modJob i fun j => { j with state := .cancelling, pendingCancel := directive }
      match (t.job i).lane with
      | some l => u.sendAbort l
      | none => u
    else (t.completeOpt directive .done 0 0).releaseJob i true

/-- CANCEL (R23): the job the frame was classified to is cancelled, with no reply. -/
def execCancel (tag seq : Word16) (s : State) : Host.Outcome State Fault Refusal :=
  event s fun t => t.spoolFrame tag seq fun u i => u.cancelJob i none

/-- A discarded upstream frame has no effect (R1, R174). -/
def execUpstreamFrameDiscarded (s : State) : Host.Outcome State Fault Refusal := event s id

end Sys2Proof.Machine
end

