-- ==== Sys2Proof/Machine/Management.lean ====
section
/-! DEFINITION. Management frames (R160, R161), the directives of the management unit itself (R163, R166 to R169), and the sending of
notices (R168, R170, R171). -/

namespace Sys2Proof.Machine

/-- The tests of R160: the station number is the engine's, the count is 1 to 16, and the frame holds exactly that many
directives. -/
def State.acceptsFrame (s : State) (station count : Byte) (directives : List Directive) : Bool :=
  station == s.station && 1 ≤ count.toNat && count.toNat ≤ 16 && directives.length == count.toNat

/-- The REPLY of a frame that is refused whole (R161). -/
def queueFullReply (directives : List Directive) : Notice :=
  .reply (directives.map fun d => ⟨d.tag, .queueFull, 0, 0⟩) false

/-- An accepted frame (R160, R161): its source becomes the notice address, and its directives are admitted whole, or refused whole
with a QUEUE-FULL reply. -/
def State.acceptFrame (s : State) (source : MacAddress) (directives : List Directive) : State :=
  let t := { s with noticeAddr := source }
  if t.queue.room < directives.length then t.notice (queueFullReply directives)
  else State.enqueue directives.length source t directives 0

/-- A management frame (R160, R161). -/
def execManagementFrame (source : MacAddress) (station count : Byte) (directives : List Directive) (s : State) :
    Host.Outcome State Fault Refusal :=
  event s fun t => if t.acceptsFrame station count directives then t.acceptFrame source directives else t

/-- EXTEND (R166): the last directive of its frame completes with EXTEND-DROPPED; another loads the pending-extension register and
stays incomplete. -/
def execExtend (high1 high2 : Word32) (s : State) : Host.Outcome State Fault Refusal :=
  takeDirective (.extend high1 high2) false s fun p t =>
    if (t.entry p).isLast then t.complete p .extendDropped 0 0
    else { t with queue := { t.queue with ext := some (high1, high2) } }

/-- FENCE (R167): with every earlier entry complete it completes with DONE and the count 0, and otherwise it is left pending with
its count. -/
def execFence (notify : Bool) (s : State) : Host.Outcome State Fault Refusal :=
  takeDirective (.fence notify) false s fun p t =>
    if t.incompleteBefore p = 0 then (t.fenceNotice p).complete p .done 0 0 else t

/-- Whether every entry of a frame but one is complete (R168). -/
def State.othersComplete (s : State) (p : QueuePtr) : Bool :=
  ((s.frameOf p).filter (· != p)).all fun q => (s.entry q).cond.isComplete

/-- RESET (R168): one that is not last in its frame completes with STATE; one that is last stops the taking of directives, and
completes with DONE when every other directive of its frame is complete. -/
def execReset (s : State) : Host.Outcome State Fault Refusal :=
  takeDirective .reset false s fun p t =>
    if (t.entry p).isLast then
      let u := { t with queue := { t.queue with resetTaken := true } }
      if u.othersComplete p then u.complete p .done 0 0 else u
    else t.complete p .state 0 0

/-- The two counters of a COUNTERS-READ item, or RANGE (R169). -/
def State.readCounters (s : State) (item : Word32) : Result × Word32 × Word32 :=
  match item.toNat with
  | 0 => (.done, val32 s.unknownStream, val32 s.closedStream)
  | 1 => (.done, val32 s.duplicates, val32 s.badHeaders)
  | 2 => (.done, val32 s.overruns, val32 s.noticeDrops)
  | _ => refusal .range

/-- COUNTERS-READ (R169). -/
def execCountersRead (item : Word32) (s : State) : Host.Outcome State Fault Refusal :=
  takeDirective (.countersRead item) false s fun p t => t.answer p (t.readCounters item)

/-- A directive whose code is not in the table completes with UNKNOWN and changes nothing (R163). -/
def execUnknownDirective (code : Word16) (s : State) : Host.Outcome State Fault Refusal :=
  takeDirective (.unknownDirective code) false s fun p t => t.answer p (refusal .unknown)

/-- Whether an item is the reply of a RESET (R168). -/
def Notice.resets : Notice → Bool
  | .reply _ resets => resets
  | _ => false

/-- The sending of the head item (R170, R171): it leaves the queue as one frame to the notice address. As the reply of a RESET
leaves, the engine resets (R168). With the queue empty there is nothing to send. -/
def State.sendHead (s : State) : State :=
  match s.notices with
  | [] => s
  | n :: rest =>
      let t := { s with notices := rest, sent := s.sent ++ [.upstream (noticeFrame s.noticeAddr s.station n)] }
      if n.resets then t.directiveReset else t

/-- The upstream port sends the head item of the notice queue (R171). -/
def execNoticeSend (s : State) : Host.Outcome State Fault Refusal := event s State.sendHead

end Sys2Proof.Machine
end

