-- ==== Sys2Proof/Machine/MeterDirectives.lean ====
section
/-! DEFINITION. The meter unit's directives: RATE-SET and TIER-SET (R126, R128) and the account directives (R139 to R144). -/

namespace Sys2Proof.Machine

/-! ## The rate and tier tables -/

/-- RATE-SET's reply (R126, R177): the previous Bm and Bc, and the previous S and valid flag. That bits 1 to 15 of the second value, which
no field is named for, are 0 is the model's choice (log entry 21). -/
def Rate.report (r : Rate) : Result × Word32 × Word32 :=
  (.done, pack16 r.bm.toNat r.bc.toNat, pack16 r.slope.toNat r.valid.toNat)

/-- RATE-SET (R126): a class above 15 or a slope above 65535 is out of range; otherwise the whole entry is replaced. -/
def execRateSet (cls : Byte) (valid : Bool) (bm bc : Word16) (slope : Word32) (s : State) :
    Host.Outcome State Fault Refusal :=
  takeDirective (.rateSet cls valid bm bc slope) false s fun p t =>
    match toIndex 16 cls.toNat with
    | none => t.answer p (refusal .range)
    | some i =>
        if 65535 < slope.toNat then t.answer p (refusal .range)
        else ({ t with rates := t.rates.set i ⟨bm, bc, slope.setWidth 16, valid⟩ }).answer p (t.rates[i].report)

/-- Whether a valid tier conflicts with a threshold given to tier `k` (R128): a lower tier whose threshold is not below it, or a
higher one whose threshold is not above it. -/
def State.tierConflicts (s : State) (k : Fin 4) (threshold : Nat) (j : Fin 4) : Bool :=
  s.tiers[j].valid && ((j < k && threshold ≤ s.tiers[j].threshold) || (k < j && s.tiers[j].threshold ≤ threshold))

/-- The lowest-numbered valid tier that conflicts, if any (R128). -/
def State.tierConflict (s : State) (k : Fin 4) (threshold : Nat) : Option (Fin 4) :=
  (List.finRange 4).find? fun j => s.tierConflicts k threshold j

/-- A tier entry as TIER-SET stores it: tier 0 keeps threshold 0 and stays valid (R127, R128). -/
def tierStored (k : Fin 4) (valid : Bool) (threshold percentage : Nat) : Tier :=
  if k = 0 then ⟨0, clamp 50 200 percentage, true⟩ else ⟨threshold, clamp 50 200 percentage, valid⟩

/-- TIER-SET (R128). -/
def execTierSet (tier : Byte) (valid : Bool) (threshold percentage : Word32) (s : State) :
    Host.Outcome State Fault Refusal :=
  takeDirective (.tierSet tier valid threshold percentage) false s fun p t =>
    match toIndex 4 tier.toNat with
    | none => t.answer p (refusal .range)
    | some k =>
        match (if k = 0 || !valid then none else t.tierConflict k threshold.toNat) with
        | some j => t.answer p (.range, val32 j, 0)
        | none =>
            ({ t with tiers := t.tiers.set k (tierStored k valid threshold.toNat percentage.toNat) }).answer p
              (.done, val32 (clamp 50 200 percentage.toNat), val32 t.tiers[k].threshold)

/-! ## Accounts -/

/-- A credit limit as it is stored (R139, R141). -/
def clampLimit (limit : Word32) : Nat := min limit.toNat Config.limitMax

/-- An account as ACCOUNT-OPEN leaves it (R139). -/
def Account.opened (limit : Nat) (balance : Int) : Account :=
  { Account.afterReset with isOpen := true, balance := balance, limit := limit }

/-- A balance as two reply values. -/
def balanceValues (r : Result) (b : Int) : Result × Word32 × Word32 := (r, lowWord b, highWord b)

/-- ACCOUNT-OPEN (R139); its balance is a wide operand, operand 2 (R166). -/
def execAccountOpen (account limit balance : Word32) (s : State) : Host.Outcome State Fault Refusal :=
  takeDirective (.accountOpen account limit balance) true s fun p t =>
    match toIndex 1024 account.toNat with
    | none => t.answer p (refusal .range)
    | some a =>
        if !balanceInRange (wideOperand s.high2 balance) then t.answer p (refusal .range)
        else if (t.account a).isOpen then t.answer p (refusal .state)
        else (t.setAccount a (Account.opened (clampLimit limit) (wideOperand s.high2 balance))).answer p
          (.done, val32 (clampLimit limit), 0)

/-- The slots of the jobs that are not FREE and name an account, lowest first (R140, R143). -/
def State.jobsNaming (s : State) (a : AccountNo) : List Slot :=
  (List.finRange 256).filter fun i => (s.job i).state != .free && (s.job i).account == a

/-- ACCOUNT-CLOSE (R140). -/
def execAccountClose (account : Word32) (s : State) : Host.Outcome State Fault Refusal :=
  takeDirective (.accountClose account) false s fun p t =>
    match toIndex 1024 account.toNat with
    | none => t.answer p (refusal .range)
    | some a =>
        if !(t.account a).isOpen then t.answer p (refusal .state)
        else match t.jobsNaming a with
          | i :: rest => t.answer p (.busy, val32 (rest.length + 1), val32 i)
          | [] => (t.modAccount a fun r => { r with isOpen := false }).answer p (balanceValues .done (t.account a).balance)

/-- ACCOUNT-LIMIT (R141); a raised limit is a funds rise (R148). -/
def execAccountLimit (account limit : Word32) (s : State) : Host.Outcome State Fault Refusal :=
  takeDirective (.accountLimit account limit) false s fun p t =>
    match toIndex 1024 account.toNat with
    | none => t.answer p (refusal .range)
    | some a =>
        if !(t.account a).isOpen then t.answer p (refusal .state)
        else ((t.modAccount a fun r => { r with limit := clampLimit limit }).noteHeadroom a (t.account a).headroom).answer p
          (.done, val32 (clampLimit limit), val32 (t.account a).limit)

/-- ACCOUNT-SWAP (R142): a compare and swap of the balance; operands 1 and 2 are wide (R166). A raised balance is a funds rise. -/
def execAccountSwap (account expected new : Word32) (s : State) : Host.Outcome State Fault Refusal :=
  takeDirective (.accountSwap account expected new) true s fun p t =>
    match toIndex 1024 account.toNat with
    | none => t.answer p (refusal .range)
    | some a =>
        let old := wideOperand s.high1 expected
        let b := wideOperand s.high2 new
        if !balanceInRange old || !balanceInRange b then t.answer p (refusal .range)
        else if !(t.account a).isOpen then t.answer p (refusal .state)
        else if (t.account a).balance = old then
          ((t.modAccount a fun r => { r with balance := b }).noteHeadroom a (t.account a).headroom).answer p
            (balanceValues .done (t.account a).balance)
        else t.answer p (balanceValues .mismatch (t.account a).balance)

/-- The values of an ACCOUNT-READ item (Table 8.2), or RANGE. -/
def State.readAccount (s : State) (a : AccountNo) (item : Nat) : Result × Word32 × Word32 :=
  let r := s.account a
  match item with
  | 0 => (.done, flag32 r.isOpen, val32 r.limit)
  | 1 => balanceValues .done r.balance
  | 2 => (.done, val32 r.pending, val32 r.residue)
  | 3 => (.done, val32 r.periodSheets, val32 (s.jobsNaming a).length)
  | 4 => (.done, wideLow r.periodCharge, wideHigh r.periodCharge)
  | 5 => (.done, val32 r.lastSheets, 0)
  | 6 => (.done, wideLow r.lastCharge, wideHigh r.lastCharge)
  | _ => refusal .range

/-- ACCOUNT-READ (R143). -/
def execAccountRead (account item : Word32) (s : State) : Host.Outcome State Fault Refusal :=
  takeDirective (.accountRead account item) false s fun p t =>
    match toIndex 1024 account.toNat with
    | none => t.answer p (refusal .range)
    | some a => t.answer p (t.readAccount a item.toNat)

/-- An account as ACCOUNT-ROLL leaves it (R144). -/
def Account.rolled (r : Account) : Account :=
  { r with lastSheets := r.periodSheets, lastCharge := r.periodCharge, periodSheets := 0, periodCharge := 0 }

/-- ACCOUNT-ROLL (R144). -/
def execAccountRoll (account : Word32) (s : State) : Host.Outcome State Fault Refusal :=
  takeDirective (.accountRoll account) false s fun p t =>
    match toIndex 1024 account.toNat with
    | none => t.answer p (refusal .range)
    | some a =>
        if !(t.account a).isOpen then t.answer p (refusal .state)
        else (t.modAccount a Account.rolled).answer p
          (.done, val32 (t.account a).periodSheets, wideLow (t.account a).periodCharge)

end Sys2Proof.Machine
end

