-- ==== Sys2Proof/Machine/LaneDirectives.lean ====
section
/-! DEFINITION. LANE-SET (R81 to R83) and LANE-READ (R151, Table 8.4, Table 11.6). -/

namespace Sys2Proof.Machine

/-- The effect of a set on the state and queues of a lane with no job bound (the table of R82). `s` holds the old set. -/
def State.applySet (s : State) (l : LaneNo) (set : Settings) : State :=
  let old := (s.lane l).current
  match (s.lane l).state with
  | .ready =>
      if set.enable && set.pool == old.pool then s.modLane l fun r => { r with current := set }
      else ((s.leaveReady l).modLane l fun r => { r with current := set }).enterIdle l
  | .offline => (s.modLane l fun r => { r with current := set }).enterIdle l
  | _ => s.modLane l fun r => { r with current := set }

/-- A LANE-SET that takes effect at once (R82): the set becomes the current one, the kinds it unmasks are relayed (R157), the
dispatch opportunity it may give is taken, and it completes with DONE and the lane's state (R81). -/
def State.setNow (s : State) (l : LaneNo) (set : Settings) (p : QueuePtr) : State :=
  let t := ((s.applySet l set).relayUnmasked (unmaskedOnLane l (s.lane l).current.mask set.mask)).dispatchNoted
  t.complete p .done (val32 (laneStateCode (t.lane l).state)) 0

/-- A LANE-SET that is held while a job is bound (R83): it replaces an earlier pending set, whose directive completes with
SUPERSEDED. -/
def State.setLater (s : State) (l : LaneNo) (set : Settings) (p : QueuePtr) : State :=
  (s.completeOpt ((s.lane l).pendingSet.map (·.2)) .superseded 0 0).modLane l fun r =>
    { r with pendingSet := some (set, p) }

/-- LANE-SET (R81). -/
def execLaneSet (lane silence escalation pool enable : Byte) (mask reoffer : Word16) (answer : Byte) (s : State) :
    Host.Outcome State Fault Refusal :=
  takeDirective (.laneSet lane silence escalation pool enable mask reoffer answer) false s fun p t =>
    match toIndex 16 lane.toNat with
    | none => t.answer p (refusal .range)
    | some l =>
        if (t.lane l).job.isSome then t.setLater l (clampSettings silence escalation pool enable mask reoffer answer) p
        else t.setNow l (clampSettings silence escalation pool enable mask reoffer answer) p

/-- A set's first value: pool bits 24 to 31, pending flag bit 17, enable bit 16, alert mask bits 0 to 7 (Table 11.6). -/
def Settings.value1 (c : Settings) (pendingFlag : Bool) : Word32 :=
  pack8 c.pool (c.enable.toNat + 2 * pendingFlag.toNat) 0 c.mask.toNat

/-- A set's second value: re-offer interval in 10 ms units bits 24 to 31, answer timeout bits 16 to 23, silence timeout bits 8 to
15, escalation interval bits 0 to 7 (Table 11.6). -/
def Settings.value2 (c : Settings) : Word32 := pack8 (c.reoffer / 10) c.answer c.silence c.escalation

/-- The job of a last jam in bits 0 to 20: job named bit 20, slot bits 10 to 17, account bits 0 to 9 (Table 11.6); with no job the
flag is clear, and slot and account are written with every bit set (R173). -/
def jamJobField (job : Option (Slot × AccountNo)) : Nat :=
  match job with
  | some (i, a) => 2 ^ 20 + i * 2 ^ 10 + a
  | none => 255 * 2 ^ 10 + 1023

/-- The last jam as LANE-READ item 7 reports it: jam recorded bit 31, location bits 24 to 27, and the job (Table 11.6); with no jam
recorded the flag is clear, and the location is written with every bit set too (R173). -/
def jamValue (j : Option LastJam) : Word32 :=
  match j with
  | some r => val32 (2 ^ 31 + r.location.toNat * 2 ^ 24 + jamJobField r.job)
  | none => val32 (15 * 2 ^ 24 + jamJobField none)

/-- The values of a LANE-READ item (Tables 8.4 and 11.6), or RANGE. That the bits that no field is named for are 0 is the model's choice
(log entry 21). -/
def Lane.read (r : Lane) (item : Nat) : Result × Word32 × Word32 :=
  match item with
  | 0 => (.done,
      val32 (laneStateCode r.state * 2 ^ 24 + conditionsCode r.flags * 2 ^ 16 + ((r.job.map (·.val)).getD 65535)),
      val32 (r.inflight.length * 2 ^ 24 + r.offer.isSome.toNat * 2 ^ 17 + r.abort.toNat * 2 ^ 16 + r.seq.toNat))
  | 1 => (.done, val32 (r.cap.chunk * 2 ^ 16 + r.cap.depth * 2 ^ 8 + r.cap.duplex.toNat), val32 r.cap.media.toNat)
  | 2 => (.done, r.current.value1 false, r.current.value2)
  | 3 => match r.pendingSet with
      | some (set, _) => (.done, set.value1 true, set.value2)
      | none => (.done, 0, 0)
  | 4 => (.done, val32 r.sheetsOut, val32 r.sheetsSpoiled)
  | 5 => (.done, val32 r.colourSides, val32 r.monoSides)
  | 6 => (.done, val32 r.jams, val32 r.crcErrors)
  | 7 => (.done, val32 r.ignored, jamValue r.lastJam)
  | _ => refusal .range

/-- LANE-READ (R151). -/
def execLaneRead (lane item : Word32) (s : State) : Host.Outcome State Fault Refusal :=
  takeDirective (.laneRead lane item) false s fun p t =>
    match toIndex 16 lane.toNat with
    | none => t.answer p (refusal .range)
    | some l => t.answer p ((t.lane l).read item.toNat)

end Sys2Proof.Machine
end

