-- ==== Sys2Proof/Machine/PoolDirectives.lean ====
section
/-! DEFINITION. POOL-SET (R30) and POOL-RESERVE (R28, R29). -/

namespace Sys2Proof.Machine

/-- A job's place on the grant wait list follows its pool's new refill mark (R30): it joins when it is due and leaves when its
outstanding promise has reached the mark. -/
def State.followMark (s : State) (p : PoolNo) (i : Slot) : State :=
  if (s.job i).intakeOpen && (s.job i).pool == p then (if s.due i then s.joinWait i else s.leaveWait i) else s

/-- The new allowance, the jobs of the pool in ascending slot order, and the walk (R30). -/
def State.setAllowance (s : State) (p : PoolNo) (n : Nat) : State :=
  ((List.finRange 256).foldl (fun t i => t.followMark p i) (s.modPool p fun r => { r with allowance := n })).walk

/-- POOL-SET (R30). -/
def execPoolSet (pool allowance : Word32) (s : State) : Host.Outcome State Fault Refusal :=
  takeDirective (.poolSet pool allowance) false s fun p t =>
    match toIndex 8 pool.toNat with
    | none => t.answer p (refusal .range)
    | some k => (t.setAllowance k (clamp 1 4096 allowance.toNat)).answer p (.done, val32 (clamp 1 4096 allowance.toNat), 0)

/-- The blocks of the extents `base` to `limit`, in ascending order; none when the limit is below the base (R25, R26). -/
def blockRange (base limit : Nat) : List Nat :=
  (List.range ((limit + 1 - base) * Config.extentBlocks)).map fun k => base * Config.extentBlocks + k

/-- Whether a new range is not empty and meets the reservation of another pool (R28, test 2). -/
def State.overlaps (s : State) (p : PoolNo) (base limit : Nat) : Bool :=
  base ≤ limit && (List.finRange 8).any fun q =>
    q != p && (s.pool q).reserved && base ≤ (s.pool q).limit && (s.pool q).base ≤ limit

/-- The blocks of the old and new ranges that are in chains (R28). -/
def State.chained (s : State) (p : PoolNo) (base limit : Nat) : Nat :=
  (s.jobs.toList.map fun j => j.chain.countP fun b =>
    inExtents base limit b || inExtents (s.pool p).base (s.pool p).limit b).sum

/-- The blocks of the old range that lie outside the new one, in ascending order (R28, R29). -/
def State.givenBack (s : State) (p : PoolNo) (base limit : Nat) : List Nat :=
  (blockRange (s.pool p).base (s.pool p).limit).filter fun b => !inExtents base limit b

/-- The shared free count after the change (R28). -/
def State.sharedAfter (s : State) (p : PoolNo) (base limit : Nat) : Nat :=
  s.sharedFree.length + (s.givenBack p base limit).length
    - ((blockRange base limit).filter fun b => !inExtents (s.pool p).base (s.pool p).limit b).length

/-- Whether one of the three BUSY tests holds (R28, test 3). -/
def State.reserveBusy (s : State) (p : PoolNo) (base limit : Nat) : Bool :=
  0 < s.chained p base limit || 0 < s.promiseTotal p || s.sharedAfter p base limit < s.sharedTotal

/-- The rebuilding of the queues (R29): the new range leaves the shared queue and becomes the pool's queue, and the rest of the old
range joins the tail of the shared queue. -/
def State.rebuild (s : State) (p : PoolNo) (base limit : Nat) : State :=
  let t := { s with sharedFree := (s.sharedFree.filter fun b => !inExtents base limit b) ++ s.givenBack p base limit }
  t.modPool p fun r => { r with base := base, limit := limit, free := blockRange base limit }

/-- POOL-RESERVE (R28, R29). -/
def execPoolReserve (pool base limit : Word32) (s : State) : Host.Outcome State Fault Refusal :=
  takeDirective (.poolReserve pool base limit) false s fun p t =>
    match toIndex 8 pool.toNat with
    | none => t.answer p (refusal .range)
    | some k =>
        if 255 < base.toNat || 255 < limit.toNat then t.answer p (refusal .range)
        else if t.overlaps k base.toNat limit.toNat then t.answer p (refusal .overlap)
        else if t.reserveBusy k base.toNat limit.toNat then
          t.answer p (.busy, val32 (t.chained k base.toNat limit.toNat), val32 (t.promiseTotal k))
        else
          let u := t.rebuild k base.toNat limit.toNat
          u.walk.answer p (.done, val32 (u.pool k).free.length, val32 u.sharedFree.length)

end Sys2Proof.Machine
end

