-- ==== Sys2Proof/Machine/JobDirectives.lean ====
section
/-! DEFINITION. The job directives: JOB-READ, JOB-HOLD, JOB-RELEASE, JOB-CANCEL and JOB-MOVE (R57 to R60, R63, R64), and PURGE (R9). -/

namespace Sys2Proof.Machine

/-! ## JOB-READ -/

/-- The sheet number at a cursor, 0 at the end of the list (R64). -/
def Job.sheetAt (j : Job) (c : Cursor) : Nat := ((j.recordAt c).map (·.number)).getD 0

/-- The values of a JOB-READ item of a job that is not FREE (Table 3.4, R177), or RANGE. That the bits that no field is named for are 0 is
the model's choice (log entry 21). -/
def Job.read (j : Job) (item : Nat) : Result × Word32 × Word32 :=
  match item with
  | 0 => (.done,
      pack8 (jobStateCode j.state) (reasonsCode j.reasons) j.intakeOpen.toNat ((j.lane.map (·.val)).getD 255),
      pack16 j.tag.toNat j.account)
  | 1 => (.done, val32 (j.pool * 2 ^ 24 + j.prio * 2 ^ 16 + j.copies), pack16 j.winFirst j.winLast)
  | 2 => (.done, pack16 j.expected.toNat j.lastSheet, val32 j.records.length)
  | 3 => (.done, pack16 j.send.copy (j.sheetAt j.send), pack16 j.confirm.copy (j.sheetAt j.confirm))
  | 4 => (.done, val32 j.confirmed, val32 j.spoiled)
  | 5 => (.done, wideLow j.charge, wideHigh j.charge)
  | 6 => (.done, val32 j.damaged, val32 (j.pendingHold.isSome.toNat + 2 * j.pendingCancel.isSome.toNat))
  | 7 => (.done, val32 j.granted, val32 j.allocated)
  | 8 => (.done, wideLow j.spooled, wideHigh j.spooled)
  | 9 => (.done, pack16 j.promised j.promisedShared, val32 j.released)
  | 10 => (.done, val32 (j.chain.head?.getD 4294967295), val32 (j.chain.getLast?.getD 4294967295))
  | 11 => (.done, wideLow j.passed, wideHigh j.passed)
  | _ => refusal .range

/-- JOB-READ (R64): a slot above 255 or an item above 11 is out of range, and a FREE slot answers STATE. -/
def execJobRead (slot item : Word32) (s : State) : Host.Outcome State Fault Refusal :=
  takeDirective (.jobRead slot item) false s fun p t =>
    match toIndex 256 slot.toNat with
    | none => t.answer p (refusal .range)
    | some i =>
        if 11 < item.toNat then t.answer p (refusal .range)
        else if (t.job i).state = .free then t.answer p (refusal .state)
        else t.answer p ((t.job i).read item.toNat)

/-! ## Holding, releasing, cancelling -/

/-- The slot of a directive that names a job by slot and tag, when both are in range (R57, R59, R60, R63). -/
def slotOf (slot tag : Word32) : Option Slot :=
  if 65535 < tag.toNat then none else toIndex 256 slot.toNat

/-- The MISMATCH of a tag that is not the job's, with the job's tag (R57, R59, R60). -/
def Job.mismatch (j : Job) : Result × Word32 × Word32 := (.mismatch, j.tag.setWidth 32, 0)

/-- Whether a tag operand differs from the job's stream tag. -/
def Job.tagDiffers (j : Job) (tag : Word32) : Bool := j.tag.setWidth 32 != tag

/-- The hold of JOB-HOLD (R57, R58): a CANCELLING job answers SUPERSEDED; otherwise an earlier pending JOB-HOLD completes with
SUPERSEDED and OPERATOR is raised; the directive is left pending when the job is then HOLDING, and otherwise completes with DONE
and the job's set. -/
def State.holdJob (s : State) (i : Slot) (p : QueuePtr) : State :=
  if (s.job i).state = .cancelling then s.answer p (refusal .superseded)
  else
    let t := (s.completeOpt (s.job i).pendingHold .superseded 0 0).modJob i fun j => { j with pendingHold := none }
    let t := t.raiseReason i .operator
    if (t.job i).state = .holding then t.modJob i fun j => { j with pendingHold := some p }
    else t.answer p (.done, val32 (reasonsCode (t.job i).reasons), 0)

/-- JOB-HOLD (R57). -/
def execJobHold (slot tag : Word32) (s : State) : Host.Outcome State Fault Refusal :=
  takeDirective (.jobHold slot tag) false s fun p t =>
    match slotOf slot tag with
    | none => t.answer p (refusal .range)
    | some i =>
        if (t.job i).state = .free then t.answer p (refusal .state)
        else if (t.job i).tagDiffers tag then t.answer p (t.job i).mismatch
        else t.holdJob i p

/-- The release of JOB-RELEASE (R59): OPERATOR and REFUSED leave the set; with the set empty a HELD job is requeued, and a HOLDING one
becomes PRINTING, its pending JOB-HOLD completes with SUPERSEDED and its lane has an offer opportunity. The directive completes
with DONE and the set left over. -/
def State.unholdJob (s : State) (i : Slot) (p : QueuePtr) : State :=
  let left := (s.job i).reasons.afterRelease
  let t := (s.modJob i fun j => { j with reasons := left }).answer p (.done, val32 (reasonsCode left), 0)
  if left.isEmpty then
    match (s.job i).state with
    | .held => t.requeue i
    | .holding =>
        ((t.completeOpt (s.job i).pendingHold .superseded 0 0).modJob i fun j =>
          { j with state := .printing, pendingHold := none }).offerBound i
    | _ => t
  else t

/-- JOB-RELEASE (R59). -/
def execJobRelease (slot tag : Word32) (s : State) : Host.Outcome State Fault Refusal :=
  takeDirective (.jobRelease slot tag) false s fun p t =>
    match slotOf slot tag with
    | none => t.answer p (refusal .range)
    | some i =>
        if (t.job i).state = .free || (t.job i).state = .cancelling then t.answer p (refusal .state)
        else if (t.job i).tagDiffers tag then t.answer p (t.job i).mismatch
        else t.unholdJob i p

/-- JOB-CANCEL (R60, R61): it completes in `cancelJob`, or is left pending there with the CANCELLING job. -/
def execJobCancel (slot tag : Word32) (s : State) : Host.Outcome State Fault Refusal :=
  takeDirective (.jobCancel slot tag) false s fun p t =>
    match slotOf slot tag with
    | none => t.answer p (refusal .range)
    | some i =>
        if (t.job i).state = .free then t.answer p (refusal .state)
        else if (t.job i).tagDiffers tag then t.answer p (t.job i).mismatch
        else if (t.job i).state = .cancelling then t.answer p (refusal .superseded)
        else t.cancelJob i (some p)

/-! ## JOB-MOVE and PURGE -/

/-- Another live job with intake open on a tag, if any (R63). -/
def State.otherOpen (s : State) (i : Slot) (tag : Word16) : Option Slot :=
  (List.finRange 256).find? fun k => k != i && (s.job k).isOpenOn tag

/-- JOB-MOVE (R63): the stream cache is left as it is (R10). -/
def execJobMove (slot tag : Word32) (s : State) : Host.Outcome State Fault Refusal :=
  takeDirective (.jobMove slot tag) false s fun p t =>
    match slotOf slot tag with
    | none => t.answer p (refusal .range)
    | some i =>
        if (t.job i).state = .free || !(t.job i).intakeOpen then t.answer p (refusal .state)
        else match t.otherOpen i (tag.setWidth 16) with
          | some k => t.answer p (.busy, val32 k, 0)
          | none =>
              (t.modJob i fun j => { j with tag := tag.setWidth 16 }).answer p (.done, (t.job i).tag.setWidth 32, 0)

/-- Invalidates the valid cache entries that a test picks by index and entry. -/
def State.invalidate (s : State) (pick : Fin 64 → CacheEntry → Bool) : State :=
  { s with cache := Vector.ofFn fun k =>
      if s.cache[k].valid && pick k s.cache[k] then { s.cache[k] with valid := false } else s.cache[k] }

/-- How many valid cache entries a test picks. -/
def State.picked (s : State) (pick : Fin 64 → CacheEntry → Bool) : Nat :=
  (List.finRange 64).countP fun k => s.cache[k].valid && pick k s.cache[k]

/-- The entries that a PURGE invalidates, by scope and target, or nothing when they are out of range (R9, Table 11.3). -/
def purgePick (scope target : Word32) : Option (Fin 64 → CacheEntry → Bool) :=
  match scope.toNat with
  | 0 => some fun _ _ => true
  | 1 => if 65535 < target.toNat then none
      else some fun k e => k == cacheIndex (target.setWidth 16) && e.matchesTag (target.setWidth 16)
  | 2 => match toIndex 256 target.toNat with
      | some i => some fun _ e => e.slot == i
      | none => none
  | _ => none

/-- PURGE (R9). -/
def execPurge (scope target : Word32) (s : State) : Host.Outcome State Fault Refusal :=
  takeDirective (.purge scope target) false s fun p t =>
    match purgePick scope target with
    | none => t.answer p (refusal .range)
    | some pick => (t.invalidate pick).answer p (.done, scope, val32 (t.picked pick))

end Sys2Proof.Machine
end

