-- ==== Sys2Proof/Machine/AlertDirectives.lean ====
section
/-! DEFINITION. ALERT-READ, ALERT-ACK and ALERT-MASK (R158, Table 9.3, R177). -/

namespace Sys2Proof.Machine

/-- The operand LOG of ALERT-READ, and the all form of ALERT-ACK (Table 11.3). -/
abbrev wholeLog : Word32 := 4294967295

/-- Kind, lane, job slot and account of a record: bits 28 to 31, 23 to 27, 14 to 22 and 0 to 10, each absent field all ones
(R177). -/
def AlertRecord.keyValue (r : AlertRecord) : Word32 :=
  val32 (alertKindCode r.kind * 2 ^ 28 + ((r.lane.map (·.val)).getD 31) * 2 ^ 23 + ((r.slot.map (·.val)).getD 511) * 2 ^ 14
    + ((r.account.map (·.val)).getD 2047))

/-- The values of an ALERT-READ item of an occupied record (Table 9.3, R177), or RANGE. An absent copy or sheet is 0 (R173). That the bits
that no field is named for are 0 is the model's choice (log entry 21). -/
def AlertRecord.read (r : AlertRecord) (item : Nat) : Result × Word32 × Word32 :=
  match item with
  | 0 => (.done, r.keyValue, pack16 (r.copy.getD 0) (r.sheet.getD 0))
  | 1 => (.done, r.first, r.last)
  | 2 => (.done, val32 (r.count * 256 + r.relayed.toNat), val32 r.lost)
  | _ => refusal .range

/-- One flag for each record that a test picks, bit k for record k (R177). -/
def State.alertFlags (s : State) (pick : AlertRecord → Bool) : Nat :=
  ((List.finRange 32).map fun i => match s.alerts[i] with
    | some r => if pick r then 2 ^ i.val else 0
    | none => 0).sum

/-- The values of an ALERT-READ item of the log as a whole (Table 9.3), or RANGE. R177 and Table 9.3 name no bit for the overflow flag of
item 1; that its value is 1 when it is set and 0 when it is clear is the model's choice (log entry 21). -/
def State.readLog (s : State) (item : Nat) : Result × Word32 × Word32 :=
  match item with
  | 0 => (.done, val32 (s.alertFlags fun _ => true), val32 (s.alertFlags fun r => !r.relayed))
  | 1 => (.done, flag32 s.overflow, val32 s.overflowCount)
  | _ => refusal .range

/-- ALERT-READ (R158): an item out of range answers RANGE, and a free record STATE. -/
def execAlertRead (record item : Word32) (s : State) : Host.Outcome State Fault Refusal :=
  takeDirective (.alertRead record item) false s fun p t =>
    if record = wholeLog then t.answer p (t.readLog item.toNat)
    else match toIndex 32 record.toNat with
      | none => t.answer p (refusal .range)
      | some i =>
          if 2 < item.toNat then t.answer p (refusal .range)
          else match t.alerts[i] with
            | none => t.answer p (refusal .state)
            | some r => t.answer p (r.read item.toNat)

/-- The occupied records. -/
def State.occupiedAlerts (s : State) : Nat := s.alerts.toList.countP Option.isSome

/-- ALERT-ACK (R158): the record form frees one record and reports its count and last time; the all form frees every record and
clears the overflow flag. -/
def execAlertAck (record : Word32) (s : State) : Host.Outcome State Fault Refusal :=
  takeDirective (.alertAck record) false s fun p t =>
    if record = wholeLog then
      ({ t with alerts := Vector.replicate 32 none, overflow := false }).answer p
        (.done, val32 t.occupiedAlerts, val32 t.overflowCount)
    else match toIndex 32 record.toNat with
      | none => t.answer p (refusal .range)
      | some i => match t.alerts[i] with
          | none => t.answer p (refusal .state)
          | some r => ({ t with alerts := t.alerts.set i none }).answer p (.done, val32 r.count, r.last)

/-- ALERT-MASK (R158): the kinds it unmasks are relayed (R157); the reply carries the previous mask and how many relay notices
entered the notice queue. -/
def execAlertMask (mask : Word32) (s : State) : Host.Outcome State Fault Refusal :=
  takeDirective (.alertMask mask) false s fun p t =>
    let u := ({ t with intakeMask := mask.setWidth 4 }).relayUnmasked (unmaskedAtIntake t.intakeMask (mask.setWidth 4))
    u.answer p (.done, t.intakeMask.setWidth 32, val32 (u.notices.length - t.notices.length))

end Sys2Proof.Machine
end

