-- ==== Sys2Proof/Machine/Link.lean ====
section
/-! DEFINITION. The frames a printer sends (Table 4.3): HELLO (R75, R76), the four answers (R97 to R101), OUT (R103 to R105), JAM (R113,
R114), STOPPED (R121), CLEAR (R117, R119), STATUS (R79), and discarded frames (R70). -/

namespace Sys2Proof.Machine

/-! ## Receiving -/

/-- The silence timer is started again at a frame with a good CRC outside TRAINING (R84). -/
def State.hear (s : State) (l : LaneNo) : State :=
  if (s.lane l).state = .training then s else s.modLane l Lane.startSilence

/-- An ignored frame is counted (R72, R80). -/
def State.ignoreFrame (s : State) (l : LaneNo) : State := s.modLane l fun r => { r with ignored := bump r.ignored }

/-- A frame with a good CRC that a lane receives, as one event (R70, R72): it restarts the silence timer, and it is taken when
Table 4.3 says so and otherwise ignored and counted. R84 does not say which silence timeout the restart uses where the frame also makes
the bound job leave, so that a pending set with another one is applied (R83); the model restarts first, with the timeout that was current
as the frame came (log entry 20). A lane in DOWN has no carrier and receives no frame; while RESET is low
nothing is received (R180). -/
def receive (l : LaneNo) (s : State) (takes : Lane → Bool) (effect : State → State) : Host.Outcome State Fault Refusal :=
  .next (if s.resetLow || (s.lane l).state = .down then s
    else if takes (s.lane l) then (effect (s.begin.hear l)).finish
    else ((s.begin.hear l).ignoreFrame l).finish)

/-- Whether a lane can have a job bound by its state: BOUND, MEDIA-WAIT or JAMMED (Chapter 4). -/
def LaneState.mayBind : LaneState → Bool
  | .bound | .mediaWait | .jammed => true
  | _ => false

/-- Whether a lane takes frames that settle sheets in flight: BOUND or MEDIA-WAIT (Table 4.3). -/
def LaneState.delivers : LaneState → Bool
  | .bound | .mediaWait => true
  | _ => false

/-- Whether a lane holds an in-flight entry with a sequence. -/
def Lane.holds (r : Lane) (seq : Word16) : Bool := r.inflight.any fun e => e.seq == seq

/-! ## HELLO -/

/-- A capability as a HELLO sets it (R75). -/
def helloCapability (chunk media : Word16) (duplex : Bool) (depth : Byte) : Capability :=
  ⟨clampChunk chunk.toNat, media, duplex, clamp 1 15 depth.toNat⟩

/-- HELLO (R75, R76): taken in TRAINING it also starts the silence timer, stops the hail timer and enters READY or OFFLINE. -/
def execHello (lane : LaneNo) (chunk media : Word16) (duplex : Bool) (depth : Byte) (s : State) :
    Host.Outcome State Fault Refusal :=
  receive lane s (fun r => r.state = .training || r.state = .ready || r.state = .offline) fun t =>
    let u := t.modLane lane fun r => { r with cap := helloCapability chunk media duplex depth }
    if (t.lane lane).state = .training then
      (u.modLane lane fun r => { r.startSilence with hail := none }).enterIdle lane
    else u

/-! ## Answers -/

/-- Whether a lane takes an ANSWER: it is BOUND, an offer is outstanding under that sequence, and no ABORT is outstanding
(Table 4.3). -/
def Lane.takesAnswer (seq : Word16) (r : Lane) : Bool :=
  r.state = .bound && !r.abort && (r.offer.map (·.seq) == some seq)

/-- The entry that a PROCEED builds from an offer (R97). -/
def Offer.entry (o : Offer) : InFlight := ⟨o.seq, o.copy, o.sheet, o.account, o.x, o.estimate⟩

/-- The retained offer that a WAIT or MEDIA keeps (R99, R100). -/
def Offer.retained (o : Offer) : Retained := ⟨o.copy, o.sheet, o.seq⟩

/-- A taken ANSWER to the outstanding offer of a bound job, which `effect` is given. -/
def answer (l : LaneNo) (seq : Word16) (s : State) (effect : State → Slot → Offer → State) :
    Host.Outcome State Fault Refusal :=
  receive l s (Lane.takesAnswer seq) fun t =>
    match (t.lane l).job, (t.lane l).offer with
    | some i, some o => effect t i o
    | _, _ => t

/-- The lane's side of a PROCEED (R97): the answer timer stops, the count becomes 0, and the offer becomes the last in-flight
entry. -/
def Lane.proceed (r : Lane) (o : Offer) : Lane :=
  { r with answer := none, timeouts := 0, offer := none, retained := none, inflight := r.inflight ++ [o.entry] }

/-- The chunks of the sheet of an offer, put on the link (R98). -/
def State.sendChunks (s : State) (l : LaneNo) (i : Slot) (o : Offer) : State :=
  match (s.job i).recordOf o.sheet with
  | some rec => s.transmitAll l (s.chunkFrames (s.job i) rec o.seq (s.lane l).cap.chunk)
  | none => s

/-- PROCEED (R97): the entry joins, the chunks are sent, the send cursor advances past the sheet-copy and is settled, and the
lane has an offer opportunity. -/
def execProceed (lane : LaneNo) (seq : Word16) (s : State) : Host.Outcome State Fault Refusal :=
  answer lane seq s fun t i o =>
    let u := (t.modLane lane fun r => r.proceed o).sendChunks lane i o
    ((u.modJob i fun j => { j with send := { j.send with pos := j.send.pos + 1 } }).settle i).offerStep lane

/-- WAIT (R99): the estimate leaves the pending sum, the offer is retained, the re-offer timer starts for a PRINTING job, and a
HOLDING job with nothing left in flight becomes HELD. -/
def execWait (lane : LaneNo) (seq : Word16) (s : State) : Host.Outcome State Fault Refusal :=
  answer lane seq s fun t i o =>
    let u := (t.dropOffer lane).modLane lane fun r => { r with retained := some o.retained }
    if (t.job i).state = .printing then u.modLane lane Lane.startReoffer else u.settleHolding i

/-- MEDIA (R100): the estimate leaves the pending sum, the offer is retained, the lane enters MEDIA-WAIT and raises MEDIA, and a
HOLDING job with nothing left in flight becomes HELD. -/
def execMedia (lane : LaneNo) (seq : Word16) (s : State) : Host.Outcome State Fault Refusal :=
  answer lane seq s fun t i o =>
    let u := (t.dropOffer lane).modLane lane fun r =>
      { r with retained := some o.retained, state := .mediaWait, reoffer := none }
    (u.raiseAlert (sheetAlert .media lane i (t.job i).account o.copy o.sheet)).settleHolding i

/-- REFUSE (R101): the estimate leaves the pending sum and the sheet-copy is given up as refused. -/
def execRefuse (lane : LaneNo) (seq : Word16) (s : State) : Host.Outcome State Fault Refusal :=
  answer lane seq s fun t i o => (t.dropOffer lane).refuseSheet lane i o.copy o.sheet

/-! ## OUT -/

/-- What follows the confirmations of an OUT (R105): a HOLDING job with nothing left in flight becomes HELD, and a PRINTING job on a
BOUND lane has an offer opportunity. -/
def State.afterOut (s : State) (l : LaneNo) : State :=
  match (s.lane l).job with
  | some i => (s.settleHolding i).offerStep l
  | none => s

/-- OUT (R103 to R105): it confirms from the head up to the entry it names; naming no entry it is ignored and counted. -/
def execOut (lane : LaneNo) (seq : Word16) (s : State) : Host.Outcome State Fault Refusal :=
  receive lane s (fun r => r.state.delivers && r.holds seq) fun t =>
    (State.confirmMany (confirmedBy (t.lane lane).inflight (some seq)) t lane).afterOut lane

/-! ## JAM, STOPPED, CLEAR -/

/-- Steps 1 to 4 of a JAM (R113): the lane enters JAMMED, the answer and re-offer timers stop, an ABORT is over, the offer is
withdrawn, the list is settled at the last-out and the job is rewound. -/
def State.jamSettle (s : State) (l : LaneNo) (lastOut : Option Word16) : State :=
  let t := s.modLane l fun r => { r with state := .jammed, answer := none, reoffer := none, abort := false }
  ((t.dropOffer l).settleAt l lastOut).rewindBound l

/-- What becomes of the job of a JAMMED lane (R114): HOLDING becomes HELD, CANCELLING is released as cancelled. -/
def State.afterJam (s : State) (l : LaneNo) : State :=
  match (s.lane l).job with
  | some i =>
      match (s.job i).state with
      | .holding => s.enterHeld i
      | .cancelling => s.releaseJob i true
      | _ => s
  | none => s

/-- A taken JAM (R113, R114). -/
def State.takeJam (s : State) (l : LaneNo) (lastOut : Option Word16) (location : BitVec 4) : State :=
  let job := s.boundJob l
  let spoiled := firstSpoiled (s.lane l).inflight lastOut
  let t := (s.jamSettle l lastOut).modLane l fun r => { r with jams := bump r.jams, lastJam := some ⟨location, job⟩ }
  let t := t.raiseAlert (laneAlert .jam l job (spoiled.map (·.copy)) (spoiled.map (·.sheet)) 0)
  (t.modLane l Lane.startEscalation).afterJam l

/-- JAM (R113, R114). -/
def execJam (lane : LaneNo) (lastOut : Option Word16) (location : BitVec 4) (s : State) :
    Host.Outcome State Fault Refusal :=
  receive lane s (fun r => r.state.delivers) fun t => t.takeJam lane lastOut location

/-- A taken STOPPED (R121): the answer timer stops, the ABORT is over, the offer is withdrawn, the list is settled at the last-out,
and the job is released as cancelled. -/
def State.takeStopped (s : State) (l : LaneNo) (lastOut : Option Word16) : State :=
  let t := ((s.modLane l fun r => { r with answer := none, abort := false }).dropOffer l).settleAt l lastOut
  match (t.lane l).job with
  | some i => t.releaseJob i true
  | none => t

/-- STOPPED (R121): it is taken while an ABORT is outstanding. -/
def execStopped (lane : LaneNo) (lastOut : Option Word16) (s : State) : Host.Outcome State Fault Refusal :=
  receive lane s (fun r => r.state.delivers && r.abort) fun t => t.takeStopped lane lastOut

/-- A taken CLEAR (R117, R119): the escalation timer stops; with a job bound the lane enters BOUND, an offer opportunity; with none
it enters READY or OFFLINE. -/
def State.takeClear (s : State) (l : LaneNo) : State :=
  let t := s.modLane l fun r => { r with escalation := none }
  match (s.lane l).job with
  | some _ => (t.modLane l fun r => { r with state := .bound, timeouts := 0 }).offerStep l
  | none => t.enterIdle l

/-- CLEAR (R117, R119). -/
def execClear (lane : LaneNo) (s : State) : Host.Outcome State Fault Refusal :=
  receive lane s (fun r => r.state = .jammed || r.state = .mediaWait) fun t => t.takeClear lane

/-! ## STATUS and discarded frames -/

/-- A taken STATUS (R79): the flags are replaced, and each one that turns on raises its alert. -/
def State.takeStatus (s : State) (l : LaneNo) (flags : Conditions) : State :=
  (risenConditions (s.lane l).flags flags).foldl
    (fun t k => t.raiseAlert (laneAlert k l (s.boundJob l) none none 0)) (s.modLane l fun r => { r with flags := flags })

/-- STATUS (R79): ignored in TRAINING. -/
def execStatus (lane : LaneNo) (tonerLow trayLow doorOpen : Bool) (s : State) : Host.Outcome State Fault Refusal :=
  receive lane s (fun r => r.state != .training) fun t => t.takeStatus lane ⟨tonerLow, trayLow, doorOpen⟩

/-- A discarded link frame (R70): one with a bad CRC raises the CRC error counter and has no other effect; one with a bad kind or
length is counted as ignored and outside TRAINING restarts the silence timer. -/
def execLinkFrameDiscarded (lane : LaneNo) (why : LinkDiscard) (s : State) : Host.Outcome State Fault Refusal :=
  match why with
  | .crc => .next (if s.resetLow || (s.lane lane).state = .down then s
      else (s.begin.modLane lane fun r => { r with crcErrors := bump r.crcErrors }).finish)
  | .kindOrLength => receive lane s (fun _ => false) id

end Sys2Proof.Machine
end

