-- ==== Sys2Proof/Machine/LaneEvents.lean ====
section
/-! DEFINITION. The lane events: carrier (R78), timer expiries (R74, R84 to R86, R99, R116), and the RESET pin (R179, R180). -/

namespace Sys2Proof.Machine

/-! ## Carrier -/

/-- A level at the carrier detect input of a lane. The input is outside the engine, so a change counts while RESET is low too; what
follows from it is an event only while RESET is high (R179, R180). -/
def carrierEvent (l : LaneNo) (level : Bool) (s : State) (effect : State → State) : Host.Outcome State Fault Refusal :=
  .next (if s.resetLow then s.modLane l fun r => { r with carrier := level }
    else (effect (s.begin.modLane l fun r => { r with carrier := level })).finish)

/-- A lane enters DOWN without loss: its timers stop (R78). -/
def State.goDown (s : State) (l : LaneNo) : State := s.modLane l fun r => { r.stopTimers with state := .down }

/-- The loss of carrier (R78): lane loss in BOUND, MEDIA-WAIT or JAMMED; a READY lane leaves its ready-lane queue; the lane enters
DOWN. -/
def State.loseCarrier (s : State) (l : LaneNo) : State :=
  match (s.lane l).state with
  | .bound | .mediaWait | .jammed => s.laneLoss l
  | .ready => (s.leaveReady l).goDown l
  | .training | .offline | .down => s.goDown l

/-- The carrier of a lane is lost (R78). -/
def execCarrierLost (lane : LaneNo) (s : State) : Host.Outcome State Fault Refusal :=
  carrierEvent lane false s fun t => t.loseCarrier lane

/-- The carrier of a lane is present (R78): a lane in DOWN enters TRAINING. -/
def execCarrierPresent (lane : LaneNo) (s : State) : Host.Outcome State Fault Refusal :=
  carrierEvent lane true s fun t => if (t.lane lane).state = .down then t.enterTraining lane else t

/-! ## Timers

An expiry takes effect while its timer runs; at a stopped timer it does not occur and nothing changes (Table 4.6, log entry 4). -/

/-- A timer expiry of a lane, when the timer runs. -/
def expiry (l : LaneNo) (s : State) (runs : Lane → Bool) (effect : State → State) : Host.Outcome State Fault Refusal :=
  event s fun t => if runs (t.lane l) then effect t else t

/-- The hail timer expires in TRAINING (R74): another HAIL is sent and the timer starts again. -/
def execHailTimerExpiry (lane : LaneNo) (s : State) : Host.Outcome State Fault Refusal :=
  expiry lane s (fun r => r.hail.isSome && r.state = .training) fun t =>
    (t.modLane lane fun r => { r with hail := some Config.hailMs }).transmit lane (.hail lane t.station)

/-- The silence timer expires (R84): lane loss in BOUND, MEDIA-WAIT or JAMMED; a READY or OFFLINE lane enters TRAINING. -/
def State.fallSilent (s : State) (l : LaneNo) : State :=
  match (s.lane l).state with
  | .bound | .mediaWait | .jammed => s.laneLoss l
  | .ready => (s.leaveReady l).enterTraining l
  | .offline => s.enterTraining l
  | .training | .down => s

/-- The silence timer of a lane expires (R84). -/
def execSilenceTimerExpiry (lane : LaneNo) (s : State) : Host.Outcome State Fault Refusal :=
  expiry lane s (fun r => r.silence.isSome) fun t => t.fallSilent lane

/-- The OFFER that an answer timeout sends again, unchanged (R85). -/
def State.repeatOffer (s : State) (l : LaneNo) : State :=
  match (s.lane l).job, (s.lane l).offer with
  | some i, some o =>
      match (s.job i).recordOf o.sheet with
      | some rec => s.transmit l (offerFrame (s.lane l) i rec o.seq o.copy)
      | none => s
  | _, _ => s

/-- The answer timer expires on an outstanding offer (R85): the first two times the OFFER is sent again and the timer started, the
third time the lane is lost. -/
def execAnswerTimeout (lane : LaneNo) (s : State) : Host.Outcome State Fault Refusal :=
  expiry lane s (fun r => r.answer.isSome && r.offer.isSome && !r.abort) fun t =>
    if (t.lane lane).timeouts + 1 < 3 then
      (t.modLane lane fun r => { r.startAnswer with timeouts := r.timeouts + 1 }).repeatOffer lane
    else t.laneLoss lane

/-- The answer timer expires while ABORT is outstanding (R86): lane loss. -/
def execAbortTimeout (lane : LaneNo) (s : State) : Host.Outcome State Fault Refusal :=
  expiry lane s (fun r => r.answer.isSome && r.abort) fun t => t.laneLoss lane

/-- The re-offer timer expires (R99): an offer opportunity. -/
def execReofferTimerExpiry (lane : LaneNo) (s : State) : Host.Outcome State Fault Refusal :=
  expiry lane s (fun r => r.reoffer.isSome) fun t => (t.modLane lane fun r => { r with reoffer := none }).offerStep lane

/-- The escalation timer expires on a JAMMED lane (R116): JAM-ESCALATED names the job of the last jam, and the timer is not started
again. -/
def execEscalationTimerExpiry (lane : LaneNo) (s : State) : Host.Outcome State Fault Refusal :=
  expiry lane s (fun r => r.escalation.isSome && r.state = .jammed) fun t =>
    (t.modLane lane fun r => { r with escalation := none }).raiseAlert
      (laneAlert .jamEscalated lane ((t.lane lane).lastJam.bind (·.job)) none none 0)

/-! ## The RESET pin -/

/-- RESET falls (R179): from here on the engine sends nothing and takes nothing until RESET rises. -/
def execResetPinLow (s : State) : Host.Outcome State Fault Refusal := .next { s with resetLow := true }

/-- RESET rises (R179, R180): the straps are read at the levels given, and start-up runs. -/
def execResetPinRise (straps : Byte) (s : State) : Host.Outcome State Fault Refusal := 
  .next (s.restart straps s.strapChanges)

end Sys2Proof.Machine
end

