-- ==== Sys2Proof/Machine/Idle.lean ====
section
/-! DEFINITION. What the engine does of its own accord when no command waits: it takes a waiting directive (R163), sends a waiting
notice (R171), fires a timer that has run out (Table 4.6), or else lets one millisecond pass (R152; log entry 1). -/

namespace Sys2Proof.Machine

/-- The timer expiry that is due at a lane, if any: a running timer with nothing left. R88 gives no order of two timers of one lane
that run out in the same millisecond; that they are taken in the order hail, silence, abort, answer, re-offer, escalation is the
model's choice (log entry 1). -/
def Lane.dueExpiry (r : Lane) (l : LaneNo) : Option Instr :=
  if r.hail = some 0 && r.state = .training then some (.hailTimerExpiry l)
  else if r.silence = some 0 then some (.silenceTimerExpiry l)
  else if r.answer = some 0 && r.abort then some (.abortTimeout l)
  else if r.answer = some 0 && r.offer.isSome then some (.answerTimeout l)
  else if r.reoffer = some 0 then some (.reofferTimerExpiry l)
  else if r.escalation = some 0 && r.state = .jammed then some (.escalationTimerExpiry l)
  else none

/-- The command the engine gives itself when none waits, if any. -/
def State.autonomous (s : State) : Option Instr :=
  if s.resetLow then none
  else if !s.queue.resetTaken && s.queue.take != s.queue.tail then some (commandOf (s.entry s.queue.take).directive)
  else if !s.notices.isEmpty then some .noticeSend
  else (List.finRange 16).findSome? fun l => (s.lane l).dueExpiry l

/-- One millisecond of a running timer. -/
def tickTimer (t : Option Nat) : Option Nat := t.map (· - 1)

/-- One millisecond of a lane's timers. -/
def Lane.tick (r : Lane) : Lane :=
  { r with
    hail := tickTimer r.hail, silence := tickTimer r.silence, answer := tickTimer r.answer,
    reoffer := tickTimer r.reoffer, escalation := tickTimer r.escalation }

/-- One millisecond passes: the tick rises by one and wraps (R152), and the running timers count down. While RESET is low nothing
runs. -/
def State.tickOne (s : State) : State :=
  if s.resetLow then s else { s with tick := s.tick + 1, lanes := mapVector Lane.tick s.lanes }

end Sys2Proof.Machine
end

