-- ==== Sys2Proof/Machine/Dispatch.lean ====
section
/-! DEFINITION. The command dispatch: one arm per row of spec/opcode_table.json. -/

namespace Sys2Proof.Machine

def exec (i : Instr) (s : State) : Host.Outcome State Fault Refusal :=
  match i with
  | .openJob tag account pool prio copies winFirst winLast => Sys2Proof.Machine.execOpenJob tag account pool prio copies winFirst winLast s
  | .sheet tag seq number cls sides covA covB length => Sys2Proof.Machine.execSheet tag seq number cls sides covA covB length s
  | .data tag seq payload => Sys2Proof.Machine.execData tag seq payload s
  | .close tag seq => Sys2Proof.Machine.execClose tag seq s
  | .cancel tag seq => Sys2Proof.Machine.execCancel tag seq s
  | .upstreamFrameDiscarded => Sys2Proof.Machine.execUpstreamFrameDiscarded s
  | .managementFrame source station count directives => Sys2Proof.Machine.execManagementFrame source station count directives s
  | .extend high1 high2 => Sys2Proof.Machine.execExtend high1 high2 s
  | .fence notify => Sys2Proof.Machine.execFence notify s
  | .reset => Sys2Proof.Machine.execReset s
  | .countersRead item => Sys2Proof.Machine.execCountersRead item s
  | .rateSet cls valid bm bc slope => Sys2Proof.Machine.execRateSet cls valid bm bc slope s
  | .tierSet tier valid threshold percentage => Sys2Proof.Machine.execTierSet tier valid threshold percentage s
  | .accountOpen account limit balance => Sys2Proof.Machine.execAccountOpen account limit balance s
  | .accountClose account => Sys2Proof.Machine.execAccountClose account s
  | .accountLimit account limit => Sys2Proof.Machine.execAccountLimit account limit s
  | .accountSwap account expected new => Sys2Proof.Machine.execAccountSwap account expected new s
  | .accountRead account item => Sys2Proof.Machine.execAccountRead account item s
  | .accountRoll account => Sys2Proof.Machine.execAccountRoll account s
  | .laneSet lane silence escalation pool enable mask reoffer answer => Sys2Proof.Machine.execLaneSet lane silence escalation pool enable mask reoffer answer s
  | .laneRead lane item => Sys2Proof.Machine.execLaneRead lane item s
  | .poolSet pool allowance => Sys2Proof.Machine.execPoolSet pool allowance s
  | .poolReserve pool base limit => Sys2Proof.Machine.execPoolReserve pool base limit s
  | .jobRead slot item => Sys2Proof.Machine.execJobRead slot item s
  | .jobHold slot tag => Sys2Proof.Machine.execJobHold slot tag s
  | .jobRelease slot tag => Sys2Proof.Machine.execJobRelease slot tag s
  | .jobCancel slot tag => Sys2Proof.Machine.execJobCancel slot tag s
  | .jobMove slot tag => Sys2Proof.Machine.execJobMove slot tag s
  | .purge scope target => Sys2Proof.Machine.execPurge scope target s
  | .alertRead record item => Sys2Proof.Machine.execAlertRead record item s
  | .alertAck record => Sys2Proof.Machine.execAlertAck record s
  | .alertMask mask => Sys2Proof.Machine.execAlertMask mask s
  | .unknownDirective code => Sys2Proof.Machine.execUnknownDirective code s
  | .noticeSend => Sys2Proof.Machine.execNoticeSend s
  | .hello lane chunk media duplex depth => Sys2Proof.Machine.execHello lane chunk media duplex depth s
  | .proceed lane seq => Sys2Proof.Machine.execProceed lane seq s
  | .wait lane seq => Sys2Proof.Machine.execWait lane seq s
  | .media lane seq => Sys2Proof.Machine.execMedia lane seq s
  | .refuse lane seq => Sys2Proof.Machine.execRefuse lane seq s
  | .out lane seq => Sys2Proof.Machine.execOut lane seq s
  | .jam lane lastOut location => Sys2Proof.Machine.execJam lane lastOut location s
  | .stopped lane lastOut => Sys2Proof.Machine.execStopped lane lastOut s
  | .clear lane => Sys2Proof.Machine.execClear lane s
  | .status lane tonerLow trayLow doorOpen => Sys2Proof.Machine.execStatus lane tonerLow trayLow doorOpen s
  | .linkFrameDiscarded lane why => Sys2Proof.Machine.execLinkFrameDiscarded lane why s
  | .carrierLost lane => Sys2Proof.Machine.execCarrierLost lane s
  | .carrierPresent lane => Sys2Proof.Machine.execCarrierPresent lane s
  | .hailTimerExpiry lane => Sys2Proof.Machine.execHailTimerExpiry lane s
  | .silenceTimerExpiry lane => Sys2Proof.Machine.execSilenceTimerExpiry lane s
  | .answerTimeout lane => Sys2Proof.Machine.execAnswerTimeout lane s
  | .abortTimeout lane => Sys2Proof.Machine.execAbortTimeout lane s
  | .reofferTimerExpiry lane => Sys2Proof.Machine.execReofferTimerExpiry lane s
  | .escalationTimerExpiry lane => Sys2Proof.Machine.execEscalationTimerExpiry lane s
  | .resetPinLow => Sys2Proof.Machine.execResetPinLow s
  | .resetPinRise straps => Sys2Proof.Machine.execResetPinRise straps s

end Sys2Proof.Machine
end

