-- ==== Sys2Proof/Safety.lean ====
section
/-! DEFINITION. The terms in which statements speak of a run: the invariants that the chapters state of the whole engine, and what it is
for a directive to be taken and to complete. -/

namespace Sys2Proof.Machine

/-! ## Invariants -/

/-- The notice queue holds at most 128 items (R170). -/
def State.noticesBounded (s : State) : Prop := s.notices.length ≤ Config.noticePlaces

/-- The directive queue holds at most 64 entries, and of those held no more have been taken than there are (R162). -/
def State.directivesBounded (s : State) : Prop :=
  s.queue.held ≤ Config.directivePlaces ∧ (s.queue.take - s.queue.retire).toNat ≤ s.queue.held

/-- No record that a job's confirm cursor has passed on the final copy is left in its list: the cursor stands at the list's head
there (R44). -/
def State.passedReleased (s : State) : Prop :=
  ∀ i : Slot, (s.job i).confirm.copy = (s.job i).copies → (s.job i).confirm.pos = 0

/-- The alert log holds at most one record per key of kind, lane and job slot (R152). -/
def State.alertsDistinct (s : State) : Prop :=
  ∀ i j : Fin 32, ∀ r q, s.alerts[i] = some r → s.alerts[j] = some q →
    r.kind = q.kind → r.lane = q.lane → r.slot = q.slot → i = j

/-- The tier table (R127): tier 0 is valid with threshold 0, valid tiers have strictly rising thresholds, and every percentage is 50
to 200. -/
def State.tiersOrdered (s : State) : Prop :=
  s.tiers[0].valid = true ∧ s.tiers[0].threshold = 0 ∧
    (∀ i j : Fin 4, i < j → s.tiers[i].valid → s.tiers[j].valid → s.tiers[i].threshold < s.tiers[j].threshold) ∧
    ∀ i : Fin 4, 50 ≤ s.tiers[i].percentage ∧ s.tiers[i].percentage ≤ 200

/-- An account's figures lie in the ranges of Table 8.1 (the pending sum apart, whose bound rests on the lanes). -/
def Account.inRange (a : Account) : Prop :=
  Config.balanceMin ≤ a.balance ∧ a.balance ≤ Config.balanceMax ∧ a.limit ≤ Config.limitMax ∧ a.residue < Config.chargeDivisor ∧
    a.periodSheets ≤ Config.counterMax ∧ a.periodCharge ≤ Config.chargeMax ∧ a.lastSheets ≤ Config.counterMax ∧
    a.lastCharge ≤ Config.chargeMax

/-- Every account's figures lie in their ranges. -/
def State.accountsInRange (s : State) : Prop := ∀ a : AccountNo, (s.account a).inRange

/-- A job's totals lie in their ranges (R13, R69). -/
def Job.totalsInRange (j : Job) : Prop :=
  j.confirmed ≤ Config.counterMax ∧ j.spoiled ≤ Config.counterMax ∧ j.damaged ≤ Config.counterMax ∧ j.charge ≤ Config.chargeMax

/-- A lane's meters and link counters lie in 32 bits (R80, R150). -/
def Lane.metersInRange (r : Lane) : Prop :=
  r.crcErrors ≤ Config.counterMax ∧ r.ignored ≤ Config.counterMax ∧ r.sheetsOut ≤ Config.counterMax ∧
    r.colourSides ≤ Config.counterMax ∧ r.monoSides ≤ Config.counterMax ∧ r.sheetsSpoiled ≤ Config.counterMax ∧
    r.jams ≤ Config.counterMax

/-- The engine's counters, every job's totals and every lane's meters lie in their ranges (R24, R69, R80, R150, R155, R170). -/
def State.countersInRange (s : State) : Prop :=
  s.unknownStream ≤ Config.counterMax ∧ s.closedStream ≤ Config.counterMax ∧ s.duplicates ≤ Config.counterMax ∧
    s.badHeaders ≤ Config.counterMax ∧ s.overruns ≤ Config.counterMax ∧ s.noticeDrops ≤ Config.counterMax ∧
    s.overflowCount ≤ Config.counterMax ∧ (∀ i : Slot, (s.job i).totalsInRange) ∧ ∀ l : LaneNo, (s.lane l).metersInRange

/-- What a lane holds in an account's pending sum: the estimates of its in-flight entries, and of its outstanding offer, that name the
account (R145). -/
def Lane.heldOf (r : Lane) (a : AccountNo) : Nat :=
  ((r.inflight.filter (·.account = a)).map (·.estimate)).sum + ((r.offer.toList.filter (·.account = a)).map (·.estimate)).sum

/-- Lanes and jobs stand in pairs, and every job, lane and account is as its state says (Tables 3.2 and 4.4; R48, R52, R54, R92, R140,
R145). -/
structure State.lanesMatchJobs (s : State) : Prop where
  /-- A lane is bound to at most one job and a job to at most one lane (R48). -/
  pairs : ∀ (l : LaneNo) (i : Slot), (s.lane l).job = some i ↔ (s.job i).lane = some l
  /-- A job is bound exactly when it is PRINTING, HOLDING or CANCELLING (R48). -/
  bound : ∀ i : Slot, (s.job i).lane ≠ none ↔
    (s.job i).state = .printing ∨ (s.job i).state = .holding ∨ (s.job i).state = .cancelling
  /-- A lane with a job is BOUND, MEDIA-WAIT or JAMMED, and a BOUND lane has one (Chapter 4). -/
  working : ∀ l : LaneNo, (s.lane l).job ≠ none →
    (s.lane l).state = .bound ∨ (s.lane l).state = .mediaWait ∨ (s.lane l).state = .jammed
  serving : ∀ l : LaneNo, (s.lane l).state = .bound → (s.lane l).job ≠ none
  /-- A lane with no job holds no sheet (R107), and no lane more sheets than its path depth (R92, R95). -/
  empty : ∀ l : LaneNo, (s.lane l).job = none → (s.lane l).offer = none ∧ (s.lane l).inflight = []
  depth : ∀ l : LaneNo, (s.lane l).inflight.length + (s.lane l).offer.toList.length ≤ (s.lane l).cap.depth
  /-- A HOLDING job has sheets in flight, and a job is CANCELLING exactly while its lane has an ABORT outstanding (R48, R120). -/
  holding : ∀ i : Slot, (s.job i).state = .holding → s.sheetsInFlight i = true
  aborting : ∀ l : LaneNo, (s.lane l).abort = true ↔ ∃ i, (s.lane l).job = some i ∧ (s.job i).state = .cancelling
  /-- A QUEUED or PRINTING job has no hold reason, a HOLDING or HELD one has one (Table 3.2). -/
  reasons : ∀ i : Slot, (((s.job i).state = .queued ∨ (s.job i).state = .printing) → (s.job i).reasons.isEmpty = true) ∧
    (((s.job i).state = .holding ∨ (s.job i).state = .held) → (s.job i).reasons.isEmpty = false)
  /-- A pool's job queue holds each QUEUED job of the pool once, in its class (R52), and its ready-lane queue each READY lane of the
  pool once (R54). -/
  queued : ∀ (p : PoolNo) (c : Fin 4), (s.pool p).classes[c].Nodup ∧ ∀ i : Slot,
    i ∈ (s.pool p).classes[c] ↔ (s.job i).state = .queued ∧ (s.job i).pool = p ∧ (s.job i).prio = c
  ready : ∀ p : PoolNo, (s.pool p).ready.Nodup ∧ ∀ l : LaneNo,
    l ∈ (s.pool p).ready ↔ (s.lane l).state = .ready ∧ (s.lane l).current.pool = p
  /-- A job's account is OPEN (R140), and its lane's sheets name that account (R92). -/
  opened : ∀ i : Slot, (s.job i).state ≠ .free → (s.account (s.job i).account).isOpen = true
  own : ∀ (l : LaneNo) (i : Slot), (s.lane l).job = some i →
    (∀ e ∈ (s.lane l).inflight, e.account = (s.job i).account) ∧ ∀ o ∈ (s.lane l).offer, o.account = (s.job i).account
  /-- An account's pending sum is the sum of the estimates that the lanes hold for it (R145). -/
  pending : ∀ a : AccountNo, (s.account a).pending = ((List.finRange 16).map fun l => (s.lane l).heldOf a).sum

/-- Every spool block is in exactly one place: the free queue of the region that contains it, or the chain of one job, which draws from
its own pool's region and the shared region alone (R25, R26, R27). -/
structure State.blocksApart (s : State) : Prop where
  /-- The free queues and the chains together hold each block once (R25). -/
  once : (s.sharedFree ++ ((List.finRange 8).flatMap fun p => (s.pool p).free) ++
    (List.finRange 256).flatMap fun i => (s.job i).chain).Perm (List.range 65536)
  shared : ∀ b ∈ s.sharedFree, s.regionOf b = none
  pools : ∀ p : PoolNo, ∀ b ∈ (s.pool p).free, s.regionOf b = some p
  chains : ∀ i : Slot, ∀ b ∈ (s.job i).chain, s.regionOf b = none ∨ s.regionOf b = some (s.job i).pool
  /-- Reservations lie in the 256 extents, and no two of them share one (R26). -/
  extents : ∀ p : PoolNo, (s.pool p).reserved = true → (s.pool p).limit ≤ 255
  distinct : ∀ p q : PoolNo, p ≠ q → (s.pool p).reserved = true → (s.pool q).reserved = true →
    (s.pool p).limit < (s.pool q).base ∨ (s.pool q).limit < (s.pool p).base
  /-- A FREE slot has no chain and no intake (R45, R47). -/
  vacant : ∀ i : Slot, (s.job i).state = .free → (s.job i).chain = [] ∧ (s.job i).intakeOpen = false

/-- The credit of every job is accounted for, every promise is backed by free blocks, and the jobs due for credit wait for it (R31, R32,
R34, R37, R41, R43). -/
structure State.creditBacked (s : State) : Prop where
  /-- A job's granted units are its allocated blocks and its promise; a job whose intake is closed has no promise (R31, R39, R41). -/
  granted : ∀ i : Slot, (s.job i).granted = (s.job i).allocated + (s.job i).promised + (s.job i).promisedShared
  closed : ∀ i : Slot, (s.job i).intakeOpen = false → (s.job i).promised = 0 ∧ (s.job i).promisedShared = 0
  /-- Its spooled bytes take as many blocks as are allocated, and those not released from the head of its chain are in it (R34, R43). -/
  stored : ∀ i : Slot, (s.job i).allocated = ((s.job i).spooled + 4095) / 4096
  chain : ∀ i : Slot, (s.job i).released + (s.job i).chain.length = (s.job i).allocated
  /-- No region holds fewer free blocks than are promised against it (R32). -/
  pools : ∀ p : PoolNo, s.promiseTotal p ≤ (s.pool p).free.length
  shared : s.sharedTotal ≤ s.sharedFree.length
  /-- The grant wait list holds each job that is due once, and no other (R37). -/
  waiting : s.waitList.Nodup ∧ ∀ i : Slot, i ∈ s.waitList ↔ s.due i = true

/-! ## The end of an event -/

/-- Whether an item is one that the completion of a directive queues: a REPLY or a FENCE-DONE (R165, R167). -/
def Notice.reports : Notice → Bool
  | .reply _ _ | .fenceDone _ => true
  | _ => false

/-- Whether an entry is that of a pending FENCE (R167). -/
def QueueEntry.isPendingFence (e : QueueEntry) : Bool :=
  e.isCode 2 && match e.cond with
    | .pending _ => true
    | _ => false

/-- The entry at `p` is that of a FENCE pending with the count `n`, and every earlier entry of the taken ones still held is complete
(R162, R167). -/
def State.fenceReady (s : State) (p : QueuePtr) (n : Nat) : Prop :=
  ∃ k, k < (s.queue.take - s.queue.retire).toNat ∧ p = s.queue.retire + BitVec.ofNat 7 k ∧
    (s.entry p).directive.code.toNat = 2 ∧ (s.entry p).cond = .pending n ∧
    ∀ m, m < k → (s.entry (s.queue.retire + BitVec.ofNat 7 m)).cond.isComplete = true

/-- The state `s` but for the directive queue and the notices of `t`, between two events. -/
def State.withReplies (s t : State) : State :=
  { s with queue := t.queue, notices := t.notices, noticeDrops := t.noticeDrops, todo := Todo.nothing }

/-- The state `s` between two events, with nothing left to carry out. -/
def State.settled (s : State) : State := { s with todo := Todo.nothing }

/-- An event whose own effect is `u` ends in `t`, and the directives that complete in it are those of `done` and pending FENCEs:
each of `done` holds its result and values; no other entry changes, pending FENCEs apart; no pointer but the retire pointer moves;
and all that is queued are REPLY and FENCE-DONE notices (R164, R165, R167). What each completion brings with it, the reply of its frame
and the advance of the retire pointer (`State.finishEntry`) and then the pending FENCEs that are ready (`State.completeFences`), is
that of `State.carryOut`, one completion after another in queue order (R164). -/
structure Concludes (u t : State) (done : List Completion) : Prop where
  tables : t = u.withReplies t
  results : ∀ c ∈ done, (t.entry c.ptr).cond = .complete c.result c.value1 c.value2
  others : ∀ q, (∀ c ∈ done, ringPlace c.ptr ≠ ringPlace q) → (u.entry q).isPendingFence = false →
    (t.entry q).cond = (u.entry q).cond
  directives : ∀ q, (t.entry q).directive = (u.entry q).directive
  take : t.queue.take = u.queue.take
  tail : t.queue.tail = u.queue.tail
  ext : t.queue.ext = u.queue.ext
  going : t.queue.resetTaken = u.queue.resetTaken
  notices : ∃ l, t.notices = u.notices ++ l ∧ ∀ n ∈ l, n.reports = true
  folded : t = ((inQueueOrder u.queue.retire done).foldl State.carryOut u).settled

/-- A frame on a stream tag reaches a job: RESET is high, the tag's cache entry names the job's slot, and its intake is open (R6, R7). -/
def State.reaches (s : State) (tag : Word16) (i : Slot) : Prop :=
  s.resetLow = false ∧ s.cache[cacheIndex tag] = ⟨true, tag.toNat / 64, i⟩ ∧ (s.job i).intakeOpen = true

/-- `t` is `s` with the QUEUED or HELD job of slot `i` released (R8, R45, R68), where no pool has a reservation and no other job waits
for credit: the notice is queued, the slot is FREE, its blocks have joined the shared free queue, no cache entry names it, it has
left its pool's job queue and the wait list, and everything else is as it was. -/
structure Released (s t : State) (i : Slot) (n : Notice) : Prop where
  frame : t = { s with jobs := t.jobs, cache := t.cache, pools := t.pools, sharedFree := t.sharedFree, waitList := [],
                       notices := (s.notice n).notices, noticeDrops := (s.notice n).noticeDrops, todo := t.todo }
  slot : t.job i = Job.vacant
  others : ∀ k, k ≠ i → t.job k = s.job k
  cache : ∀ c : Fin 64, t.cache[c] = if s.cache[c].slot = i then { s.cache[c] with valid := false } else s.cache[c]
  blocks : t.sharedFree = s.sharedFree ++ (s.job i).chain
  left : (s.job i).state = .queued → t.pools = s.pools.set (s.job i).pool { s.pool (s.job i).pool with
    classes := (s.pool (s.job i).pool).classes.set (s.job i).prio
      ((s.pool (s.job i).pool).classes[(s.job i).prio].filter (· ≠ i)) }
  unqueued : (s.job i).state = .held → t.pools = s.pools

/-- `t` is `s` with the job of slot `i` released from lane `l`, which then waits for work (R8, R45, R56, R68), where nothing is in flight
at the lane, no set is held there, no pool has a reservation and no job waits for a lane or for credit: the notice is queued, the slot is
FREE, its blocks have joined the shared free queue, no cache entry names it, the lane is READY in its pool, and everything else is as it
was. -/
structure ReleasedFromLane (s t : State) (i : Slot) (l : LaneNo) (n : Notice) : Prop where
  frame : t = ({ s.notice n with
    jobs := s.jobs.set i Job.vacant, cache := t.cache, sharedFree := s.sharedFree ++ (s.job i).chain, waitList := []
    lanes := s.lanes.set l { s.lane l with job := none, state := .ready, reoffer := none, retained := none }
    pools := s.pools.set (s.lane l).current.pool { s.pool (s.lane l).current.pool with
      ready := (s.pool (s.lane l).current.pool).ready ++ [l] } } : State).settled
  cache : ∀ c : Fin 64, t.cache[c] = if s.cache[c].slot = i then { s.cache[c] with valid := false } else s.cache[c]

/-! ## A bound job as intake reaches it -/

/-- The cursors of a bound job stand where settling leaves them, on one copy (R89, R90, R91). -/
def Job.cursorsStand (j : Job) : Prop :=
  j.confirm.copy = j.send.copy ∧ j.confirm.pos ≤ j.send.pos ∧ j.cursorMove j.send = none ∧ j.cursorMove j.confirm = none

/-- A cursor of the job as the record at position `n` of its list becomes, or comes in as, SKIPPED or DAMAGED: at a bound job it moves
past that record, and without a lane it stays (R102). -/
def Job.movedPast (j : Job) (n : Nat) (c : Cursor) : Cursor :=
  if j.lane.isSome ∧ c.pos = n then { c with pos := n + 1 } else c

/-- Lane `l` can offer a sheet now (R95) under its counter's next sequence (R93): its job, of slot `i`, is PRINTING, and the sheet
passes the capability test and the funds check. -/
structure State.mayOffer (s : State) (l : LaneNo) (i : Slot) (rec : SheetRecord) : Prop where
  printing : (s.lane l).job = some i ∧ (s.job i).lane = some l ∧ (s.job i).state = .printing
  bound : (s.lane l).state = .bound ∧ (s.lane l).abort = false
  idle : (s.lane l).offer = none ∧ (s.lane l).retained = none ∧ (s.lane l).reoffer = none
  room : (s.lane l).inflight.length < (s.lane l).cap.depth
  fresh : ∀ e ∈ (s.lane l).inflight, e.seq ≠ (s.lane l).seq
  capable : (s.lane l).cap.media.getLsbD rec.cls = true ∧ (rec.sides = 2 → (s.lane l).cap.duplex = true)
  funded : -((s.account (s.job i).account).limit : Int) ≤ (s.account (s.job i).account).balance -
    ((s.account (s.job i).account).pending + estimateOf (s.scaled rec (s.job i).account))

/-- The state once lane `l` has offered a sheet of the job of slot `i` as `copy` (R95): the pending sum holds the estimate, the OFFER is
sent and outstanding under the next sequence, and the answer timer runs. -/
def State.withOffer (s : State) (l : LaneNo) (i : Slot) (copy : Nat) (rec : SheetRecord) : State :=
  let r := s.lane l
  let a := s.account (s.job i).account
  let x := s.scaled rec (s.job i).account
  { s with
    accounts := s.accounts.set (s.job i).account { a with pending := a.pending + estimateOf x }
    lanes := s.lanes.set l { r with
      offer := some ⟨copy, rec.number, r.seq, (s.job i).account, x, estimateOf x⟩, seq := r.seq + 1, timeouts := 0
      answer := some (r.current.answer * 1000) }
    sent := s.sent ++ [Sent.link l (LinkFrame.offer r.seq i copy rec.number rec.cls rec.sides rec.length
      ((rec.length + (r.cap.chunk - 1)) / r.cap.chunk)).bytes] }

/-- No pool has a lane waiting for a job, so that no job can be dispatched. -/
def State.noLaneReady (s : State) : Prop := ∀ p : PoolNo, (s.pool p).ready = []

end Sys2Proof.Machine
end

