-- ==== Sys2Proof/Certificates/Slice0/Obligations.lean ====
section
/-! DEFINITION. The statements for the provers. A statement about a directive says in which state its event ends through
`Concludes`: the tables its own effect leaves, and its entry's result and values. -/

open Sys2Proof Sys2Proof.Machine

/-! ## The step, the run and the reset -/

/-- With a command at the front of the queue, a step is that command on the state with the queue's rest (log entry 3). -/
def Obligations.StepRunsTheFrontCommand : Prop :=
  ∀ (c : Instr) (rest : List Instr) (s : State),
    step { s with pending := c :: rest } = exec c { s with pending := rest }

/-- The spec names no event that stops the engine: every command, and every step, answers a next state. With no command waiting the
engine acts of its own accord, in the order that is the model's choice (log entry 1): it takes the directive at the take pointer (R163),
else sends the head notice (R171), else fires the timer that has run out on the lowest-numbered lane that has one (Table 4.6), and else
one millisecond passes: the tick rises by one and wraps (R152), every running timer counts one millisecond down, and nothing else
changes. While RESET is low it does nothing (R179). -/
def Obligations.StepsNeverStopAndIdleStepsRunTheEngine : Prop :=
  (∀ (c : Instr) (s : State), ∃ t, exec c s = .next t) ∧ (∀ s : State, ∃ t, step s = .next t) ∧
  ∀ s : State, s.pending = [] →
    let waits := s.queue.resetTaken = false ∧ s.queue.take ≠ s.queue.tail
    let due := fun l : LaneNo =>
      let r := s.lane l
      if r.hail = some 0 ∧ r.state = .training then some (Instr.hailTimerExpiry l)
      else if r.silence = some 0 then some (Instr.silenceTimerExpiry l)
      else if r.answer = some 0 ∧ r.abort = true then some (Instr.abortTimeout l)
      else if r.answer = some 0 ∧ r.offer ≠ none then some (Instr.answerTimeout l)
      else if r.reoffer = some 0 then some (Instr.reofferTimerExpiry l)
      else if r.escalation = some 0 ∧ r.state = .jammed then some (Instr.escalationTimerExpiry l)
      else none
    let less := fun timer : Option Nat => timer.map fun ms => ms - 1
    (s.resetLow = true → step s = .next s) ∧
    (s.resetLow = false →
      (waits → step s = exec (commandOf (s.entry s.queue.take).directive) s) ∧
      (¬waits → s.notices ≠ [] → step s = exec .noticeSend s) ∧
      (¬waits → s.notices = [] →
        (∀ l c, due l = some c → (∀ m, m < l → due m = none) → step s = exec c s) ∧
        ((∀ l, due l = none) → ∃ t, step s = .next t ∧ t = { s with tick := s.tick + 1, lanes := t.lanes } ∧
          ∀ l, t.lane l = { s.lane l with
            hail := less (s.lane l).hail, silence := less (s.lane l).silence, answer := less (s.lane l).answer
            reoffer := less (s.lane l).reoffer, escalation := less (s.lane l).escalation })))

/-- What reset leaves, at the values the chapters give: R2 and R47 (every slot FREE), R5 (cache), R24 and R170 (counters, notices),
R26, R27 and R30 (spool), R52 and R54 (queues), R73 and Table 4.4 (lanes), R125, R127 (rates, tiers), R138 (accounts), Chapter 9
(alerts), R162 and R166 (directive queue), R171; and it meets every invariant that the statements below say a step keeps. A lane with
carrier is TRAINING with its hail timer running, and one without is DOWN with none (R78); that State.reset has carrier on every lane
is the model's choice (log entry 5). -/
def Obligations.ResetLeavesEveryBlockAsItsChapterSays : Prop :=
  let fresh := fun carrier : Bool => ({
    state := if carrier = true then .training else .down, carrier := carrier, job := none, cap := ⟨256, 0, false, 1⟩
    flags := ⟨false, false, false⟩
    current := { pool := 0, enable := true, mask := 0, reoffer := 200, answer := 2, silence := 5, escalation := 5 }
    pendingSet := none, seq := 0, offer := none, retained := none, timeouts := 0, abort := false, inflight := []
    hail := if carrier = true then some 100 else none, silence := none, answer := none, reoffer := none, escalation := none
    crcErrors := 0, ignored := 0, sheetsOut := 0, colourSides := 0, monoSides := 0, sheetsSpoiled := 0, jams := 0
    lastJam := none } : Lane)
  (∀ l, State.reset.lane l = fresh true) ∧
  (∀ straps changes carriers mem sent pending l,
    (State.startUp straps changes carriers mem sent pending).lane l = fresh carriers[l]) ∧
  (∀ i, (State.reset.job i).state = .free) ∧ (∀ k : Fin 64, State.reset.cache[k].valid = false) ∧
  State.reset.unknownStream = 0 ∧ State.reset.closedStream = 0 ∧ State.reset.duplicates = 0 ∧ State.reset.badHeaders = 0 ∧
  State.reset.overruns = 0 ∧ State.reset.noticeDrops = 0 ∧ State.reset.notices = [] ∧
  State.reset.sharedFree = List.range 65536 ∧ State.reset.waitList = [] ∧
  (∀ p, (State.reset.pool p).reserved = false ∧ (State.reset.pool p).allowance = 64 ∧ (State.reset.pool p).free = [] ∧
    (State.reset.pool p).queueOrder = [] ∧ (State.reset.pool p).ready = []) ∧
  (∀ c : Fin 16, State.reset.rates[c] = ⟨0, 0, 0, false⟩) ∧
  State.reset.tiers = #v[⟨0, 100, true⟩, ⟨0, 100, false⟩, ⟨0, 100, false⟩, ⟨0, 100, false⟩] ∧
  (∀ a, State.reset.account a = ⟨false, 0, 0, 0, 0, 0, 0, 0, 0⟩) ∧
  (∀ r : Fin 32, State.reset.alerts[r] = none) ∧ State.reset.overflow = false ∧ State.reset.overflowCount = 0 ∧
  State.reset.intakeMask = 0 ∧ State.reset.tick = 0 ∧
  State.reset.queue.take = 0 ∧ State.reset.queue.tail = 0 ∧ State.reset.queue.retire = 0 ∧ State.reset.queue.ext = none ∧
  State.reset.queue.resetTaken = false ∧ (∀ q, (State.reset.entry q).cond = .empty) ∧ State.reset.noticeAddr = 0xFFFFFFFFFFFF ∧
  Memory.wf State.reset.mem = true ∧ State.reset.noticesBounded ∧ State.reset.alertsDistinct ∧ State.reset.tiersOrdered ∧
    State.reset.accountsInRange ∧ State.reset.countersInRange ∧ State.reset.directivesBounded ∧ State.reset.passedReleased ∧
    State.reset.lanesMatchJobs ∧ State.reset.blocksApart ∧ State.reset.creditBacked

/-! ## What every step keeps -/

/-- Spool memory keeps its canonical form. -/
def Obligations.StepKeepsSpoolMemoryCanonical : Prop :=
  ∀ s t : State, Memory.wf s.mem = true → step s = .next t → Memory.wf t.mem = true

/-- The notice queue never holds more than 128 items (R170), and the directive queue never more than 64, of which no more are taken
than there are (R162). -/
def Obligations.StepKeepsTheQueuesBounded : Prop :=
  ∀ s t : State, step s = .next t → (s.noticesBounded → t.noticesBounded) ∧ (s.directivesBounded → t.directivesBounded)

/-- The alert log never holds two records of one key (R152, R153), and the order of the tier thresholds holds at every moment (R127). -/
def Obligations.StepKeepsAlertKeysAndTierOrder : Prop :=
  ∀ s t : State, step s = .next t → (s.alertsDistinct → t.alertsDistinct) ∧ (s.tiersOrdered → t.tiersOrdered)

/-- Every account keeps its figures in the ranges of Table 8.1 (balance, limit, residue and period figures; the pending sum follows from
`StepKeepsLanesAndJobsMatched`), the engine's counters, every job's totals and every lane's meters and link counters stay in their ranges
(R24, R69, R80, R150, R155, R170), and no confirm cursor stands past the head of its list on the final copy, because what it passes there
leaves the list (R44). -/
def Obligations.StepKeepsEveryFigureInRange : Prop :=
  ∀ s t : State, step s = .next t → (s.accountsInRange → t.accountsInRange) ∧ (s.countersInRange → t.countersInRange) ∧
    (s.passedReleased → t.passedReleased)

/-- Lanes and jobs stay in pairs, each as its state says (R48, R54, Table 3.2), no lane holds more sheets than its path depth (R92), and
every account's pending sum is the sum of the estimates that the lanes hold for it (R145). -/
def Obligations.StepKeepsLanesAndJobsMatched : Prop :=
  ∀ s t : State, s.lanesMatchJobs → step s = .next t → t.lanesMatchJobs

/-- Every spool block stays in exactly one place, the free queue of its region or one job's chain (R25 to R27); and every job's credit
stays accounted for (R31), every promise backed by a free block (R32), and the grant wait list the list of the jobs due (R37). -/
def Obligations.StepKeepsEveryBlockInOnePlace : Prop :=
  ∀ s t : State, s.blocksApart → step s = .next t → t.blocksApart ∧ (s.creditBacked → t.creditBacked)

/-! ## The meter unit's arithmetic -/

/-- The divider is exact for every dividend below 2^36 (R135); the estimate is the exact quotient rounded up (R133), and the charge of a
confirmation is at most it and at least 1 below it, whatever the residue (R134). -/
def Obligations.ChargeIsWithinOneOfTheEstimate : Prop :=
  (∀ x : Nat, x < 2 ^ 36 → divide x = (x / 100000, x % 100000)) ∧
  ∀ (a : Account) (x : Nat), x ≤ 52428000000 → a.residue < 100000 →
    estimateOf x = (x + 99999) / 100000 ∧ a.chargeFor x = (x + a.residue) / 100000 ∧ a.chargeFor x ≤ estimateOf x ∧
      estimateOf x ≤ a.chargeFor x + 1 ∧ estimateOf x ≤ 524280

/-- Over any run of confirmations of one account, the charges add up to the exact total rounded down once, and the residue is what is
left (R136): no fraction of a cu is lost or charged twice, whatever the order. -/
def Obligations.ConfirmationsLoseNoFraction : Prop :=
  ∀ (a : Account) (entries : List (Nat × Nat)), a.residue < 100000 → (∀ e ∈ entries, e.1 ≤ 52428000000) →
    let run := entries.foldl (fun (q : Account × Nat) e => (q.1.debit e.1 e.2, q.2 + q.1.chargeFor e.1)) (a, 0)
    run.2 = (a.residue + (entries.map (·.1)).sum) / 100000 ∧ run.1.residue = (a.residue + (entries.map (·.1)).sum) % 100000

/-- The tier of a sheet-copy is the highest-numbered valid one whose threshold is at or below the period sheet count (R129); X is the
sum of the side values times the percentage of that tier (R131), and stays in its range. -/
def Obligations.SheetIsPricedByItsSidesAndTier : Prop :=
  (∀ (s : State) (count : Nat), s.tiersOrdered → ∃ i : Fin 4, s.tierFor count = s.tiers[i] ∧ s.tiers[i].valid = true ∧
    s.tiers[i].threshold ≤ count ∧ ∀ j : Fin 4, i < j → s.tiers[j].valid = true → count < s.tiers[j].threshold) ∧
  ∀ (s : State) (rec : SheetRecord) (a : AccountNo) (cls : Fin 16), s.tiersOrdered → rec.cls = cls → rec.covA ≤ 1000 →
    rec.covB ≤ 1000 →
    let r := s.rates[cls]
    let side := fun c : Nat => if c = 0 then 1000 * r.bm.toNat else 1000 * r.bc.toNat + c * r.slope.toNat
    let p := (s.tierFor (s.account a).periodSheets).percentage
    (rec.sides = 1 → s.scaled rec a = side rec.covA * p) ∧ (rec.sides = 2 → s.scaled rec a = (side rec.covA + side rec.covB) * p) ∧
      s.scaled rec a ≤ 52428000000

/-! ## The meter unit's directives -/

/-- RATE-SET replaces the whole entry and reports the previous one, and out of range changes nothing (R126, R177). That the bits of its
values that no field is named for are 0 is the model's choice (log entry 21). -/
def Obligations.RateSetReplacesTheWholeEntry : Prop :=
  ∀ (s : State) (cls : Byte) (valid : Bool) (bm bc : Word16) (slope : Word32),
    s.takeable (.rateSet cls valid bm bc slope) = true →
    ((15 < cls.toNat ∨ 65535 < slope.toNat) → ∃ t, exec (.rateSet cls valid bm bc slope) s = .next t ∧
      Concludes (s.taken false) t [⟨s.queue.take, .range, 0, 0⟩]) ∧
    ∀ i : Fin 16, cls.toNat = i → slope.toNat ≤ 65535 → ∃ t, exec (.rateSet cls valid bm bc slope) s = .next t ∧
      Concludes { s.taken false with rates := s.rates.set i ⟨bm, bc, slope.setWidth 16, valid⟩ } t
        [⟨s.queue.take, .done, s.rates[i].bm ++ s.rates[i].bc, s.rates[i].slope ++ BitVec.ofNat 16 s.rates[i].valid.toNat⟩]

/-- TIER-SET by tier number and valid operand, with the test against the other valid tiers (R128). -/
def Obligations.TierSetKeepsOrRefusesByTheOrder : Prop :=
  ∀ (s : State) (tier : Byte) (valid : Bool) (threshold percentage : Word32),
    s.takeable (.tierSet tier valid threshold percentage) = true →
    let p := max 50 (min 200 percentage.toNat)
    let ends := fun u r v1 v2 => ∃ t, exec (.tierSet tier valid threshold percentage) s = .next t ∧
      Concludes u t [⟨s.queue.take, r, v1, v2⟩]
    let conflicts := fun k j : Fin 4 => s.tiers[j].valid = true ∧
      ((j < k ∧ threshold.toNat ≤ s.tiers[j].threshold) ∨ (k < j ∧ s.tiers[j].threshold ≤ threshold.toNat))
    (3 < tier.toNat → ends (s.taken false) .range 0 0) ∧
    (tier.toNat = 0 → ends { s.taken false with tiers := s.tiers.set 0 ⟨0, p, true⟩ } .done (BitVec.ofNat 32 p)
      (BitVec.ofNat 32 s.tiers[0].threshold)) ∧
    ∀ k : Fin 4, k ≠ 0 → tier.toNat = k →
      (valid = false → ends { s.taken false with tiers := s.tiers.set k ⟨threshold.toNat, p, false⟩ } .done (BitVec.ofNat 32 p)
        (BitVec.ofNat 32 s.tiers[k].threshold)) ∧
      (valid = true → (∀ j, ¬conflicts k j) → ends { s.taken false with tiers := s.tiers.set k ⟨threshold.toNat, p, true⟩ } .done
        (BitVec.ofNat 32 p) (BitVec.ofNat 32 s.tiers[k].threshold)) ∧
      ∀ j, valid = true → conflicts k j → (∀ i, i < j → ¬conflicts k i) →
        ends (s.taken false) .range (BitVec.ofNat 32 j) 0

/-! ## Accounts -/

/-- ACCOUNT-OPEN with a wide balance (R139, R166). -/
def Obligations.AccountOpenTakesAWideBalance : Prop :=
  ∀ (s : State) (account limit balance high1 high2 : Word32), s.takeable (.accountOpen account limit balance) = true →
    s.queue.ext = some (high1, high2) ∨ s.queue.ext = none ∧ high2 = 0 →
    let b : Int := (high2 ++ balance).toInt
    let ends := fun u r v1 => ∃ t, exec (.accountOpen account limit balance) s = .next t ∧
      Concludes u t [⟨s.queue.take, r, v1, 0⟩]
    (1023 < account.toNat → ends (s.taken true) .range 0) ∧
    ((b < -549755813888 ∨ 549755813887 < b) → ends (s.taken true) .range 0) ∧
    ∀ a : AccountNo, account.toNat = a → -549755813888 ≤ b → b ≤ 549755813887 →
      ((s.account a).isOpen = true → ends (s.taken true) .state 0) ∧
      ((s.account a).isOpen = false →
        ends { s.taken true with accounts := s.accounts.set a ⟨true, b, min limit.toNat 2147483647, 0, 0, 0, 0, 0, 0⟩ } .done
          (BitVec.ofNat 32 (min limit.toNat 2147483647)))

/-- ACCOUNT-CLOSE is refused while a job that is not FREE names the account (R140). -/
def Obligations.AccountCloseNeedsNoJob : Prop :=
  ∀ (s : State) (account : Word32), s.takeable (.accountClose account) = true →
    let ends := fun u r v1 v2 => ∃ t, exec (.accountClose account) s = .next t ∧ Concludes u t [⟨s.queue.take, r, v1, v2⟩]
    let names := fun (a : AccountNo) (i : Slot) => (s.job i).state ≠ .free ∧ (s.job i).account = a
    (1023 < account.toNat → ends (s.taken false) .range 0 0) ∧
    ∀ a : AccountNo, account.toNat = a →
      ((s.account a).isOpen = false → ends (s.taken false) .state 0 0) ∧
      (∀ i, (s.account a).isOpen = true → names a i → (∀ k, k < i → ¬names a k) →
        ends (s.taken false) .busy (BitVec.ofNat 32 ((List.finRange 256).countP fun k => decide (names a k))) (BitVec.ofNat 32 i)) ∧
      ((s.account a).isOpen = true → (∀ i, ¬names a i) →
        ends { s.taken false with accounts := s.accounts.set a { s.account a with isOpen := false } } .done
          ((BitVec.ofInt 64 (s.account a).balance).extractLsb' 0 32) ((BitVec.ofInt 64 (s.account a).balance).extractLsb' 32 32))

/-- ACCOUNT-LIMIT replaces the limit (R141); where no job of the account holds FUNDS, a raised limit has no further effect, and where one
does it is a funds rise, as `FundsRiseReleasesEveryFundsHold` states. -/
def Obligations.AccountLimitReplacesTheLimit : Prop :=
  ∀ (s : State) (account limit : Word32), s.takeable (.accountLimit account limit) = true →
    let ends := fun u r v1 v2 => ∃ t, exec (.accountLimit account limit) s = .next t ∧ Concludes u t [⟨s.queue.take, r, v1, v2⟩]
    (1023 < account.toNat → ends (s.taken false) .range 0 0) ∧
    ∀ a : AccountNo, account.toNat = a →
      ((s.account a).isOpen = false → ends (s.taken false) .state 0 0) ∧
      ((s.account a).isOpen = true →
        (limit.toNat ≤ (s.account a).limit ∨ ∀ i, (s.job i).account = a → (s.job i).reasons.funds = false) →
        ends { s.taken false with accounts := s.accounts.set a { s.account a with limit := min limit.toNat 2147483647 } } .done
          (BitVec.ofNat 32 (min limit.toNat 2147483647)) (BitVec.ofNat 32 (s.account a).limit))

/-- ACCOUNT-SWAP compares and swaps the balance (R142); where no job of the account holds FUNDS, a raised balance has no further
effect, and where one does it is a funds rise, as `FundsRiseReleasesEveryFundsHold` states. -/
def Obligations.AccountSwapComparesAndSwaps : Prop :=
  ∀ (s : State) (account expected new high1 high2 : Word32), s.takeable (.accountSwap account expected new) = true →
    s.queue.ext = some (high1, high2) ∨ s.queue.ext = none ∧ high1 = 0 ∧ high2 = 0 →
    let old : Int := (high1 ++ expected).toInt
    let b : Int := (high2 ++ new).toInt
    let fits := fun x : Int => -549755813888 ≤ x ∧ x ≤ 549755813887
    let ends := fun u r v1 v2 => ∃ t, exec (.accountSwap account expected new) s = .next t ∧
      Concludes u t [⟨s.queue.take, r, v1, v2⟩]
    (1023 < account.toNat → ends (s.taken true) .range 0 0) ∧
    (¬(fits old ∧ fits b) → ends (s.taken true) .range 0 0) ∧
    ∀ a : AccountNo, account.toNat = a → fits old → fits b →
      let low := (BitVec.ofInt 64 (s.account a).balance).extractLsb' 0 32
      let high := (BitVec.ofInt 64 (s.account a).balance).extractLsb' 32 32
      ((s.account a).isOpen = false → ends (s.taken true) .state 0 0) ∧
      ((s.account a).isOpen = true → (s.account a).balance ≠ old → ends (s.taken true) .mismatch low high) ∧
      ((s.account a).isOpen = true → (s.account a).balance = old →
        (b ≤ old ∨ ∀ i, (s.job i).account = a → (s.job i).reasons.funds = false) →
        ends { s.taken true with accounts := s.accounts.set a { s.account a with balance := b } } .done low high)

/-- An ACCOUNT-SWAP that raises the balance and an ACCOUNT-LIMIT that raises the limit are funds rises, which release every FUNDS hold of
the account (R141, R142, R148): a HELD job with no other reason is QUEUED again, a HOLDING one is PRINTING again, one with another reason
keeps its state, and no job of another account changes; the requeued jobs of one class stand at its front in ascending slot order (R51).
That a HOLDING job's pending JOB-HOLD stays pending as the job returns to PRINTING, and does not complete, is the model's deduction (log
entry 14). No lane is ready, and a HOLDING job's lane is stopped or has its offer outstanding, so that no binding and no offer follows. -/
def Obligations.FundsRiseReleasesEveryFundsHold : Prop :=
  ∀ (s : State) (a : AccountNo), (s.account a).isOpen = true → s.noLaneReady →
    (∀ i, (s.job i).account = a → (s.job i).reasons.funds = true → (s.job i).state = .held ∨
      ∃ l, (s.job i).state = .holding ∧ (s.job i).lane = some l ∧ ((s.lane l).state ≠ .bound ∨ (s.lane l).offer ≠ none)) →
    let held := fun i => (s.job i).account = a ∧ (s.job i).reasons.funds = true
    let freed := fun i => held i ∧ (s.job i).reasons.operator = false ∧ (s.job i).reasons.refused = false
    let rises := fun (f : Instr) (wide : Bool) (after : Account) (v1 v2 : Word32) => ∃ t, exec f s = .next t ∧
      Concludes { s.taken wide with accounts := s.accounts.set a after, jobs := t.jobs, pools := t.pools } t
        [⟨s.queue.take, .done, v1, v2⟩] ∧
      (∀ i, ¬held i → t.job i = s.job i) ∧
      (∀ i, held i → ¬freed i → t.job i = { s.job i with reasons := { (s.job i).reasons with funds := false } }) ∧
      (∀ i, freed i → t.job i = { s.job i with
        reasons := ⟨false, false, false⟩, state := if (s.job i).state = .held then .queued else .printing }) ∧
      (∀ p, t.pool p = { s.pool p with classes := (t.pool p).classes }) ∧
      ∀ (p : PoolNo) (c : Fin 4), (∀ k ∈ (s.pool p).classes[c], (s.job k).state ≠ .held) →
        (t.pool p).classes[c] = ((List.finRange 256).filter fun i => decide (freed i ∧ (s.job i).state = .held ∧
          (s.job i).pool = p ∧ (s.job i).prio = c)) ++ (s.pool p).classes[c]
    (∀ expected new high1 high2 : Word32, s.takeable (.accountSwap (BitVec.ofNat 32 a) expected new) = true →
      s.queue.ext = some (high1, high2) ∨ s.queue.ext = none ∧ high1 = 0 ∧ high2 = 0 →
      let old : Int := (high1 ++ expected).toInt
      let b : Int := (high2 ++ new).toInt
      (s.account a).balance = old → -549755813888 ≤ old → old < b → b ≤ 549755813887 →
      rises (.accountSwap (BitVec.ofNat 32 a) expected new) true { s.account a with balance := b } expected high1) ∧
    ∀ limit : Word32, s.takeable (.accountLimit (BitVec.ofNat 32 a) limit) = true →
      let l := min limit.toNat 2147483647
      (s.account a).limit < l →
      rises (.accountLimit (BitVec.ofNat 32 a) limit) false { s.account a with limit := l } (BitVec.ofNat 32 l)
        (BitVec.ofNat 32 (s.account a).limit)

/-- ACCOUNT-READ reports the figures of Table 8.2 of an OPEN or CLOSED account and changes nothing (R143). -/
def Obligations.AccountReadReportsTheTable : Prop :=
  ∀ (s : State) (account item : Word32), s.takeable (.accountRead account item) = true →
    let reads := fun r v1 v2 => ∃ t, exec (.accountRead account item) s = .next t ∧
      Concludes (s.taken false) t [⟨s.queue.take, r, v1, v2⟩]
    let w := BitVec.ofNat 32
    ((1023 < account.toNat ∨ 6 < item.toNat) → reads .range 0 0) ∧
    ∀ a : AccountNo, account.toNat = a →
      let r := s.account a
      (item.toNat = 0 → reads .done (if r.isOpen = true then 1 else 0) (w r.limit)) ∧
      (item.toNat = 1 → reads .done ((BitVec.ofInt 64 r.balance).extractLsb' 0 32) ((BitVec.ofInt 64 r.balance).extractLsb' 32 32)) ∧
      (item.toNat = 2 → reads .done (w r.pending) (w r.residue)) ∧
      (item.toNat = 3 → reads .done (w r.periodSheets)
        (w ((List.finRange 256).countP fun i => (s.job i).state ≠ .free ∧ (s.job i).account = a))) ∧
      (item.toNat = 4 → reads .done (w (r.periodCharge % 4294967296)) (w (r.periodCharge / 4294967296))) ∧
      (item.toNat = 5 → reads .done (w r.lastSheets) 0) ∧
      (item.toNat = 6 → reads .done (w (r.lastCharge % 4294967296)) (w (r.lastCharge / 4294967296)))

/-- ACCOUNT-ROLL moves the period figures into the last-period figures and keeps the rest (R144). -/
def Obligations.AccountRollClosesThePeriod : Prop :=
  ∀ (s : State) (account : Word32), s.takeable (.accountRoll account) = true →
    let ends := fun u r v1 v2 => ∃ t, exec (.accountRoll account) s = .next t ∧ Concludes u t [⟨s.queue.take, r, v1, v2⟩]
    (1023 < account.toNat → ends (s.taken false) .range 0 0) ∧
    ∀ a : AccountNo, account.toNat = a →
      let r := s.account a
      (r.isOpen = false → ends (s.taken false) .state 0 0) ∧
      (r.isOpen = true →
        ends { s.taken false with
            accounts := s.accounts.set a ⟨r.isOpen, r.balance, r.limit, r.pending, r.residue, 0, 0, r.periodSheets, r.periodCharge⟩ }
          .done (BitVec.ofNat 32 r.periodSheets) (BitVec.ofNat 32 (r.periodCharge % 4294967296)))

/-! ## The management unit -/

/-- A management frame is dropped by the tests of R160, refused whole with QUEUE-FULL, or admitted whole at the tail (R161, R162). -/
def Obligations.ManagementFrameIsAdmittedWholeOrNotAtAll : Prop :=
  ∀ (s : State) (source : MacAddress) (station count : Byte) (ds : List Directive), s.resetLow = false →
    let accepted := station = s.station ∧ 1 ≤ count.toNat ∧ count.toNat ≤ 16 ∧ ds.length = count.toNat
    let room := 64 - (s.queue.tail - s.queue.retire).toNat
    (¬accepted → exec (.managementFrame source station count ds) s = .next s.settled) ∧
    (accepted → room < ds.length → exec (.managementFrame source station count ds) s =
      .next (({ s with noticeAddr := source }).notice (.reply (ds.map fun d : Directive => ⟨d.tag, .queueFull, 0, 0⟩) false)).settled) ∧
    (accepted → ds.length ≤ room → ∃ t, exec (.managementFrame source station count ds) s = .next t ∧
      t = { s with queue := t.queue, noticeAddr := source, todo := Todo.nothing } ∧
      t.queue.tail = s.queue.tail + BitVec.ofNat 7 ds.length ∧ t.queue.take = s.queue.take ∧ t.queue.retire = s.queue.retire ∧
      t.queue.ext = s.queue.ext ∧ t.queue.resetTaken = s.queue.resetTaken ∧
      (∀ k (h : k < ds.length), t.entry (s.queue.tail + BitVec.ofNat 7 k) = ⟨ds[k], k, ds.length, source, .waiting⟩) ∧
      ∀ q, (∀ k < ds.length, ringPlace (s.queue.tail + BitVec.ofNat 7 k) ≠ ringPlace q) → t.entry q = s.entry q)

/-- Directives are taken in queue order (R163): a directive can be taken when it stands at the take pointer, the queue is not at its
tail, no RESET has been taken and RESET is high, and at any other time its command changes nothing (log entry 2). The taking moves
the take pointer by one, marks the entry, completes an EXTEND before it (R166), and changes no other part of the engine. A
directive whose code is not in the table completes with UNKNOWN and changes nothing. -/
def Obligations.DirectivesAreTakenInQueueOrder : Prop :=
  (∀ (s : State) (d : Directive), s.takeable (commandOf d) = true ↔ s.resetLow = false ∧ s.queue.resetTaken = false ∧
    s.queue.take ≠ s.queue.tail ∧ commandOf (s.entry s.queue.take).directive = commandOf d) ∧
  (∀ (s : State) (d : Directive), s.takeable (commandOf d) = false → exec (commandOf d) s = .next s) ∧
  (∀ (s : State) (wide : Bool),
    s.taken wide = { s with queue := (s.taken wide).queue, todo := Todo.nothing } ∧
    (s.taken wide).queue.take = s.queue.take + 1 ∧ (s.taken wide).queue.tail = s.queue.tail ∧
    (s.taken wide).queue.retire = s.queue.retire ∧ (s.taken wide).queue.ext = none ∧
    (s.taken wide).queue.resetTaken = s.queue.resetTaken ∧
    (∀ q, ((s.taken wide).entry q).directive = (s.entry q).directive) ∧
    (∃ n, ((s.taken wide).entry s.queue.take).cond = .pending n ∧
      (s.queue.ext = none → n = s.incompleteBefore s.queue.take)) ∧
    (s.queue.ext ≠ none → ((s.taken wide).entry (s.queue.take - 1)).cond =
      .complete (if wide = true then .done else .extendDropped) 0 0) ∧
    ∀ q, ringPlace q ≠ ringPlace s.queue.take → (s.queue.ext = none ∨ ringPlace q ≠ ringPlace (s.queue.take - 1)) →
      (s.taken wide).entry q = s.entry q) ∧
  ∀ (s : State) (code : Word16), s.takeable (.unknownDirective code) = true → ∃ t, exec (.unknownDirective code) s = .next t ∧
    Concludes (s.taken false) t [⟨s.queue.take, .unknown, 0, 0⟩]

/-- A frame's REPLY is queued in the event that completes its last incomplete directive, with the tag, result and values of each
directive in frame order; it is dropped at a full notice queue; and before that event there is none (R165, R170). With the reply the
retire pointer advances over the entries of complete frames, in queue order, up to the first entry of an incomplete frame or the take
pointer. In every statement that says `Concludes`, each completed directive is finished in this way (`State.carryOut`). -/
def Obligations.ReplyIsQueuedWhenTheFrameIsComplete : Prop :=
  ∀ (s : State) (p : QueuePtr) (r : Result) (v1 v2 : Word32), s.queue.resetTaken = false →
    let complete := ∀ q ∈ s.frameOf p, ringPlace q ≠ ringPlace p → (s.entry q).cond.isComplete = true
    let entries := (s.frameOf p).map fun q =>
      if ringPlace q = ringPlace p then (⟨(s.entry p).directive.tag, r, v1, v2⟩ : ReplyEntry)
      else match (s.entry q).cond with
        | .complete r v1 v2 => ⟨(s.entry q).directive.tag, r, v1, v2⟩
        | _ => ⟨(s.entry q).directive.tag, .done, 0, 0⟩
    (complete → s.notices.length < 128 → (s.finishEntry p r v1 v2).notices = s.notices ++ [.reply entries false]) ∧
    (complete → 128 ≤ s.notices.length → (s.finishEntry p r v1 v2).notices = s.notices ∧
      (s.finishEntry p r v1 v2).noticeDrops = min (s.noticeDrops + 1) 4294967295) ∧
    (¬complete → (s.finishEntry p r v1 v2).notices = s.notices ∧ (s.finishEntry p r v1 v2).queue.retire = s.queue.retire) ∧
    (complete → s.directivesBounded →
      let t := s.finishEntry p r v1 v2
      let whole := fun q => ∀ x ∈ t.frameOf q, (t.entry x).cond.isComplete = true
      t.queue.take = s.queue.take ∧ t.queue.tail = s.queue.tail ∧ ∃ n, t.queue.retire = s.queue.retire + BitVec.ofNat 7 n ∧
        (∀ k < n, s.queue.retire + BitVec.ofNat 7 k ≠ s.queue.take ∧ whole (s.queue.retire + BitVec.ofNat 7 k)) ∧
        (t.queue.retire = s.queue.take ∨ ¬whole t.queue.retire))

/-- EXTEND loads the pending-extension register and stays incomplete, or is dropped as the last of its frame (R166). -/
def Obligations.ExtendLoadsOrIsDropped : Prop :=
  ∀ (s : State) (high1 high2 : Word32), s.takeable (.extend high1 high2) = true →
    let e := s.entry s.queue.take
    (e.place + 1 = e.size → ∃ t, exec (.extend high1 high2) s = .next t ∧
      Concludes (s.taken false) t [⟨s.queue.take, .extendDropped, 0, 0⟩]) ∧
    (e.place + 1 ≠ e.size → exec (.extend high1 high2) s =
      .next { s.taken false with queue := { (s.taken false).queue with ext := some (high1, high2) } })

/-- FENCE completes at once when every entry before it is complete, with its FENCE-DONE when it has the notify flag, and is left
pending with its count otherwise (R167). The queue holds at most 64 entries, which every step keeps (R162). When a directive completes,
the pending FENCEs behind it follow in the same event: while one has every earlier entry complete, it completes with DONE and the count
it kept, after its FENCE-DONE when it has the notify flag; the event leaves no such FENCE pending, and where there is none it does
nothing more. -/
def Obligations.FenceCompletesOrWaits : Prop :=
  (∀ (s : State) (c : Completion),
    s.carryOut c = State.completeFences 64 (s.finishEntry c.ptr c.result c.value1 c.value2) ∧
      ∀ p n, ¬(s.carryOut c).fenceReady p n) ∧
  (∀ s : State, (∀ p n, ¬s.fenceReady p n) → State.completeFences 64 s = s) ∧
  (∀ (s : State) (p : QueuePtr) (n : Nat), s.fenceReady p n →
    let e := s.entry p
    let told := if e.directive.op0 = 0 then s else s.notice (.fenceDone e.directive.tag)
    State.completeFences 64 s = State.completeFences 64 (told.finishEntry p .done (BitVec.ofNat 32 n) 0)) ∧
  ∀ (s : State) (notify : Bool), s.takeable (.fence notify) = true → s.directivesBounded →
    let n := (s.taken false).incompleteBefore s.queue.take
    let tag := (s.entry s.queue.take).directive.tag
    (n = 0 → ∃ t, exec (.fence notify) s = .next t ∧
      Concludes (if notify = true then (s.taken false).notice (.fenceDone tag) else s.taken false) t [⟨s.queue.take, .done, 0, 0⟩]) ∧
    (n ≠ 0 → exec (.fence notify) s = .next (s.taken false) ∧ ((s.taken false).entry s.queue.take).cond = .pending n)

/-- RESET that is not last in its frame answers STATE; one that is last stops the taking of directives and, once the rest of its frame
is complete, queues its reply, or makes the engine reset where the reply is dropped (R168), with the straps read at their level then
(R179; how a change of them reaches the model is its choice, log entry 19, and so is the order in which the start-up's HAILs stand among
the frames sent, log entry 8). -/
def Obligations.ResetDirectiveStopsTheTaking : Prop :=
  ∀ s : State, s.takeable .reset = true →
    let e := s.entry s.queue.take
    let others := ∀ q ∈ s.frameOf s.queue.take, q ≠ s.queue.take → ((s.taken false).entry q).cond.isComplete = true
    (e.place + 1 ≠ e.size → ∃ t, exec .reset s = .next t ∧ Concludes (s.taken false) t [⟨s.queue.take, .state, 0, 0⟩]) ∧
    (e.place + 1 = e.size → ¬others → exec .reset s =
      .next { s.taken false with queue := { (s.taken false).queue with resetTaken := true } }) ∧
    (e.place + 1 = e.size → others → (∀ q, (s.entry q).isPendingFence = false) → s.notices.length < 128 →
      ∃ t entries, exec .reset s = .next t ∧ t = { s.withReplies t with noticeDrops := s.noticeDrops } ∧
        (t.entry s.queue.take).cond = .complete .done 0 0 ∧ t.queue.resetTaken = true ∧ t.queue.take = s.queue.take + 1 ∧
        t.notices = s.notices ++ [.reply entries true] ∧
        entries.map (·.tag) = (s.frameOf s.queue.take).map fun q => (s.entry q).directive.tag) ∧
    (e.place + 1 = e.size → others → (∀ q, (s.entry q).isPendingFence = false) → 128 ≤ s.notices.length →
      exec .reset s = .next (State.startUp (s.strapChanges.headD s.straps) s.strapChanges.tail (mapVector Lane.carrier s.lanes)
        s.mem s.sent s.pending))

/-- COUNTERS-READ reports its two counters and clears none (R169). -/
def Obligations.CountersReadReportsTwoCounters : Prop :=
  ∀ (s : State) (item : Word32), s.takeable (.countersRead item) = true →
    let reads := fun r v1 v2 => ∃ t, exec (.countersRead item) s = .next t ∧ Concludes (s.taken false) t [⟨s.queue.take, r, v1, v2⟩]
    (item = 0 → reads .done (BitVec.ofNat 32 s.unknownStream) (BitVec.ofNat 32 s.closedStream)) ∧
    (item = 1 → reads .done (BitVec.ofNat 32 s.duplicates) (BitVec.ofNat 32 s.badHeaders)) ∧
    (item = 2 → reads .done (BitVec.ofNat 32 s.overruns) (BitVec.ofNat 32 s.noticeDrops)) ∧
    (2 < item.toNat → reads .range 0 0)

/-- The head item leaves as one frame to the notice address as it stands (R170, R171), and the engine resets as the reply of a RESET
leaves (R168), with the straps read at their level then (R179; how a change of them reaches the model is its choice, log entry 19, and so
is the order in which the start-up's HAILs stand among the frames sent, log entry 8). How a frame writes the padding (log entry 8) and
the flags and bits that Table 11.4 names no bit for (log entry 21) is the model's choice too. -/
def Obligations.NoticeSendTakesTheHead : Prop :=
  ∀ (s : State) (n : Notice) (rest : List Notice), s.resetLow = false → s.notices = n :: rest →
    let sent := s.sent ++ [Sent.upstream (noticeFrame s.noticeAddr s.station n)]
    (n.resets = false → exec .noticeSend s = .next ({ s with notices := rest, sent := sent }).settled) ∧
    (n.resets = true → exec .noticeSend s =
      .next (State.startUp (s.strapChanges.headD s.straps) s.strapChanges.tail (mapVector Lane.carrier s.lanes) s.mem sent
        s.pending))

/-! ## Lane settings and pools -/

/-- LANE-SET with its settings clamped (R81, Table 4.5): with no job bound it takes effect at once by the table of R82, and with one
bound it is held, ending an earlier held one (R83). That the SUPERSEDED of the earlier one carries the values 0 and 0 is the model's
deduction (log entry 13). No record of the alert log waits for its relay, and no job for a lane. -/
def Obligations.LaneSetTakesEffectAtOnceOrWaits : Prop :=
  ∀ (s : State) (lane silence escalation pool enable : Byte) (mask reoffer : Word16) (answer : Byte),
    s.takeable (.laneSet lane silence escalation pool enable mask reoffer answer) = true →
    (∀ (k : Fin 32) r, s.alerts[k] = some r → r.relayed = true) →
    (∀ p, (s.pool p).queueOrder = []) →
    let run := exec (.laneSet lane silence escalation pool enable mask reoffer answer) s
    let ends := fun u r v1 => ∃ t, run = .next t ∧ Concludes u t [⟨s.queue.take, r, v1, 0⟩]
    (15 < lane.toNat → ends (s.taken false) .range 0) ∧
    ∀ (l : LaneNo) (set : Settings), lane.toNat = l → set.pool.val = min pool.toNat 7 → (set.enable = true ↔ enable ≠ 0) →
      set.mask = mask.extractLsb' 0 8 → set.reoffer = max 10 (min 2550 reoffer.toNat) / 10 * 10 →
      set.answer = max 1 (min 30 answer.toNat) → set.silence = max 2 (min 60 silence.toNat) →
      set.escalation = min 60 escalation.toNat →
      let old := (s.lane l).current
      let lanes := fun r : Lane => s.lanes.set l r
      let left := s.pools.set old.pool { s.pool old.pool with ready := (s.pool old.pool).ready.filter (· ≠ l) }
      ((s.lane l).job ≠ none → (s.lane l).pendingSet = none →
        run = .next { s.taken false with lanes := lanes { s.lane l with pendingSet := some (set, s.queue.take) } }) ∧
      (∀ earlier p, (s.lane l).job ≠ none → (s.lane l).pendingSet = some (earlier, p) → ringPlace p ≠ ringPlace s.queue.take →
        ∃ t, run = .next t ∧
          Concludes { s.taken false with lanes := lanes { s.lane l with pendingSet := some (set, s.queue.take) } } t
            [⟨p, .superseded, 0, 0⟩]) ∧
      ((s.lane l).job = none →
        ((s.lane l).state ≠ .ready → (s.lane l).state ≠ .offline →
          ends { s.taken false with lanes := lanes { s.lane l with current := set } } .done
            (BitVec.ofNat 32 (laneStateCode (s.lane l).state))) ∧
        ((s.lane l).state = .ready → set.enable = true → set.pool = old.pool →
          ends { s.taken false with lanes := lanes { s.lane l with current := set } } .done 2) ∧
        ((s.lane l).state = .ready → set.enable = true → set.pool ≠ old.pool →
          ends { s.taken false with
              lanes := lanes { s.lane l with current := set }
              pools := left.set set.pool { s.pool set.pool with ready := (s.pool set.pool).ready ++ [l] } } .done 2) ∧
        ((s.lane l).state = .ready → set.enable = false →
          ends { s.taken false with lanes := lanes { s.lane l with current := set, state := .offline }, pools := left } .done 6) ∧
        ((s.lane l).state = .offline → set.enable = true →
          ends { s.taken false with
              lanes := lanes { s.lane l with current := set, state := .ready }
              pools := s.pools.set set.pool { s.pool set.pool with ready := (s.pool set.pool).ready ++ [l] } } .done 2) ∧
        ((s.lane l).state = .offline → set.enable = false →
          ends { s.taken false with lanes := lanes { s.lane l with current := set } } .done 6))

/-- LANE-READ reports the lane record packed as Table 11.6 gives, in any lane state, and changes nothing (R151, R177). That the bits of its
values that no field is named for are 0 is the model's choice (log entry 21). -/
def Obligations.LaneReadPacksTheRecord : Prop :=
  ∀ (s : State) (lane item : Word32), s.takeable (.laneRead lane item) = true →
    let reads := fun r v1 v2 => ∃ t, exec (.laneRead lane item) s = .next t ∧ Concludes (s.taken false) t [⟨s.queue.take, r, v1, v2⟩]
    let w := BitVec.ofNat 32
    let first := fun (c : Settings) (pending : Bool) =>
      (BitVec.ofNat 8 c.pool ++ BitVec.ofNat 6 0 ++ BitVec.ofBool pending ++ BitVec.ofBool c.enable ++ BitVec.ofNat 8 0 ++ c.mask :
        Word32)
    let second := fun c : Settings =>
      (BitVec.ofNat 8 (c.reoffer / 10) ++ BitVec.ofNat 8 c.answer ++ BitVec.ofNat 8 c.silence ++ BitVec.ofNat 8 c.escalation : Word32)
    ((15 < lane.toNat ∨ 7 < item.toNat) → reads .range 0 0) ∧
    ∀ l : LaneNo, lane.toNat = l →
      let r := s.lane l
      (item.toNat = 0 → r.inflight.length < 256 → reads .done
        (BitVec.ofNat 8 (laneStateCode r.state) ++ BitVec.ofNat 8 (conditionsCode r.flags) ++
          (match r.job with | some i => BitVec.ofNat 16 i | none => 65535#16))
        (BitVec.ofNat 8 r.inflight.length ++ BitVec.ofNat 6 0 ++ BitVec.ofBool r.offer.isSome ++ BitVec.ofBool r.abort ++ r.seq)) ∧
      (item.toNat = 1 → r.cap.chunk < 65536 → r.cap.depth < 256 → reads .done
        (BitVec.ofNat 16 r.cap.chunk ++ BitVec.ofNat 8 r.cap.depth ++ BitVec.ofNat 7 0 ++ BitVec.ofBool r.cap.duplex)
        (BitVec.ofNat 16 0 ++ r.cap.media)) ∧
      (item.toNat = 2 → reads .done (first r.current false) (second r.current)) ∧
      (item.toNat = 3 → match r.pendingSet with
        | some (set, _) => reads .done (first set true) (second set)
        | none => reads .done 0 0) ∧
      (item.toNat = 4 → reads .done (w r.sheetsOut) (w r.sheetsSpoiled)) ∧
      (item.toNat = 5 → reads .done (w r.colourSides) (w r.monoSides)) ∧
      (item.toNat = 6 → reads .done (w r.jams) (w r.crcErrors)) ∧
      (item.toNat = 7 → reads .done (w r.ignored) (match r.lastJam with
        | none => BitVec.ofNat 4 0 ++ BitVec.ofNat 4 15 ++ BitVec.ofNat 6 0 ++ BitVec.ofNat 8 255 ++ BitVec.ofNat 10 1023
        | some ⟨location, none⟩ =>
            BitVec.ofNat 4 8 ++ location ++ BitVec.ofNat 6 0 ++ BitVec.ofNat 8 255 ++ BitVec.ofNat 10 1023
        | some ⟨location, some (i, a)⟩ =>
            BitVec.ofNat 4 8 ++ location ++ BitVec.ofNat 3 0 ++ BitVec.ofNat 3 4 ++ BitVec.ofNat 8 i ++ BitVec.ofNat 10 a))

/-- POOL-SET clamps and sets the allowance (R30); with no open job in the pool and none waiting it has no further effect. -/
def Obligations.PoolSetClampsTheAllowance : Prop :=
  ∀ (s : State) (pool allowance : Word32), s.takeable (.poolSet pool allowance) = true →
    let n := max 1 (min 4096 allowance.toNat)
    let ends := fun u r v1 => ∃ t, exec (.poolSet pool allowance) s = .next t ∧ Concludes u t [⟨s.queue.take, r, v1, 0⟩]
    (7 < pool.toNat → ends (s.taken false) .range 0) ∧
    ∀ p : PoolNo, pool.toNat = p → s.waitList = [] → (∀ i, (s.job i).intakeOpen = true → (s.job i).pool ≠ p) →
      ends { s.taken false with pools := s.pools.set p { s.pool p with allowance := n } } .done (BitVec.ofNat 32 n)

/-- POOL-RESERVE tests range, overlap and use in that order, and otherwise rebuilds the free queues of the old and the new range (R28,
R29); with no job waiting for credit it has no further effect. -/
def Obligations.PoolReserveMovesFreeBlocks : Prop :=
  ∀ (s : State) (pool base limit : Word32), s.takeable (.poolReserve pool base limit) = true →
    let ends := fun u r v1 v2 => ∃ t, exec (.poolReserve pool base limit) s = .next t ∧ Concludes u t [⟨s.queue.take, r, v1, v2⟩]
    let b := base.toNat
    let e := limit.toNat
    ((7 < pool.toNat ∨ 255 < b ∨ 255 < e) → ends (s.taken false) .range 0 0) ∧
    ∀ p : PoolNo, pool.toNat = p → b ≤ 255 → e ≤ 255 →
      let meets := ∃ q, q ≠ p ∧ b ≤ e ∧ (s.pool q).base ≤ (s.pool q).limit ∧ b ≤ (s.pool q).limit ∧ (s.pool q).base ≤ e
      let inNew := fun k : Nat => b * 256 ≤ k ∧ k < (e + 1) * 256
      let inOld := fun k : Nat => (s.pool p).base * 256 ≤ k ∧ k < ((s.pool p).limit + 1) * 256
      let chained := (s.jobs.toList.map fun j => j.chain.countP fun k => decide (inNew k ∨ inOld k)).sum
      let given := (List.range 65536).filter fun k => decide (inOld k ∧ ¬inNew k)
      let taken := (List.range 65536).filter fun k => decide (inNew k ∧ ¬inOld k)
      let busy := 0 < chained ∨ 0 < s.promiseTotal p ∨ s.sharedFree.length + given.length - taken.length < s.sharedTotal
      ((s.pool p).base ≤ 255 → (s.pool p).limit ≤ 255 →
        (meets → ends (s.taken false) .overlap 0 0) ∧
        (¬meets → busy → ends (s.taken false) .busy (BitVec.ofNat 32 chained) (BitVec.ofNat 32 (s.promiseTotal p))) ∧
        (¬meets → ¬busy → s.waitList = [] →
          let shared := s.sharedFree.filter (fun k => decide ¬inNew k) ++ given
          ends { s.taken false with
              sharedFree := shared
              pools := s.pools.set p { s.pool p with
                base := b, limit := e, free := (List.range 65536).filter fun k => decide (inNew k) } }
            .done (BitVec.ofNat 32 ((e + 1 - b) * 256)) (BitVec.ofNat 32 shared.length)))

/-! ## Jobs -/

/-- JOB-READ reports the job record of a slot that is not FREE, packed as R177 gives, and changes nothing (R64, Table 3.4). That the bits
of its values that no field is named for are 0 is the model's choice (log entry 21). -/
def Obligations.JobReadReportsTheRecord : Prop :=
  ∀ (s : State) (slot item : Word32), s.takeable (.jobRead slot item) = true →
    let reads := fun r v1 v2 => ∃ t, exec (.jobRead slot item) s = .next t ∧ Concludes (s.taken false) t [⟨s.queue.take, r, v1, v2⟩]
    let w := BitVec.ofNat 32
    let h := BitVec.ofNat 16
    ((255 < slot.toNat ∨ 11 < item.toNat) → reads .range 0 0) ∧
    ∀ i : Slot, slot.toNat = i →
      let j := s.job i
      let sheetAt := fun c : Cursor => match j.records[c.pos]? with
        | some rec => h rec.number
        | none => 0
      (j.state = .free → item.toNat ≤ 11 → reads .state 0 0) ∧
      (j.state ≠ .free →
        (item.toNat = 0 → reads .done
          (BitVec.ofNat 8 (jobStateCode j.state) ++ BitVec.ofNat 5 0 ++ BitVec.ofBool j.reasons.refused ++
            BitVec.ofBool j.reasons.funds ++ BitVec.ofBool j.reasons.operator ++ BitVec.ofNat 7 0 ++ BitVec.ofBool j.intakeOpen ++
            (match j.lane with | some l => BitVec.ofNat 8 l | none => 255#8))
          (j.tag ++ h j.account)) ∧
        (item.toNat = 1 → j.copies < 65536 → reads .done (BitVec.ofNat 8 j.pool ++ BitVec.ofNat 8 j.prio ++ h j.copies)
          (h j.winFirst ++ h j.winLast)) ∧
        (item.toNat = 2 → reads .done (j.expected ++ h j.lastSheet) (w j.records.length)) ∧
        (item.toNat = 3 → reads .done (h j.send.copy ++ sheetAt j.send) (h j.confirm.copy ++ sheetAt j.confirm)) ∧
        (item.toNat = 4 → reads .done (w j.confirmed) (w j.spoiled)) ∧
        (item.toNat = 5 → reads .done (w (j.charge % 4294967296)) (w (j.charge / 4294967296))) ∧
        (item.toNat = 6 → reads .done (w j.damaged)
          (BitVec.ofNat 30 0 ++ BitVec.ofBool j.pendingCancel.isSome ++ BitVec.ofBool j.pendingHold.isSome)) ∧
        (item.toNat = 7 → reads .done (w j.granted) (w j.allocated)) ∧
        (item.toNat = 8 → reads .done (w (j.spooled % 4294967296)) (w (j.spooled / 4294967296))) ∧
        (item.toNat = 9 → reads .done (h j.promised ++ h j.promisedShared) (w j.released)) ∧
        (item.toNat = 10 → reads .done (match j.chain.head? with | some b => w b | none => 4294967295)
          (match j.chain.getLast? with | some b => w b | none => 4294967295)) ∧
        (item.toNat = 11 → reads .done (w (j.passed % 4294967296)) (w (j.passed / 4294967296))))

/-- JOB-HOLD by the state of the job (R57), where the job holds no earlier JOB-HOLD unless a clause gives one; a job that leaves its
lane leaves no job waiting for it. A LANE-SET held there becomes the current set as the job leaves, decides whether the lane is READY in
the set's pool or OFFLINE, and completes with DONE, the lane's state and 1 (R82, R83); no record of the alert log waits for its relay
then, and that the state reported is the one before the dispatch of the event is the model's deduction (log entry 13). That the bits of a
reported set that no reason is named for are 0 is the model's choice (log entry 21). -/
def Obligations.JobHoldActsByTheJobState : Prop :=
  ∀ (s : State) (slot tag : Word32), s.takeable (.jobHold slot tag) = true →
    let run := exec (.jobHold slot tag) s
    let ends := fun u r v1 => ∃ t, run = .next t ∧ Concludes u t [⟨s.queue.take, r, v1, 0⟩]
    ((255 < slot.toNat ∨ 65535 < tag.toNat) → ends (s.taken false) .range 0) ∧
    ∀ i : Slot, slot.toNat = i → tag.toNat ≤ 65535 →
      let j := s.job i
      let held := { j with reasons := { j.reasons with operator := true } }
      let set : Word32 := BitVec.ofNat 29 0 ++ BitVec.ofBool j.reasons.refused ++ BitVec.ofBool j.reasons.funds ++ BitVec.ofBool true
      let jobs := fun k : Job => s.jobs.set i k
      (j.state = .free → ends (s.taken false) .state 0) ∧
      (j.state ≠ .free → tag ≠ 0#16 ++ j.tag → ends (s.taken false) .mismatch (0#16 ++ j.tag)) ∧
      (tag = 0#16 ++ j.tag → j.state = .cancelling → ends (s.taken false) .superseded 0) ∧
      (tag = 0#16 ++ j.tag → j.pendingHold = none →
        (j.state = .held → ends { s.taken false with jobs := jobs held } .done set) ∧
        (j.state = .queued → j.lane = none →
          ends { (s.taken false).notice (.held i j.tag held.reasons) with
              jobs := jobs { held with state := .held }
              pools := s.pools.set j.pool { s.pool j.pool with
                classes := (s.pool j.pool).classes.set j.prio ((s.pool j.pool).classes[j.prio].filter (· ≠ i)) } } .done set) ∧
        (∀ l, j.state = .printing → j.lane = some l → ((s.lane l).offer ≠ none ∨ (s.lane l).inflight ≠ []) →
          run = .next { s.taken false with jobs := jobs { held with state := .holding, pendingHold := some s.queue.take } }) ∧
        (∀ l, j.state = .printing → j.lane = some l → (s.lane l).offer = none → (s.lane l).inflight = [] →
          (s.lane l).state = .bound → (s.lane l).pendingSet = none → (∀ p, (s.pool p).queueOrder = []) →
          let r : Lane := { s.lane l with job := none, reoffer := none, retained := none }
          let q : PoolNo := r.current.pool
          ends { (s.taken false).notice (.held i j.tag held.reasons) with
              jobs := jobs { held with state := .held, lane := none }
              lanes := s.lanes.set l { r with state := if r.current.enable = true then .ready else .offline }
              pools := if r.current.enable = true then s.pools.set q { s.pool q with ready := (s.pool q).ready ++ [l] } else s.pools }
            .done set) ∧
        (∀ l new p, j.state = .printing → j.lane = some l → (s.lane l).offer = none → (s.lane l).inflight = [] →
          (s.lane l).state = .bound → (s.lane l).pendingSet = some (new, p) → ringPlace p ≠ ringPlace s.queue.take →
          (∀ (k : Fin 32) x, s.alerts[k] = some x → x.relayed = true) → (∀ q, (s.pool q).queueOrder = []) →
          let r : Lane := { s.lane l with job := none, reoffer := none, retained := none, pendingSet := none, current := new }
          ∃ t, run = .next t ∧ Concludes { (s.taken false).notice (.held i j.tag held.reasons) with
              jobs := jobs { held with state := .held, lane := none }
              lanes := s.lanes.set l { r with state := if new.enable = true then .ready else .offline }
              pools := if new.enable = true then
                s.pools.set new.pool { s.pool new.pool with ready := (s.pool new.pool).ready ++ [l] } else s.pools } t
            [⟨s.queue.take, .done, set, 0⟩, ⟨p, .done, if new.enable = true then 2 else 6, 1⟩]) ∧
        (j.state = .holding →
          run = .next { s.taken false with jobs := jobs { held with pendingHold := some s.queue.take } })) ∧
      (∀ p, tag = 0#16 ++ j.tag → j.state = .holding → j.pendingHold = some p →
        ∃ t, run = .next t ∧ Concludes { s.taken false with jobs := jobs { held with pendingHold := some s.queue.take } } t
          [⟨p, .superseded, 0, 0⟩])

/-- JOB-RELEASE removes OPERATOR and REFUSED (R59): by the state of the job and the set left over. A requeued job finds no lane ready,
and a lane that may offer again has its offer outstanding. That a CANCELLING job answers STATE under another tag too, and not MISMATCH, is
the model's deduction (log entry 14); that the bits of a reported set that no reason is named for are 0 is the model's choice (log entry
21). -/
def Obligations.JobReleaseActsByTheSetLeft : Prop :=
  ∀ (s : State) (slot tag : Word32), s.takeable (.jobRelease slot tag) = true →
    let run := exec (.jobRelease slot tag) s
    let ends := fun u r v1 => ∃ t, run = .next t ∧ Concludes u t [⟨s.queue.take, r, v1, 0⟩]
    ((255 < slot.toNat ∨ 65535 < tag.toNat) → ends (s.taken false) .range 0) ∧
    ∀ i : Slot, slot.toNat = i → tag.toNat ≤ 65535 →
      let j := s.job i
      let jobs := fun k : Job => s.jobs.set i k
      ((j.state = .free ∨ j.state = .cancelling) → ends (s.taken false) .state 0) ∧
      (j.state ≠ .free → j.state ≠ .cancelling → tag ≠ 0#16 ++ j.tag → ends (s.taken false) .mismatch (0#16 ++ j.tag)) ∧
      (tag = 0#16 ++ j.tag →
        ((j.state = .queued ∨ j.state = .printing) → j.reasons = ⟨false, false, false⟩ → ends (s.taken false) .done 0) ∧
        ((j.state = .held ∨ j.state = .holding) → j.reasons.funds = true →
          ends { s.taken false with jobs := jobs { j with reasons := ⟨false, true, false⟩ } } .done 2) ∧
        (j.state = .held → j.reasons.funds = false → (s.pool j.pool).ready = [] →
          ends { s.taken false with
              jobs := jobs { j with state := .queued, reasons := ⟨false, false, false⟩ }
              pools := s.pools.set j.pool { s.pool j.pool with
                classes := (s.pool j.pool).classes.set j.prio (i :: (s.pool j.pool).classes[j.prio]) } } .done 0) ∧
        (∀ l, j.state = .holding → j.reasons.funds = false → j.lane = some l → (s.lane l).offer ≠ none →
          let u := { s.taken false with
            jobs := jobs { j with state := .printing, reasons := ⟨false, false, false⟩, pendingHold := none } }
          (j.pendingHold = none → ends u .done 0) ∧
          ∀ p, j.pendingHold = some p → ringPlace p ≠ ringPlace s.queue.take →
            ∃ t, run = .next t ∧ Concludes u t [⟨s.queue.take, .done, 0, 0⟩, ⟨p, .superseded, 0, 0⟩]))

/-- JOB-CANCEL releases a QUEUED or HELD job at once, and a job with sheets in flight becomes CANCELLING while its lane sends ABORT (R60,
R61, R86). The released job has no sheet in progress and does not complete as its intake closes; no pool has a reservation, no other
job waits for credit, and no lane is ready. -/
def Obligations.JobCancelReleasesOrStopsTheLane : Prop :=
  ∀ (s : State) (slot tag : Word32), s.takeable (.jobCancel slot tag) = true →
    let run := exec (.jobCancel slot tag) s
    let ends := fun u r v1 => ∃ t, run = .next t ∧ Concludes u t [⟨s.queue.take, r, v1, 0⟩]
    ((255 < slot.toNat ∨ 65535 < tag.toNat) → ends (s.taken false) .range 0) ∧
    ∀ i : Slot, slot.toNat = i → tag.toNat ≤ 65535 →
      let j := s.job i
      (j.state = .free → ends (s.taken false) .state 0) ∧
      (j.state ≠ .free → tag ≠ 0#16 ++ j.tag → ends (s.taken false) .mismatch (0#16 ++ j.tag)) ∧
      (tag = 0#16 ++ j.tag → j.state = .cancelling → ends (s.taken false) .superseded 0) ∧
      (tag = 0#16 ++ j.tag → (j.state = .queued ∨ j.state = .held) → j.lane = none → j.pendingHold = none → j.pendingCancel = none →
        j.inProgress = none → j.records ≠ [] → (j.confirm.copy ≠ j.copies ∨ j.confirm.pos < j.records.length) →
        (∀ p, (s.pool p).reserved = false) → (∀ k ∈ s.waitList, k = i) → s.noLaneReady →
        ∃ u, ends u .done 0 ∧ Released (s.taken false) u i (.cancelled i j.tag ⟨j.confirmed, j.spoiled, j.damaged, j.charge⟩)) ∧
      (∀ l, tag = 0#16 ++ j.tag → (j.state = .printing ∨ j.state = .holding) → j.intakeOpen = false → j.lane = some l →
        ((s.lane l).offer ≠ none ∨ (s.lane l).inflight ≠ []) →
        let u := { s.taken false with
          jobs := s.jobs.set i { j with state := .cancelling, pendingHold := none, pendingCancel := some s.queue.take }
          lanes := s.lanes.set l { s.lane l with
            abort := true, reoffer := none, timeouts := 0, answer := some ((s.lane l).current.answer * 1000) }
          sent := s.sent ++ [Sent.link l LinkFrame.abort.bytes] }
        (j.pendingHold = none → run = .next u) ∧
        ∀ p, j.pendingHold = some p → ringPlace p ≠ ringPlace s.queue.take →
          ∃ t, run = .next t ∧ Concludes u t [⟨p, .superseded, 0, 0⟩])

/-- JOB-MOVE gives an open job a new stream tag unless another open job carries it, and leaves the stream cache as it is (R63, R10);
PURGE invalidates cache entries in one of three scopes, and changes nothing else (R9). -/
def Obligations.MoveAndPurgeActOnStreamsAlone : Prop :=
  (∀ (s : State) (slot tag : Word32), s.takeable (.jobMove slot tag) = true →
    let ends := fun u r v1 => ∃ t, exec (.jobMove slot tag) s = .next t ∧ Concludes u t [⟨s.queue.take, r, v1, 0⟩]
    ((255 < slot.toNat ∨ 65535 < tag.toNat) → ends (s.taken false) .range 0) ∧
    ∀ i : Slot, slot.toNat = i → tag.toNat ≤ 65535 →
      let carries := fun k => k ≠ i ∧ (s.job k).state ≠ .free ∧ (s.job k).intakeOpen = true ∧ 0#16 ++ (s.job k).tag = tag
      (((s.job i).state = .free ∨ (s.job i).intakeOpen = false) → ends (s.taken false) .state 0) ∧
      ((s.job i).state ≠ .free → (s.job i).intakeOpen = true →
        (∀ k, carries k → (∀ m, m < k → ¬carries m) → ends (s.taken false) .busy (BitVec.ofNat 32 k)) ∧
        ((∀ k, ¬carries k) →
          ends { s.taken false with jobs := s.jobs.set i { s.job i with tag := tag.extractLsb' 0 16 } } .done
            (0#16 ++ (s.job i).tag)))) ∧
  ∀ (s : State) (scope target : Word32), s.takeable (.purge scope target) = true →
    ((2 < scope.toNat ∨ scope = 1 ∧ 65535 < target.toNat ∨ scope = 2 ∧ 255 < target.toNat) →
      ∃ t, exec (.purge scope target) s = .next t ∧ Concludes (s.taken false) t [⟨s.queue.take, .range, 0, 0⟩]) ∧
    ∀ picks : Fin 64 → Prop,
      (scope = 0 ∧ (∀ k, picks k ↔ s.cache[k].valid = true) ∨
        scope = 1 ∧ target.toNat ≤ 65535 ∧ (∀ k, picks k ↔
          s.cache[k].valid = true ∧ target.toNat % 64 = k ∧ s.cache[k].high = target.toNat / 64) ∨
        scope = 2 ∧ target.toNat ≤ 255 ∧ (∀ k, picks k ↔ s.cache[k].valid = true ∧ (s.cache[k].slot : Nat) = target.toNat)) →
      ∃ t n, ∃ cache : Vector CacheEntry 64, exec (.purge scope target) s = .next t ∧
        Concludes { s.taken false with cache := cache } t [⟨s.queue.take, .done, scope, BitVec.ofNat 32 n⟩] ∧
        (∀ k : Fin 64, picks k → cache[k] = { s.cache[k] with valid := false }) ∧
        (∀ k : Fin 64, ¬picks k → cache[k] = s.cache[k]) ∧
        (∃ hit : List (Fin 64), hit.Nodup ∧ hit.length = n ∧ ∀ k, k ∈ hit ↔ picks k)

/-! ## The alert log -/

/-- The log takes an alert event (R153, R155, R156): it coalesces into the record with its key, fills the lowest-numbered free record,
or is not logged; and it is relayed unless its kind is masked. -/
def Obligations.AlertEventsCoalesceByKey : Prop :=
  ∀ (s : State) (e : AlertEvent),
    let relayed := fun (i : Fin 32) (r : AlertRecord) =>
      (s.masked e.kind e.lane = true → s.raiseAlert e = { s with alerts := s.alerts.set i (some { r with relayed := false }) }) ∧
      (s.masked e.kind e.lane = false → s.notices.length < 128 → s.raiseAlert e =
        { s with alerts := s.alerts.set i (some { r with relayed := true }), notices := s.notices ++ [.alert (some i) false r] }) ∧
      (s.masked e.kind e.lane = false → 128 ≤ s.notices.length → s.raiseAlert e =
        { s with alerts := s.alerts.set i (some { r with relayed := false }), noticeDrops := min (s.noticeDrops + 1) 4294967295 })
    let hasKey := fun (i : Fin 32) => ∃ r, s.alerts[i] = some r ∧ r.kind = e.kind ∧ r.lane = e.lane ∧ r.slot = e.slot
    (∀ i r, s.alertsDistinct → hasKey i → s.alerts[i] = some r →
      relayed i ⟨e.kind, e.lane, e.slot, e.account, e.copy, e.sheet, r.first, s.tick, min (r.count + 1) 255,
        min (r.lost + e.lost) 65535, r.relayed⟩) ∧
    (∀ i, (∀ k, ¬hasKey k) → s.alerts[i] = none → (∀ k, k < i → s.alerts[k] ≠ none) →
      relayed i ⟨e.kind, e.lane, e.slot, e.account, e.copy, e.sheet, s.tick, s.tick, 1, e.lost, false⟩) ∧
    ((∀ k, ¬hasKey k) → (∀ k : Fin 32, s.alerts[k] ≠ none) →
      let full := { s with overflow := true, overflowCount := min (s.overflowCount + 1) 4294967295 }
      (s.masked e.kind e.lane = true → s.raiseAlert e = full) ∧
      (s.masked e.kind e.lane = false → s.notices.length < 128 → s.raiseAlert e = { full with
        notices := s.notices ++ [.alert none true
          ⟨e.kind, e.lane, e.slot, e.account, e.copy, e.sheet, s.tick, s.tick, 1, e.lost, false⟩] }) ∧
      (s.masked e.kind e.lane = false → 128 ≤ s.notices.length → s.raiseAlert e =
        { full with noticeDrops := min (s.noticeDrops + 1) 4294967295 }))

/-- ALERT-READ reports a record or the log as a whole and changes nothing (R158, R177, Table 9.3). That the bits of its values that no
field is named for are 0, and that the overflow flag of LOG item 1 is reported as 1 or 0, is the model's choice (log entry 21). -/
def Obligations.AlertReadReportsTheLog : Prop :=
  ∀ (s : State) (record item : Word32), s.takeable (.alertRead record item) = true →
    let reads := fun r v1 v2 => ∃ t, exec (.alertRead record item) s = .next t ∧
      Concludes (s.taken false) t [⟨s.queue.take, r, v1, v2⟩]
    let log : Word32 := 4294967295
    (31 < record.toNat → record ≠ log → reads .range 0 0) ∧
    (record = log →
      (1 < item.toNat → reads .range 0 0) ∧
      (item = 0 → ∃ v1 v2, reads .done v1 v2 ∧ ∀ k : Fin 32, (v1.getLsbD k = true ↔ s.alerts[k] ≠ none) ∧
        (v2.getLsbD k = true ↔ ∃ r, s.alerts[k] = some r ∧ r.relayed = false)) ∧
      (item = 1 → reads .done (if s.overflow = true then 1 else 0) (BitVec.ofNat 32 s.overflowCount))) ∧
    ∀ i : Fin 32, record.toNat = i →
      (2 < item.toNat → reads .range 0 0) ∧
      (item.toNat ≤ 2 → s.alerts[i] = none → reads .state 0 0) ∧
      ∀ r, s.alerts[i] = some r →
        (item = 0 → reads .done
          (BitVec.ofNat 4 (alertKindCode r.kind) ++ (match r.lane with | some l => BitVec.ofNat 5 l | none => 31#5) ++
            (match r.slot with | some k => BitVec.ofNat 9 k | none => 511#9) ++ BitVec.ofNat 3 0 ++
            (match r.account with | some a => BitVec.ofNat 11 a | none => 2047#11))
          (BitVec.ofNat 16 (r.copy.getD 0) ++ BitVec.ofNat 16 (r.sheet.getD 0))) ∧
        (item = 1 → reads .done r.first r.last) ∧
        (item = 2 → r.count < 256 → reads .done
          (BitVec.ofNat 16 0 ++ BitVec.ofNat 8 r.count ++ BitVec.ofNat 7 0 ++ BitVec.ofBool r.relayed) (BitVec.ofNat 32 r.lost))

/-- ALERT-ACK frees one record, or every record with the overflow flag (R158). -/
def Obligations.AlertAckFreesRecords : Prop :=
  ∀ (s : State) (record : Word32), s.takeable (.alertAck record) = true →
    let ends := fun u r v1 v2 => ∃ t, exec (.alertAck record) s = .next t ∧ Concludes u t [⟨s.queue.take, r, v1, v2⟩]
    let log : Word32 := 4294967295
    (31 < record.toNat → record ≠ log → ends (s.taken false) .range 0 0) ∧
    (record = log → ends { s.taken false with alerts := Vector.replicate 32 none, overflow := false } .done
      (BitVec.ofNat 32 ((List.finRange 32).countP fun k => s.alerts[k].isSome)) (BitVec.ofNat 32 s.overflowCount)) ∧
    ∀ i : Fin 32, record.toNat = i →
      (s.alerts[i] = none → ends (s.taken false) .state 0 0) ∧
      ∀ r, s.alerts[i] = some r →
        ends { s.taken false with alerts := s.alerts.set i none } .done (BitVec.ofNat 32 r.count) r.last

/-- ALERT-MASK sets the intake mask and relays the unrelayed records of the kinds it unmasks, in ascending record number, while the
notice queue has room (R157, R158). That the bits of the reported mask that no kind is named for are 0 is the model's choice (log entry
21). -/
def Obligations.AlertMaskRelaysWhatItUnmasks : Prop :=
  ∀ (s : State) (mask : Word32), s.takeable (.alertMask mask) = true → s.notices.length + 32 ≤ 128 →
    let bit := fun k : AlertKind => match k with
      | .overrun => some 0 | .sheetDamaged => some 1 | .recordShort => some 2 | .accountHold => some 3 | _ => none
    let due := fun r : AlertRecord => r.relayed = false ∧
      ∃ b, bit r.kind = some b ∧ s.intakeMask.getLsbD b = true ∧ mask.getLsbD b = false
    ∃ t alerts added, exec (.alertMask mask) s = .next t ∧
      Concludes { s.taken false with intakeMask := mask.extractLsb' 0 4, alerts := alerts, notices := s.notices ++ added } t
        [⟨s.queue.take, .done, 0#28 ++ s.intakeMask, BitVec.ofNat 32 added.length⟩] ∧
      (∀ (k : Fin 32), s.alerts[k] = none → alerts[k] = none) ∧
      (∀ (k : Fin 32) r, s.alerts[k] = some r → due r → alerts[k] = some { r with relayed := true }) ∧
      (∀ (k : Fin 32) r, s.alerts[k] = some r → ¬due r → alerts[k] = some r) ∧
      ∃ ks : List (Fin 32), ks.Pairwise (· < ·) ∧ (∀ k, k ∈ ks ↔ ∃ r, s.alerts[k] = some r ∧ due r) ∧
        added.map some = ks.map fun k => s.alerts[k].map fun r => Notice.alert (some k) false r

/-! ## Intake -/

/-- An OPEN is refused by the first of the four tests that holds, and changes nothing but the notice queue (R3). -/
def Obligations.OpenIsRefusedByTheFirstTestThatHolds : Prop :=
  ∀ (s : State) (tag account : Word16) (pool prio : Byte) (copies first last : Word16), s.resetLow = false →
    let streamBusy := ∃ i, (s.job i).state ≠ .free ∧ (s.job i).tag = tag ∧ (s.job i).intakeOpen = true
    let noSlot := ∀ i, (s.job i).state ≠ .free
    let noAccount := ∀ a : AccountNo, account.toNat = a → (s.account a).isOpen = false
    let refused := fun r => exec (.openJob tag account pool prio copies first last) s = .next (s.notice (.rejected tag r)).settled
    (streamBusy → refused .streamBusy) ∧
    (¬streamBusy → noSlot → refused .noSlot) ∧
    (¬streamBusy → ¬noSlot → noAccount → refused .account) ∧
    (¬streamBusy → ¬noSlot → ¬noAccount → 7 < pool.toNat → refused .pool)

/-- An accepted OPEN takes the lowest-numbered FREE slot and fills its record and its cache entry; the job joins the tail of its class,
gets its initial grant and its place on the wait list, and ACCEPTED and CREDIT are queued (R2, R4, R37 to R40). No other job waits for
credit, no lane of the pool waits for a job, and the notice queue has room. -/
def Obligations.OpenFillsTheLowestFreeSlot : Prop :=
  ∀ (s : State) (tag account : Word16) (pool prio : Byte) (copies first last : Word16) (i : Slot) (a : AccountNo) (p : PoolNo)
    (c : Fin 4), s.resetLow = false →
    (∀ k, (s.job k).state ≠ .free → (s.job k).intakeOpen = true → (s.job k).tag ≠ tag) →
    (s.job i).state = .free → (∀ k, k < i → (s.job k).state ≠ .free) →
    account.toNat = a → (s.account a).isOpen = true → pool.toNat = p → c.val = min prio.toNat 3 →
    s.waitList = [] → (s.pool p).ready = [] → s.notices.length + 2 ≤ 128 →
    let g := min (s.pool p).allowance (s.poolUnpromised p + s.sharedUnpromised)
    let job : Job := { Job.vacant with
      state := .queued, tag := tag, account := a, pool := p, prio := c
      copies := if copies.toNat = 0 then 1 else min copies.toNat 999
      winFirst := first.toNat, winLast := last.toNat, intakeOpen := true, expected := 1, lastSheet := 0, records := []
      granted := g, promised := min g (s.poolUnpromised p), promisedShared := g - min g (s.poolUnpromised p) }
    exec (.openJob tag account pool prio copies first last) s = .next
      { s with
        jobs := s.jobs.set i job
        cache := s.cache.set (tag.toNat % 64) ⟨true, tag.toNat / 64, i⟩ (Nat.mod_lt _ (by decide))
        pools := s.pools.set p { s.pool p with classes := (s.pool p).classes.set c ((s.pool p).classes[c] ++ [i]) }
        waitList := if g < max ((s.pool p).allowance / 2) 1 then [i] else []
        notices := s.notices ++ .accepted i tag :: (if g = 0 then [] else [.credit i tag g])
        todo := Todo.nothing }

/-- How a SHEET, DATA, CLOSE or CANCEL frame finds its job and its place in the sequence (R6, R7, R11, R24): an unknown stream, a closed
stream and a repeated frame are dropped and counted; a miss that finds an open job is handled as a hit once the cache is filled; and a
frame out of sequence damages the sheet in progress for GAP, with what that brings at a bound job (R102), and is then handled as the one
expected; that this settling comes before a SHEET's own test for a free record, and the damage's ALERT before the CREDIT notices of the
settling, is the model's choice (log entry 20). -/
def Obligations.FramesFindTheirJobAndTheirPlace : Prop :=
  ∀ (s : State) (tag seq : Word16) (f : Instr), s.resetLow = false →
    ((∃ number cls sides covA covB length, f = .sheet tag seq number cls sides covA covB length) ∨
      (∃ payload, f = .data tag seq payload) ∨ f = .close tag seq ∨ f = .cancel tag seq) →
    let e := s.cache[tag.toNat % 64]'(Nat.mod_lt _ (by decide))
    let matching := e.valid = true ∧ e.high = tag.toNat / 64
    let openOn := fun i => (s.job i).state ≠ .free ∧ (s.job i).tag = tag ∧ (s.job i).intakeOpen = true
    (¬matching → (∀ i, ¬openOn i) →
      exec f s = .next ({ s with unknownStream := min (s.unknownStream + 1) 4294967295 }).settled) ∧
    (∀ i, ¬matching → openOn i → (∀ k, openOn k → k = i) →
      exec f s = exec f { s with cache := s.cache.set (tag.toNat % 64) ⟨true, tag.toNat / 64, i⟩ (Nat.mod_lt _ (by decide)) }) ∧
    (matching → (s.job e.slot).intakeOpen = false →
      exec f s = .next ({ s with closedStream := min (s.closedStream + 1) 4294967295 }).settled) ∧
    (matching → (s.job e.slot).intakeOpen = true → seq = (s.job e.slot).expected - 1 →
      exec f s = .next ({ s with duplicates := min (s.duplicates + 1) 4294967295 }).settled) ∧
    (matching → (s.job e.slot).intakeOpen = true → seq ≠ (s.job e.slot).expected →
      seq ≠ (s.job e.slot).expected - 1 →
      exec f s = exec f ((s.damageInProgress e.slot .gap).modJob e.slot fun j => { j with expected := seq }))

/-- A SHEET header ends the sheet in progress for SHORT, and is refused for its number, dropped at a full record store, or obtains a
record whose condition its window, class and format decide (R14 to R17, R13). At a bound job the cursors that stand on the damaged record,
or at the end of the list as a SKIPPED or DAMAGED record joins it, move past it, and an ARRIVING record keeps the lane starved (R102); no
offer follows. On the final copy such a record, when it is the first of the list, is passed and leaves it, with the blocks wholly behind
it (R42 to R44); that a record freed in this way by the SHORT damage is free for this header's own test of the record store is the model's
choice (log entry 20). No job waits for credit and no pool has a reservation where blocks are freed. -/
def Obligations.SheetHeaderObtainsARecord : Prop :=
  ∀ (s : State) (tag seq number : Word16) (cls sides : Byte) (covA covB : Word16) (length : BitVec 24) (i : Slot),
    s.reaches tag i → seq = (s.job i).expected →
    let f : Instr := .sheet tag seq number cls sides covA covB length
    let j := s.job i
    let passed := { j with expected := seq + 1 }
    let keeps := fun n : Nat => j.cursorsStand ∧ (j.confirm.copy ≠ j.copies ∨ j.confirm.pos = 0 ∧ 0 < n)
    (∀ rest rec, j.records = rest ++ [rec] → rec.cond = .arriving →
      let n := min (j.damaged + 1) 4294967295
      let short := fun t : State => t.raiseAlert (intakeAlert .sheetDamaged i j.account rec.number)
      (j.lane = none ∨ keeps rest.length → exec f s = exec f (short { s with jobs := s.jobs.set i { j with
        records := rest ++ [{ rec with cond := .damaged .short }], damaged := n
        send := j.movedPast rest.length j.send, confirm := j.movedPast rest.length j.confirm } })) ∧
      (j.lane ≠ none → rest = [] → j.send = ⟨j.copies, 0⟩ → j.confirm = ⟨j.copies, 0⟩ → s.waitList = [] →
        (∀ p, (s.pool p).reserved = false) →
        let freed := min j.chain.length ((j.passed + rec.received) / 4096 - j.released)
        exec f s = exec f (short { s with
          sharedFree := s.sharedFree ++ j.chain.take freed
          jobs := s.jobs.set i { j with
            records := [], damaged := n, passed := j.passed + rec.received, chain := j.chain.drop freed, released := j.released + freed } }))) ∧
    (j.inProgress = none →
      (number.toNat ≤ j.lastSheet → exec f s = .next
        ({ s with jobs := s.jobs.set i passed, badHeaders := min (s.badHeaders + 1) 4294967295 }).settled) ∧
      (j.lastSheet < number.toNat → 16384 ≤ s.recordsInUse → exec f s = .next
        (({ s with jobs := s.jobs.set i passed }).raiseAlert (intakeAlert .recordShort i j.account number.toNat)).settled) ∧
      (j.lastSheet < number.toNat → s.recordsInUse < 16384 →
        let outside := j.winFirst ≤ j.winLast ∧ (number.toNat < j.winFirst ∨ j.winLast < number.toNat)
        let classValid := ∃ c : Fin 16, cls.toNat = c ∧ s.rates[c].valid = true
        let formatGood := (sides = 1 ∨ sides = 2) ∧ length ≠ 0
        let damaged := min (j.damaged + 1) 4294967295
        let taken := fun (cond : SheetCond) (n : Nat) => { s with jobs := s.jobs.set i { passed with
          lastSheet := number.toNat
          records := j.records ++ [(⟨number.toNat, cls.toNat, sides.toNat, min covA.toNat 1000,
            if sides = 1 then 0 else min covB.toNat 1000, length.toNat, none, 0, cond⟩ : SheetRecord)]
          damaged := n
          send := if cond = .arriving then j.send else j.movedPast j.records.length j.send
          confirm := if cond = .arriving then j.confirm else j.movedPast j.records.length j.confirm } }
        let bad := fun t : State => ({ t.raiseAlert (intakeAlert .sheetDamaged i j.account number.toNat) with
          badHeaders := min (s.badHeaders + 1) 4294967295 }).settled
        ((j.lane = none ∨ ∃ l, j.lane = some l ∧ s.offerable l = none ∧ keeps j.records.length) →
          (outside → exec f s = .next (taken .skipped j.damaged).settled) ∧
          (¬outside → ¬classValid → exec f s = .next (bad (taken (.damaged .cls) damaged))) ∧
          (¬outside → classValid → ¬formatGood → exec f s = .next (bad (taken (.damaged .format) damaged))) ∧
          (¬outside → classValid → formatGood → exec f s = .next (taken .arriving j.damaged).settled)) ∧
        ∀ l, j.lane = some l → s.offerable l = none → j.records = [] → j.send = ⟨j.copies, 0⟩ → j.confirm = ⟨j.copies, 0⟩ →
          j.passed / 4096 ≤ j.released →
          let gone := fun n : Nat => { s with jobs := s.jobs.set i { passed with lastSheet := number.toNat, damaged := n } }
          (outside → exec f s = .next (gone j.damaged).settled) ∧
          (¬outside → (¬classValid ∨ ¬formatGood) → exec f s = .next (bad (gone damaged)))))

/-- A DATA frame is dropped without a sheet in progress, changes nothing without payload, damages the sheet for LENGTH or OVERRUN, or is
stored and counted (R18 to R21, R33 to R35). At a bound job the cursors that stand on the damaged record move past it, and on the final
copy the first record of the list is passed and leaves it then, with the blocks wholly behind it (R42 to R44, R102); and where the sheet
at a starved lane's send cursor becomes SPOOLED, the lane offers it (R95, R102). No job waits for credit where blocks are taken or freed, a
frame that takes a block leaves the job with as much promise as its pool's refill mark, and no pool has a reservation where blocks are
freed. -/
def Obligations.DataIsStoredOrDamagesTheSheet : Prop :=
  ∀ (s : State) (tag seq : Word16) (payload : List Byte) (i : Slot), s.reaches tag i → seq = (s.job i).expected →
    let run := exec (.data tag seq payload) s
    let j := s.job i
    let p := payload.length
    let passed := { j with expected := seq + 1 }
    (j.inProgress = none → run = .next ({ s with jobs := s.jobs.set i passed }).settled) ∧
    (payload = [] → run = .next ({ s with jobs := s.jobs.set i passed }).settled) ∧
    ∀ rest rec, j.records = rest ++ [rec] → rec.cond = .arriving → 0 < p →
      let keeps := j.cursorsStand ∧ (j.confirm.copy ≠ j.copies ∨ j.confirm.pos = 0 ∧ rest ≠ [])
      let long := fun t : State => (t.raiseAlert (intakeAlert .sheetDamaged i j.account rec.number)).settled
      let overrun := fun t : State => ({ t.raiseAlert (intakeAlert .overrun i j.account rec.number) with
        overruns := min (s.overruns + 1) 4294967295 }).settled
      let ends := fun (k : DamageReason → Job) (free : List Nat) =>
        let t := fun reason => { s with sharedFree := free, jobs := s.jobs.set i (k reason) }
        (rec.length - rec.received < p → run = .next (long (t .length))) ∧
        (p ≤ rec.length - rec.received → 4096 * j.granted < j.spooled + p → run = .next (overrun (t .overrun)))
      let stored := fun chain : List Nat => ({ passed with
        spooled := j.spooled + p
        records := rest ++ [{ rec with
          received := rec.received + p
          place := if rec.place = none then some (chain.getD (j.spooled / 4096 - j.released) 0, j.spooled % 4096) else rec.place
          cond := if rec.received + p = rec.length then .spooled else .arriving }] } : Job)
      let filled := { s with mem := storeBytes j s.mem j.spooled payload, jobs := s.jobs.set i (stored j.chain) }
      (j.lane = none ∨ keeps → ends (fun reason => { passed with
        records := rest ++ [{ rec with cond := .damaged reason }], damaged := min (j.damaged + 1) 4294967295
        send := j.movedPast rest.length j.send, confirm := j.movedPast rest.length j.confirm }) s.sharedFree) ∧
      (j.lane ≠ none → rest = [] → j.send = ⟨j.copies, 0⟩ → j.confirm = ⟨j.copies, 0⟩ → s.waitList = [] →
        (∀ q, (s.pool q).reserved = false) →
        let freed := min j.chain.length ((j.passed + rec.received) / 4096 - j.released)
        ends (fun _ => { passed with
          records := [], damaged := min (j.damaged + 1) 4294967295, passed := j.passed + rec.received
          chain := j.chain.drop freed, released := j.released + freed }) (s.sharedFree ++ j.chain.take freed)) ∧
      (p ≤ rec.length - rec.received → j.spooled + p ≤ 4096 * j.granted →
        (rec.received + p < rec.length ∨ (j.state = .queued → (s.pool j.pool).ready = []) ∧
          (j.lane = none ∨ ∃ l, j.lane = some l ∧ j.cursorsStand ∧ (j.confirm.copy ≠ j.copies ∨ j.confirm.pos = 0) ∧ s.offerable l = none ∧
            (j.send.pos ≠ rest.length ∨ j.state ≠ .printing ∨ (s.lane l).state ≠ .bound ∨ (s.lane l).offer ≠ none))) →
        (j.spooled + p ≤ 4096 * j.allocated → run = .next filled.settled) ∧
        ∀ b free, 4096 * j.allocated < j.spooled + p → j.spooled + p ≤ 4096 * (j.allocated + 1) → s.waitList = [] →
          max ((s.pool j.pool).allowance / 2) 1 ≤ j.promised + j.promisedShared - 1 →
          let grown := { stored (j.chain ++ [b]) with allocated := j.allocated + 1, chain := j.chain ++ [b] }
          let mem := storeBytes { j with chain := j.chain ++ [b] } s.mem j.spooled payload
          (j.promised = 0 → s.sharedFree = b :: free → run = .next
            ({ s with mem := mem, sharedFree := free
                      jobs := s.jobs.set i { grown with promisedShared := j.promisedShared - 1 } }).settled) ∧
          (0 < j.promised → (s.pool j.pool).free = b :: free → run = .next
            ({ s with mem := mem, pools := s.pools.set j.pool { s.pool j.pool with free := free }
                      jobs := s.jobs.set i { grown with promised := j.promised - 1 } }).settled)) ∧
      ∀ l, rec.received + p = rec.length → j.spooled + p ≤ 4096 * j.granted → j.spooled + p ≤ 4096 * j.allocated →
        j.cursorsStand → (j.confirm.copy ≠ j.copies ∨ j.confirm.pos = 0) → j.send.pos = rest.length → s.mayOffer l i rec →
        run = .next (filled.withOffer l i j.send.copy rec).settled

/-- A CLOSE closes intake and returns the promise; a job closed with an empty list becomes DONE and is released (R22, R41, R67, R68), and
leaves its lane, which is READY again, where it is bound with nothing in flight (R56); a bound job's lane starved at the end of a copy that
is not the final one goes on to the next copy, whose first sheet it offers, and elsewhere the cursors stay (R90, R91, R102); and a QUEUED
job, now sendable, is bound to the lane that has waited longest in its pool, which offers its next sheet (R53 to R55, R93, R95). The job
has no sheet in progress, and no other job waits for credit. -/
def Obligations.CloseReturnsThePromise : Prop :=
  ∀ (s : State) (tag seq : Word16) (i : Slot), s.reaches tag i → seq = (s.job i).expected → (s.job i).inProgress = none →
    (∀ k ∈ s.waitList, k = i) →
    let j := s.job i
    let closed := { j with
      expected := seq + 1, intakeOpen := false, granted := j.allocated, promised := 0, promisedShared := 0 }
    let done := Notice.done i j.tag ⟨j.confirmed, j.spoiled, j.damaged, j.charge⟩
    (j.records ≠ [] → (j.confirm.copy ≠ j.copies ∨ j.confirm.pos < j.records.length) →
      (j.state = .queued → (s.pool j.pool).ready = []) →
      (j.lane = none ∨ ∃ l, j.lane = some l ∧ s.offerable l = none ∧ closed.cursorMove j.send = none ∧
        (closed.cursorMove j.confirm = none ∨ j.confirm.behind j.send = false) ∧ (j.confirm.copy ≠ j.copies ∨ j.confirm.pos = 0)) →
      exec (.close tag seq) s = .next ({ s with waitList := [], jobs := s.jobs.set i closed }).settled) ∧
    (j.records = [] → j.lane = none → (j.state = .queued ∨ j.state = .held) → j.pendingHold = none → j.pendingCancel = none →
      (∀ p, (s.pool p).reserved = false) → (s.pool j.pool).ready = [] → ∃ t, exec (.close tag seq) s = .next t ∧ Released s t i done) ∧
    (∀ l, j.lane = some l → j.records = [] → j.send.pos = 0 → j.confirm.pos = 0 → j.state = .printing → j.pendingHold = none →
      j.pendingCancel = none → (s.lane l).state = .bound → (s.lane l).offer = none → (s.lane l).inflight = [] →
      (s.lane l).pendingSet = none → (s.lane l).current.enable = true → (∀ p, (s.pool p).reserved = false) →
      (∀ p, (s.pool p).queueOrder = []) → ∃ t, exec (.close tag seq) s = .next t ∧ ReleasedFromLane s t i l done) ∧
    (∀ l rec, j.records.head? = some rec → rec.cond = .spooled → j.send.pos = j.records.length → j.send.copy < j.copies →
      (j.confirm = j.send ∨ closed.cursorMove j.confirm = none ∧ (j.confirm.copy ≠ j.copies ∨ j.confirm.pos = 0)) →
      s.mayOffer l i rec →
      let next : Cursor := ⟨j.send.copy + 1, 0⟩
      exec (.close tag seq) s = .next ((({ s with
        waitList := [], jobs := s.jobs.set i { closed with
          send := next, confirm := if j.confirm = j.send then next else j.confirm } } : State).withOffer l i next.copy rec)).settled) ∧
    ∀ (l : LaneNo) (rest : List LaneNo) (rec : SheetRecord), j.lane = none → j.state = .queued → (s.pool j.pool).ready = l :: rest → l ∉ rest →
      (∀ c, i ∈ (s.pool j.pool).classes[c] ↔ c = j.prio) →
      (∀ m ∈ (s.pool j.pool).queueOrder, m ≠ i → (s.job m).sendable = false) → j.recordAt j.send = some rec → rec.cond = .spooled →
      (closed.cursorMove j.confirm = none ∨ j.confirm.behind j.send = false) → (j.confirm.copy ≠ j.copies ∨ j.confirm.pos = 0) →
      let r := s.lane l
      let a := s.account j.account
      let x := s.scaled rec j.account
      r.current.pool = j.pool → r.reoffer = none → r.abort = false → 0 < r.cap.depth → r.cap.takes rec = true →
      -(a.limit : Int) ≤ a.balance - (a.pending + estimateOf x) → exec (.close tag seq) s = .next
        ({ s.notice (.dispatched i l) with
          waitList := []
          jobs := s.jobs.set i { closed with state := .printing, lane := some l }
          lanes := s.lanes.set l { r with
            state := .bound, job := some i, inflight := [], retained := none, timeouts := 0, seq := r.seq + 1
            offer := some ⟨j.send.copy, rec.number, r.seq, j.account, x, estimateOf x⟩
            answer := some (r.current.answer * 1000) }
          pools := s.pools.set j.pool { s.pool j.pool with
            ready := rest, classes := (s.pool j.pool).classes.set j.prio ((s.pool j.pool).classes[j.prio].filter (· ≠ i)) }
          accounts := s.accounts.set j.account { a with pending := a.pending + estimateOf x }
          sent := s.sent ++ [Sent.link l (LinkFrame.offer r.seq i j.send.copy rec.number rec.cls rec.sides rec.length
            ((rec.length + (r.cap.chunk - 1)) / r.cap.chunk)).bytes] }).settled

/-- A CANCEL frame closes intake and releases a job with nothing in flight at once as cancelled (R23, R60, R68): a QUEUED or HELD one, and
a PRINTING one whose lane is starved at the end of a copy that is not the final one, and then READY again (R102). A job with sheets in
flight becomes CANCELLING while its lane sends ABORT, and a pending JOB-HOLD is superseded (R61, R86). That the closing of intake at a
cancel sends no OFFER first, though it moves the cursors, is the model's deduction (log entry 10). The job has no sheet in progress and
does not complete as its intake closes, no other job waits for credit, and no pool has a reservation where the job is released; no lane is
ready where the job is not bound, and no job waits for a lane where it leaves one. -/
def Obligations.CancelFrameReleasesTheJob : Prop :=
  ∀ (s : State) (tag seq : Word16) (i : Slot), s.reaches tag i → seq = (s.job i).expected → (s.job i).inProgress = none →
    (∀ k ∈ s.waitList, k = i) → (s.job i).records ≠ [] →
    let j := s.job i
    let run := exec (.cancel tag seq) s
    let closed := { j with
      expected := seq + 1, intakeOpen := false, granted := j.allocated, promised := 0, promisedShared := 0 }
    let cancelled := Notice.cancelled i j.tag ⟨j.confirmed, j.spoiled, j.damaged, j.charge⟩
    (j.lane = none → s.noLaneReady → (∀ p, (s.pool p).reserved = false) → (j.state = .queued ∨ j.state = .held) →
      j.pendingHold = none → j.pendingCancel = none → (j.confirm.copy ≠ j.copies ∨ j.confirm.pos < j.records.length) →
      ∃ t, run = .next t ∧ Released s t i cancelled) ∧
    (∀ l rec, j.lane = some l → j.records.head? = some rec → rec.cond = .spooled → j.send.pos = j.records.length →
      j.send.copy < j.copies → j.confirm = j.send → j.state = .printing → j.pendingHold = none → j.pendingCancel = none →
      (s.lane l).state = .bound → (s.lane l).offer = none → (s.lane l).inflight = [] → (s.lane l).pendingSet = none →
      (s.lane l).current.enable = true → (∀ p, (s.pool p).reserved = false) → (∀ p, (s.pool p).queueOrder = []) →
      ∃ t, run = .next t ∧ ReleasedFromLane s t i l cancelled) ∧
    ∀ l, j.lane = some l → (j.state = .printing ∨ j.state = .holding) → ((s.lane l).offer ≠ none ∨ (s.lane l).inflight ≠ []) →
      closed.cursorMove j.send = none → (closed.cursorMove j.confirm = none ∨ j.confirm.behind j.send = false) →
      (j.confirm.copy ≠ j.copies ∨ j.confirm.pos = 0) →
      let u := { s with
        waitList := [], jobs := s.jobs.set i { closed with state := .cancelling, pendingHold := none, pendingCancel := none }
        lanes := s.lanes.set l { s.lane l with
          abort := true, reoffer := none, timeouts := 0, answer := some ((s.lane l).current.answer * 1000) }
        sent := s.sent ++ [Sent.link l LinkFrame.abort.bytes] }
      (j.pendingHold = none → run = .next u.settled) ∧
      ∀ p, j.pendingHold = some p → s.queue.resetTaken = false → ∃ t, run = .next t ∧ Concludes u t [⟨p, .superseded, 0, 0⟩]

/-! ## Spool memory -/

/-- Only DATA stores to spool memory, and a DATA frame stores to the addresses its payload is given in the job's chain and to no other
(R35): every other byte reads as before. A byte written reads back, and no other byte changes. -/
def Obligations.OnlyDataStoresAndOnlyItsBytes : Prop :=
  (∀ (c : Instr) (s t : State), (∀ tag seq payload, c ≠ .data tag seq payload) → exec c s = .next t → t.mem = s.mem) ∧
  (∀ (tag seq : Word16) (payload : List Byte) (s t u v : State) (i : Slot), exec (.data tag seq payload) s = .next t →
    s.begin.classify tag = (u, some i) → u.sequence i seq = (v, true) →
    let w := State.allocateMany ((v.job i).blocksFor payload.length) v i
    ∀ a, (∀ k < payload.length, storeAddress (w.job i) ((w.job i).spooled + k) ≠ a) → Memory.read t.mem a = Memory.read s.mem a) ∧
  (∀ (tag seq : Word16) (payload : List Byte) (s t u : State), exec (.data tag seq payload) s = .next t →
    (s.begin.classify tag = (u, none) ∨ ∃ i v, s.begin.classify tag = (u, some i) ∧ u.sequence i seq = (v, false)) →
    t.mem = s.mem) ∧
  ∀ (m : List Host.Cell) (a b : Nat) (v : Byte), Memory.wf m = true →
    Memory.read (Memory.write m a v) b = if b = a then v else Memory.read m b

/-! ## Lane links -/

/-- HELLO sets the capability, clamped (R75, R76): a lane in TRAINING enters READY or OFFLINE and one in READY or OFFLINE stays there.
A lane that enters READY with no other lane waiting is bound at once to the first sendable job of its pool in queue order (R53, R55),
and offers the sheet at the job's send cursor (R93, R95, R106); with no job queued it waits. The sheet passes the lane's capability and
the account's funds. -/
def Obligations.HelloSetsTheCapability : Prop :=
  ∀ (s : State) (l : LaneNo) (chunk media : Word16) (duplex : Bool) (depth : Byte) (k : Nat), s.resetLow = false →
    8 ≤ k → k ≤ 14 → (2 ^ k ≤ chunk.toNat ∨ k = 8) → (chunk.toNat < 2 ^ (k + 1) ∨ k = 14) →
    let run := exec (.hello l chunk media duplex depth) s
    let r := s.lane l
    let p := r.current.pool
    let heard := { r with cap := ⟨2 ^ k, media, duplex, max 1 (min 15 depth.toNat)⟩, silence := some (r.current.silence * 1000) }
    (r.state = .training → r.current.enable = true → (s.pool p).queueOrder = [] → run = .next
      ({ s with lanes := s.lanes.set l { heard with state := .ready, hail := none }
                pools := s.pools.set p { s.pool p with ready := (s.pool p).ready ++ [l] } }).settled) ∧
    (r.state = .training → r.current.enable = false → run = .next
      ({ s with lanes := s.lanes.set l { heard with state := .offline, hail := none } }).settled) ∧
    ((r.state = .ready ∨ r.state = .offline) → run = .next ({ s with lanes := s.lanes.set l heard }).settled) ∧
    ∀ (i : Slot) (rec : SheetRecord) (before after : List Slot), r.state = .training → r.current.enable = true → r.reoffer = none →
      r.abort = false → (s.pool p).ready = [] → (s.pool p).queueOrder = before ++ i :: after →
      (∀ m ∈ before, (s.job m).sendable = false) → (s.job i).state = .queued → (s.job i).pool = p →
      (s.job i).recordAt (s.job i).send = some rec → rec.cond = .spooled →
      ((s.job i).cursorMove (s.job i).confirm = none ∨ (s.job i).confirm.behind (s.job i).send = false) →
      ((s.job i).confirm.copy ≠ (s.job i).copies ∨ (s.job i).confirm.pos = 0) →
      media.getLsbD rec.cls = true → (rec.sides = 2 → duplex = true) →
      let j := s.job i
      let a := s.account j.account
      let x := s.scaled rec j.account
      let funded := -(a.limit : Int) ≤ a.balance - (a.pending + estimateOf x)
      funded → run = .next
        ({ s.notice (.dispatched i l) with
          lanes := s.lanes.set l { heard with
            state := .bound, job := some i, hail := none, inflight := [], retained := none, timeouts := 0, seq := r.seq + 1
            offer := some ⟨j.send.copy, rec.number, r.seq, j.account, x, estimateOf x⟩
            answer := some (r.current.answer * 1000) }
          jobs := s.jobs.set i { j with state := .printing, lane := some l }
          pools := s.pools.set p { s.pool p with
            classes := (s.pool p).classes.set j.prio ((s.pool p).classes[j.prio].filter (· ≠ i)) }
          accounts := s.accounts.set j.account { a with pending := a.pending + estimateOf x }
          sent := s.sent ++ [Sent.link l (LinkFrame.offer r.seq i j.send.copy rec.number rec.cls rec.sides rec.length
            ((rec.length + (2 ^ k - 1)) / 2 ^ k)).bytes] }).settled

/-- PROCEED makes the offer the last in-flight entry, sends every chunk of the sheet in order and moves the send cursor past the
sheet-copy (R97, R98). The list is then full, so no other offer follows, and the cursors stand still where they then are. -/
def Obligations.ProceedPutsTheSheetInFlight : Prop :=
  ∀ (s : State) (l : LaneNo) (i : Slot) (o : Offer) (rec : SheetRecord), s.resetLow = false → (s.lane l).state = .bound →
    (s.lane l).abort = false → (s.lane l).offer = some o → (s.lane l).job = some i →
    (s.job i).recordOf o.sheet = some rec → (s.lane l).cap.depth ≤ (s.lane l).inflight.length + 1 →
    (s.job i).intakeOpen = true → ((s.job i).confirm.copy ≠ (s.job i).copies ∨ (s.job i).confirm.pos = 0) →
    let r := s.lane l
    let j := s.job i
    let send : Cursor := { j.send with pos := j.send.pos + 1 }
    j.cursorMove send = none → j.cursorMove j.confirm = none →
    let size := r.cap.chunk
    let chunk := fun k => LinkFrame.chunk o.seq k (s.sheetBytes j rec (k * size) (min size (rec.length - k * size)))
    exec (.proceed l o.seq) s = .next
      ({ s with
        lanes := s.lanes.set l { r with
          offer := none, retained := none, answer := none, timeouts := 0, silence := some (r.current.silence * 1000)
          inflight := r.inflight ++ [(⟨o.seq, o.copy, o.sheet, o.account, o.x, o.estimate⟩ : InFlight)] }
        jobs := s.jobs.set i { j with send := send }
        sent := s.sent ++ (List.range ((rec.length + (size - 1)) / size)).map fun k => Sent.link l (chunk k).bytes }).settled

/-- WAIT, MEDIA and REFUSE withdraw the offer and lower the pending sum by its estimate (R99 to R101): WAIT and MEDIA retain it, WAIT
starts the re-offer timer of a PRINTING job, MEDIA stops the lane with its alert, and REFUSE holds the job with its alert; a HOLDING
job with nothing left in flight becomes HELD and leaves the lane (R50), and that the bits of the set its JOB-HOLD then reports that no
reason is named for are 0 is the model's choice (log entry 21). No job of the account holds FUNDS. -/
def Obligations.AnswersWithdrawTheOffer : Prop :=
  ∀ (s : State) (l : LaneNo) (i : Slot) (o : Offer), s.resetLow = false → (s.lane l).state = .bound → (s.lane l).abort = false →
    (s.lane l).offer = some o → (s.lane l).job = some i → (s.job i).lane = some l →
    (∀ k, (s.job k).account = o.account → (s.job k).reasons.funds = false) →
    let r := s.lane l
    let j := s.job i
    let a := s.account o.account
    let dropped : Lane := { r with offer := none, answer := none, timeouts := 0, silence := some (r.current.silence * 1000) }
    let kept : Lane := { dropped with retained := some (⟨o.copy, o.sheet, o.seq⟩ : Retained) }
    let u := fun (r : Lane) (j : Job) => ({ s with
      accounts := s.accounts.set o.account { a with pending := a.pending - o.estimate }
      lanes := s.lanes.set l r, jobs := s.jobs.set i j } : State)
    let stays := j.state = .holding ∧ r.inflight ≠ []
    (j.state = .printing → exec (.wait l o.seq) s = .next (u { kept with reoffer := some r.current.reoffer } j).settled) ∧
    (stays → exec (.wait l o.seq) s = .next (u kept j).settled) ∧
    ((j.state = .printing ∨ stays) → exec (.media l o.seq) s = .next
      ((u { kept with state := .mediaWait, reoffer := none } j).raiseAlert (sheetAlert .media l i j.account o.copy o.sheet)).settled) ∧
    (j.state = .printing → r.inflight ≠ [] → exec (.refuse l o.seq) s = .next
      ((u { dropped with retained := none } { j with state := .holding, reasons := { j.reasons with refused := true } }).raiseAlert
        (sheetAlert .refused l i j.account o.copy o.sheet)).settled) ∧
    (stays → exec (.refuse l o.seq) s = .next
      ((u { dropped with retained := none } { j with reasons := { j.reasons with refused := true } }).raiseAlert
        (sheetAlert .refused l i j.account o.copy o.sheet)).settled) ∧
    ∀ p, j.state = .holding → r.inflight = [] → j.pendingHold = some p → r.pendingSet = none → r.current.enable = true →
      s.queue.resetTaken = false → (∀ q, (s.pool q).queueOrder = []) →
      let q := r.current.pool
      ∃ t, exec (.wait l o.seq) s = .next t ∧
        Concludes { (u { dropped with job := none, retained := none, reoffer := none, state := .ready }
            { j with state := .held, pendingHold := none, lane := none }).notice (.held i j.tag j.reasons) with
          pools := s.pools.set q { s.pool q with ready := (s.pool q).ready ++ [l] } } t
        [⟨p, .done, BitVec.ofNat 32 (reasonsCode j.reasons), 0⟩]

/-- OUT confirms the entries from the head up to the one that it names: the accounts are debited one entry after another, the lane
meters and the job totals rise, and the confirm cursor moves (R104, R105, R134, R147); on the final copy the record that it passes
leaves the list, and the blocks wholly behind it return to the shared free queue (R42 to R44); the last confirmation of the final copy
of a closed job releases it as DONE, and its lane is READY again (R67, R68). No job of those accounts holds FUNDS, the cursors stand
still where they then are, and no offer follows. -/
def Obligations.OutConfirmsTheHeadEntry : Prop :=
  ∀ (s : State) (l : LaneNo) (i : Slot), s.resetLow = false →
    ((s.lane l).state = .bound ∨ (s.lane l).state = .mediaWait) → (s.lane l).job = some i → (s.job i).lane = some l →
    let r := s.lane l
    let j := s.job i
    let sides := fun rec : SheetRecord => if rec.sides = 2 then [rec.covA, rec.covB] else [rec.covA]
    let colour := fun rec : SheetRecord => (sides rec).countP fun c => 0 < c
    let mono := fun rec : SheetRecord => (sides rec).countP fun c => c = 0
    let metered := fun (rest : List InFlight) (n c m : Nat) => { r with
      inflight := rest, silence := some (r.current.silence * 1000), sheetsOut := min (r.sheetsOut + n) 4294967295
      colourSides := min (r.colourSides + c) 4294967295, monoSides := min (r.monoSides + m) 4294967295 }
    let noOffer := fun rest : List InFlight =>
      j.state = .printing ∧ (r.offer ≠ none ∨ r.state = .mediaWait) ∨ j.state = .holding ∧ rest ≠ [] ∨ j.state = .cancelling
    (∀ (entries : List (InFlight × SheetRecord)) (last : InFlight) (rest : List InFlight),
      r.inflight = entries.map (·.1) ++ rest → (entries.map (·.1)).getLast? = some last →
      (∀ e ∈ (entries.map (·.1)).dropLast, e.seq ≠ last.seq) → (∀ e ∈ entries, j.recordOf e.1.sheet = some e.2) →
      (∀ e ∈ entries, ∀ k, (s.job k).account = e.1.account → (s.job k).reasons.funds = false) →
      j.confirm.copy ≠ j.copies → j.cursorMove j.send = none →
      (∀ d, d < entries.length → j.cursorMove { j.confirm with pos := j.confirm.pos + d + 1 } = none) → noOffer rest →
      let debited := fun (t : State) (e : InFlight) => t.modAccount e.account fun a => a.debit e.x e.estimate
      let charges := (entries.foldl (fun (q : State × Nat) (e : InFlight × SheetRecord) =>
        (debited q.1 e.1, q.2 + (q.1.account e.1.account).chargeFor e.1.x)) (s, 0)).2
      exec (.out l last.seq) s = .next ({ s with
        accounts := (entries.foldl (fun (t : State) (e : InFlight × SheetRecord) => debited t e.1) s).accounts
        lanes := s.lanes.set l (metered rest entries.length (entries.map fun e : InFlight × SheetRecord => colour e.2).sum
          (entries.map fun e : InFlight × SheetRecord => mono e.2).sum)
        jobs := s.jobs.set i { j with
          confirm := { j.confirm with pos := j.confirm.pos + entries.length }
          confirmed := min (j.confirmed + entries.length) 4294967295
          charge := min (j.charge + charges) 281474976710655 } }).settled) ∧
    ∀ (e : InFlight) (rest : List InFlight) (rec : SheetRecord), r.inflight = e :: rest → j.recordOf e.sheet = some rec →
      e.x ≤ 52428000000 → (s.account e.account).residue < 100000 →
      (∀ k, (s.job k).account = e.account → (s.job k).reasons.funds = false) →
      let a := s.account e.account
      let n := (e.x + a.residue) / 100000
      let a' := { a with
        pending := a.pending - e.estimate, balance := max (a.balance - n) (-549755813888), residue := (e.x + a.residue) % 100000
        periodSheets := min (a.periodSheets + 1) 4294967295, periodCharge := min (a.periodCharge + n) 281474976710655 }
      let r' := metered rest 1 (colour rec) (mono rec)
      let confirm : Cursor := { j.confirm with pos := j.confirm.pos + 1 }
      let j' := { j with
        confirm := confirm, confirmed := min (j.confirmed + 1) 4294967295, charge := min (j.charge + n) 281474976710655 }
      (j.confirm.copy ≠ j.copies → j.cursorMove confirm = none → j.cursorMove j.send = none → noOffer rest →
        exec (.out l e.seq) s = .next ({ s with
          accounts := s.accounts.set e.account a', lanes := s.lanes.set l r', jobs := s.jobs.set i j' }).settled) ∧
      (∀ others, j.confirm = ⟨j.copies, 0⟩ → j.records = rec :: others → others ≠ [] → 0 < j.send.pos → j.cursorMove confirm = none →
        j.cursorMove j.send = none → noOffer rest → s.waitList = [] → (∀ p, (s.pool p).reserved = false) →
        let freed := min j.chain.length ((j.passed + rec.received) / 4096 - j.released)
        exec (.out l e.seq) s = .next ({ s with
          accounts := s.accounts.set e.account a', lanes := s.lanes.set l r', sharedFree := s.sharedFree ++ j.chain.take freed
          jobs := s.jobs.set i { j' with
            records := others, confirm := j.confirm, send := { j.send with pos := j.send.pos - 1 }
            passed := j.passed + rec.received, chain := j.chain.drop freed, released := j.released + freed } }).settled) ∧
      (j.state = .printing → j.intakeOpen = false → j.confirm.copy = j.copies → j.records.length = j.confirm.pos + 1 →
        j.send = ⟨j.copies, j.records.length⟩ → rest = [] → r.offer = none → r.state = .bound → r.pendingSet = none →
        r.current.enable = true → s.waitList = [] → (∀ q, (s.pool q).queueOrder = []) → j.pendingHold = none → j.pendingCancel = none →
        ∃ t, exec (.out l e.seq) s = .next t ∧ t.job i = Job.vacant ∧ (∀ k, k ≠ i → t.job k = s.job k) ∧
          t.accounts = s.accounts.set e.account a' ∧
          t.lanes = s.lanes.set l { r' with job := none, state := .ready, reoffer := none, retained := none } ∧
          (t.pool r.current.pool).ready = (s.pool r.current.pool).ready ++ [l] ∧
          t.notices = (s.notice (.done i j.tag ⟨j'.confirmed, j.spoiled, j.damaged, j'.charge⟩)).notices ∧
          t.queue = s.queue ∧ t.mem = s.mem ∧ t.sent = s.sent)

/-- A JAM settles the in-flight list at its last-out (R111, R113): with none, or one that no entry carries, every entry is spoiled; with
one that an entry carries, the entries from the head up to that one are confirmed first, the accounts debited and the meters and totals
raised as by an OUT (R104), and on the final copy the records and blocks that they pass are released (R42 to R44). The offer is
withdrawn and the pending sums fall by all that was held (R109, R110, R145); the lane is JAMMED with its last jam, its alert names the
first entry spoiled, and its escalation timer starts. A PRINTING job stays bound and is rewound to its confirm cursor (R112), a HOLDING
one becomes HELD with its JOB-HOLD complete, and a CANCELLING one is released as cancelled with its JOB-CANCEL complete (R114); as such
a job leaves, a held LANE-SET becomes the current set and completes (R83). That the JAM restarts the silence timer before that set applies,
and so with the old timeout, is the model's choice (log entry 20), and so is that the bits of the set that the JOB-HOLD reports that no
reason is named for are 0 (log entry 21). No job holds FUNDS, no lane is ready, the job does not
complete in the settling, and the cursors stand still where a clause says so. What the job's cursor has passed on its final copy has left
its list, and the counters are in their ranges, as every step keeps them. -/
def Obligations.JamSettlesWhatIsInFlight : Prop :=
  ∀ (s : State) (l : LaneNo) (i : Slot) (location : BitVec 4), s.resetLow = false →
    ((s.lane l).state = .bound ∨ (s.lane l).state = .mediaWait) → (s.lane l).job = some i → (s.job i).lane = some l →
    s.noLaneReady → (∀ k, (s.job k).reasons.funds = false) → (s.lane l).metersInRange → (s.job i).totalsInRange →
    let r := s.lane l
    let j := s.job i
    let new := (r.pendingSet.map (·.1)).getD r.current
    let sides := fun rec : SheetRecord => if rec.sides = 2 then [rec.covA, rec.covB] else [rec.covA]
    let colour := fun rec : SheetRecord => (sides rec).countP fun c => 0 < c
    let mono := fun rec : SheetRecord => (sides rec).countP fun c => c = 0
    let debited := fun (t : State) (e : InFlight × SheetRecord) => t.modAccount e.1.account fun a => a.debit e.1.x e.1.estimate
    let charges := fun entries : List (InFlight × SheetRecord) => (entries.foldl (fun (q : State × Nat) (e : InFlight × SheetRecord) =>
      (debited q.1 e, q.2 + (q.1.account e.1.account).chargeFor e.1.x)) (s, 0)).2
    let jammed := fun (t : State) (entries : List (InFlight × SheetRecord)) (rest : List InFlight) =>
      t.lane l = { t.lane l with
        state := .jammed, carrier := r.carrier, cap := r.cap, flags := r.flags, seq := r.seq, offer := none, abort := false
        inflight := [], hail := r.hail, silence := some (r.current.silence * 1000), answer := none, reoffer := none
        escalation := if r.current.escalation = 0 then r.escalation else some (r.current.escalation * 60000)
        crcErrors := r.crcErrors, ignored := r.ignored, sheetsOut := min (r.sheetsOut + entries.length) 4294967295
        colourSides := min (r.colourSides + (entries.map fun e : InFlight × SheetRecord => colour e.2).sum) 4294967295
        monoSides := min (r.monoSides + (entries.map fun e : InFlight × SheetRecord => mono e.2).sum) 4294967295
        sheetsSpoiled := min (r.sheetsSpoiled + rest.length) 4294967295
        jams := min (r.jams + 1) 4294967295, lastJam := some ⟨location, some (i, j.account)⟩ } ∧
      (∀ k, k ≠ l → t.lane k = s.lane k) ∧
      (∀ a, let c := (entries.foldl debited s).account a
        t.account a = { c with pending := c.pending - (((rest.filter (·.account = a)).map (·.estimate)).sum +
          ((r.offer.toList.filter (·.account = a)).map (·.estimate)).sum) }) ∧
      t.mem = s.mem ∧ t.sent = s.sent ∧
      ((∃ k : Fin 32, s.alerts[k] = none) → ∃ (k : Fin 32) (x : AlertRecord), t.alerts[k] = some x ∧ x.kind = .jam ∧ x.lane = some l ∧
        x.slot = some i ∧ x.account = some j.account ∧ x.copy = rest.head?.map (·.copy) ∧ x.sheet = rest.head?.map (·.sheet) ∧
        x.last = s.tick)
    let kept := fun t : State => (t.lane l).job = some i ∧ (t.lane l).current = r.current ∧ (t.lane l).pendingSet = r.pendingSet
    let stays := j.intakeOpen = true ∨
      j.cursorMove j.confirm = none ∧ j.records ≠ [] ∧ (j.confirm.copy ≠ j.copies ∨ j.confirm.pos < j.records.length)
    (∀ q, (∀ e ∈ r.inflight, e.seq ≠ q) → exec (.jam l (some q) location) s = exec (.jam l none location) s) ∧
    (j.state = .printing → stays → (j.confirm.copy ≠ j.copies ∨ j.confirm.pos = 0) →
      ∃ t, exec (.jam l none location) s = .next t ∧ jammed t [] r.inflight ∧ kept t ∧
        (t.job i).state = .printing ∧ (t.job i).lane = some l ∧ (t.job i).spoiled = min (j.spoiled + r.inflight.length) 4294967295 ∧
        (t.job i).confirmed = j.confirmed ∧ (t.job i).charge = j.charge ∧
        (j.cursorMove j.confirm = none →
          t.job i = { j with send := j.confirm, spoiled := min (j.spoiled + r.inflight.length) 4294967295 })) ∧
    (∀ (entries : List (InFlight × SheetRecord)) (last : InFlight) (rest : List InFlight), j.state = .printing →
      r.inflight = entries.map (·.1) ++ rest → (entries.map (·.1)).getLast? = some last →
      (∀ e ∈ (entries.map (·.1)).dropLast, e.seq ≠ last.seq) →
      (∀ d, d < entries.length → j.cursorMove { j.confirm with pos := j.confirm.pos + d + 1 } = none) →
      let settled := { j with
        confirmed := min (j.confirmed + entries.length) 4294967295, spoiled := min (j.spoiled + rest.length) 4294967295
        charge := min (j.charge + charges entries) 281474976710655 }
      (j.confirm.copy ≠ j.copies → (∀ e ∈ entries, j.recordOf e.1.sheet = some e.2) →
        let confirm : Cursor := { j.confirm with pos := j.confirm.pos + entries.length }
        ∃ t, exec (.jam l (some last.seq) location) s = .next t ∧ jammed t entries rest ∧ kept t ∧
          t.job i = { settled with confirm := confirm, send := confirm }) ∧
      ∀ others, j.confirm = ⟨j.copies, 0⟩ → j.records = entries.map (·.2) ++ others → others ≠ [] →
        (∀ e ∈ entries, e.2.number = e.1.sheet) → s.waitList = [] → (∀ p, (s.pool p).reserved = false) →
        let passed := j.passed + (entries.map fun e : InFlight × SheetRecord => e.2.received).sum
        let freed := min j.chain.length (passed / 4096 - j.released)
        ∃ t, exec (.jam l (some last.seq) location) s = .next t ∧ jammed t entries rest ∧ kept t ∧
          t.sharedFree = s.sharedFree ++ j.chain.take freed ∧
          t.job i = { settled with
            records := others, send := j.confirm, passed := passed, chain := j.chain.drop freed, released := j.released + freed }) ∧
    (s.queue.resetTaken = false → (∀ set p q, r.pendingSet = some (set, p) → (j.pendingHold = some q ∨ j.pendingCancel = some q) →
        ringPlace p ≠ ringPlace q) →
      let leaves := fun t : State => (t.lane l).job = none ∧ (t.lane l).current = new ∧ (t.lane l).pendingSet = none ∧
        (t.lane l).retained = none ∧ ∀ set p, r.pendingSet = some (set, p) → (t.entry p).cond = .complete .done 5 1
      (j.state = .holding → stays → (j.confirm.copy ≠ j.copies ∨ j.confirm.pos = 0) →
        ∃ t, exec (.jam l none location) s = .next t ∧ jammed t [] r.inflight ∧ leaves t ∧
          (t.job i).state = .held ∧ (t.job i).lane = none ∧ (t.job i).pendingHold = none ∧ (t.job i).reasons = j.reasons ∧
          (t.job i).spoiled = min (j.spoiled + r.inflight.length) 4294967295 ∧
          (∀ q, j.pendingHold = some q → (t.entry q).cond = .complete .done (BitVec.ofNat 32 (reasonsCode j.reasons)) 0) ∧
          (j.cursorMove j.confirm = none → s.notices.length + 2 ≤ 128 → .held i j.tag j.reasons ∈ t.notices)) ∧
      ∀ q, j.state = .cancelling → j.pendingHold = none → j.pendingCancel = some q →
        ∃ t, exec (.jam l none location) s = .next t ∧ jammed t [] r.inflight ∧ leaves t ∧ t.job i = Job.vacant ∧
          (t.entry q).cond = .complete .done 0 0 ∧
          (s.notices.length + 2 ≤ 128 → .cancelled i j.tag
            ⟨j.confirmed, min (j.spoiled + r.inflight.length) 4294967295, j.damaged, j.charge⟩ ∈ t.notices))

/-- STOPPED settles the in-flight list at its last-out (R111, R121): the entries from the head up to the one that it names are confirmed,
all others are spoiled, and the offer is withdrawn, as by a JAM; then the CANCELLING job is released as cancelled with its totals, its
JOB-CANCEL completes, and the lane is free for the next job (R61). A LANE-SET held at the lane becomes the current set then and completes
with DONE, the lane's state and 1 (R83); no record of the alert log waits for its relay where there is one, and that the state reported
is the one before the dispatch of the event is the model's deduction (log entry 13); that the frame restarts the silence timer before the
set applies, and so with the old timeout, is the model's choice (log entry 20). CLEAR returns a stopped lane to BOUND with its job,
and to READY or OFFLINE without one (R117, R119). No job waits for a lane or for credit, no job holds FUNDS where an account changes, the
cursors stand still where a last-out is carried, and the returned job has no sheet to offer. -/
def Obligations.StoppedAndClearEndTheStop : Prop :=
  ∀ (s : State) (l : LaneNo), s.resetLow = false → (∀ q, (s.pool q).queueOrder = []) →
    let r := s.lane l
    let p := r.current.pool
    let back := { r with escalation := none, silence := some (r.current.silence * 1000) }
    (∀ (i : Slot) (c : QueuePtr) (lastOut : Option Word16) (entries : List (InFlight × SheetRecord)) (rest : List InFlight),
      (r.state = .bound ∨ r.state = .mediaWait) → r.abort = true → r.job = some i → (s.job i).lane = some l →
      (s.job i).state = .cancelling → (s.job i).pendingCancel = some c → (s.job i).pendingHold = none → s.waitList = [] →
      s.queue.resetTaken = false → r.metersInRange → (s.job i).totalsInRange →
      (r.inflight = [] ∧ r.offer = none ∨ ∀ k, (s.job k).reasons.funds = false) →
      (∀ set q, r.pendingSet = some (set, q) → ringPlace q ≠ ringPlace c ∧
        ∀ (k : Fin 32) x, s.alerts[k] = some x → x.relayed = true) →
      let j := s.job i
      r.inflight = entries.map (·.1) ++ rest →
      (entries = [] ∧ (∀ q, lastOut = some q → ∀ e ∈ r.inflight, e.seq ≠ q) ∨
        ∃ last, (entries.map (·.1)).getLast? = some last ∧ lastOut = some last.seq ∧
          (∀ e ∈ (entries.map (·.1)).dropLast, e.seq ≠ last.seq) ∧
          (∀ d, d < entries.length → j.cursorMove { j.confirm with pos := j.confirm.pos + d + 1 } = none) ∧
          (j.confirm.copy ≠ j.copies ∧ (∀ e ∈ entries, j.recordOf e.1.sheet = some e.2) ∨
            j.confirm = ⟨j.copies, 0⟩ ∧ (∀ e ∈ entries, e.2.number = e.1.sheet) ∧ ∃ others, j.records = entries.map (·.2) ++ others)) →
      let sides := fun rec : SheetRecord => if rec.sides = 2 then [rec.covA, rec.covB] else [rec.covA]
      let colour := fun e : InFlight × SheetRecord => (sides e.2).countP fun c => 0 < c
      let mono := fun e : InFlight × SheetRecord => (sides e.2).countP fun c => c = 0
      let debited := fun (t : State) (e : InFlight × SheetRecord) => t.modAccount e.1.account fun a => a.debit e.1.x e.1.estimate
      let charges := (entries.foldl (fun (q : State × Nat) (e : InFlight × SheetRecord) =>
        (debited q.1 e, q.2 + (q.1.account e.1.account).chargeFor e.1.x)) (s, 0)).2
      let new := (r.pendingSet.map (·.1)).getD r.current
      let left := if r.state = .mediaWait then .mediaWait else if new.enable = true then .ready else .offline
      let totals : Totals := ⟨min (j.confirmed + entries.length) 4294967295, min (j.spoiled + rest.length) 4294967295, j.damaged,
        min (j.charge + charges) 281474976710655⟩
      ∃ t u, exec (.stopped l lastOut) s = .next t ∧
        Concludes u t (⟨c, .done, 0, 0⟩ :: match r.pendingSet with
          | some (_, q) => [⟨q, .done, BitVec.ofNat 32 (laneStateCode left), 1⟩]
          | none => []) ∧
        u.queue = s.queue ∧ u.notices = (s.notice (.cancelled i j.tag totals)).notices ∧
        u.noticeDrops = (s.notice (.cancelled i j.tag totals)).noticeDrops ∧
        t.job i = Job.vacant ∧ (∀ k, k ≠ i → t.job k = s.job k) ∧
        t.lanes = s.lanes.set l { back with
          escalation := r.escalation, job := none, abort := false, offer := none, inflight := [], answer := none, reoffer := none
          retained := none, current := new, pendingSet := none, state := left
          timeouts := if r.offer = none then r.timeouts else 0
          sheetsOut := min (r.sheetsOut + entries.length) 4294967295
          colourSides := min (r.colourSides + (entries.map colour).sum) 4294967295
          monoSides := min (r.monoSides + (entries.map mono).sum) 4294967295
          sheetsSpoiled := min (r.sheetsSpoiled + rest.length) 4294967295 } ∧
        (left = .ready → (t.pool new.pool).ready = (s.pool new.pool).ready ++ [l]) ∧
        (∀ a, let b := (entries.foldl debited s).account a
          t.account a = { b with pending := b.pending - (((rest.filter (·.account = a)).map (·.estimate)).sum +
            ((r.offer.toList.filter (·.account = a)).map (·.estimate)).sum) }) ∧
        t.mem = s.mem ∧ t.sent = s.sent) ∧
    ((r.state = .jammed ∨ r.state = .mediaWait) →
      (∀ i, r.job = some i → ((s.job i).state ≠ .printing ∨ ∀ rec, (s.job i).recordAt (s.job i).send = some rec → rec.cond ≠ .spooled) →
        exec (.clear l) s = .next ({ s with lanes := s.lanes.set l { back with state := .bound, timeouts := 0 } }).settled) ∧
      (r.job = none → r.current.enable = true → exec (.clear l) s = .next
        ({ s with lanes := s.lanes.set l { back with state := .ready }
                  pools := s.pools.set p { s.pool p with ready := (s.pool p).ready ++ [l] } }).settled) ∧
      (r.job = none → r.current.enable = false → exec (.clear l) s = .next
        ({ s with lanes := s.lanes.set l { back with state := .offline } }).settled))

/-- STATUS replaces the condition flags and raises the alert of each that turns on (R79), and where one STATUS turns on several, the
order of their alerts is the model's choice (log entry 20); a frame that Table 4.3 does not take, or with a bad kind or length, is
counted as ignored, and outside TRAINING it restarts the silence timer (R70, R72, R80, R84); one with a bad CRC is counted, and nothing
else (R70); a discarded upstream frame has no effect (R1, R174). -/
def Obligations.FramesNotTakenOnlyCount : Prop :=
  ∀ (s : State) (l : LaneNo), s.resetLow = false →
    let r := s.lane l
    let heard := if r.state = .training then r else { r with silence := some (r.current.silence * 1000) }
    let ignored := ({ s with lanes := s.lanes.set l { heard with ignored := min (r.ignored + 1) 4294967295 } } : State).settled
    let delivers := r.state = .bound ∨ r.state = .mediaWait
    exec .upstreamFrameDiscarded s = .next s.settled ∧
    (r.state ≠ .down →
      (∀ toner tray door, r.state ≠ .training →
        let turned := fun (k : AlertKind) (was now : Bool) (t : State) =>
          if was = false ∧ now = true then t.raiseAlert ⟨k, some l, r.job, r.job.map fun i => (s.job i).account, none, none, 0⟩ else t
        exec (.status l toner tray door) s = .next
          (turned .doorOpen r.flags.doorOpen door (turned .trayLow r.flags.trayLow tray (turned .tonerLow r.flags.tonerLow toner
            { s with lanes := s.lanes.set l { heard with flags := ⟨toner, tray, door⟩ } }))).settled) ∧
      (∀ toner tray door, r.state = .training → exec (.status l toner tray door) s = .next ignored) ∧
      (∀ chunk media duplex depth, (delivers ∨ r.state = .jammed) → exec (.hello l chunk media duplex depth) s = .next ignored) ∧
      (∀ q, (r.state ≠ .bound ∨ r.abort = true ∨ ∀ o, r.offer = some o → o.seq ≠ q) →
        exec (.proceed l q) s = .next ignored ∧ exec (.wait l q) s = .next ignored ∧ exec (.media l q) s = .next ignored ∧
          exec (.refuse l q) s = .next ignored) ∧
      (∀ q, (¬delivers ∨ ∀ e ∈ r.inflight, e.seq ≠ q) → exec (.out l q) s = .next ignored) ∧
      (∀ q location, ¬delivers → exec (.jam l q location) s = .next ignored) ∧
      (∀ q, (¬delivers ∨ r.abort = false) → exec (.stopped l q) s = .next ignored) ∧
      (r.state ≠ .jammed → r.state ≠ .mediaWait → exec (.clear l) s = .next ignored) ∧
      exec (.linkFrameDiscarded l .kindOrLength) s = .next ignored ∧
      exec (.linkFrameDiscarded l .crc) s = .next
        ({ s with lanes := s.lanes.set l { r with crcErrors := min (r.crcErrors + 1) 4294967295 } }).settled)

/-! ## Lane events and pins -/

/-- The carrier of a lane with no job to lose (R78): lost, the lane enters DOWN with every timer stopped, and a READY lane leaves its
ready-lane queue; present, a DOWN lane enters TRAINING with a HAIL, and another lane stays as it is. While RESET is low every command
but the pins' changes nothing, and the carrier inputs only take their levels (log entry 15); RESET rising, from low, runs the start-up
with the straps read (R179, R180), and so does the command of the rise where RESET was not seen low (log entry 15). The order in which
the start-up's HAILs stand among the frames sent is the model's choice (log entry 8). -/
def Obligations.CarrierAndResetPins : Prop :=
  (∀ (s : State) (l : LaneNo), s.resetLow = false →
    let r := s.lane l
    let p := r.current.pool
    let off := { r with carrier := false, hail := none, silence := none, answer := none, reoffer := none, escalation := none }
    ((r.state = .training ∨ r.state = .offline ∨ r.state = .down) → exec (.carrierLost l) s = .next
      ({ s with lanes := s.lanes.set l { off with state := .down } }).settled) ∧
    (r.state = .ready → exec (.carrierLost l) s = .next
      ({ s with lanes := s.lanes.set l { off with state := .down }
                pools := s.pools.set p { s.pool p with ready := (s.pool p).ready.filter (· ≠ l) } }).settled) ∧
    (r.state = .down → exec (.carrierPresent l) s = .next
      ({ s with
        lanes := s.lanes.set l { off with
          carrier := true, state := .training, flags := ⟨false, false, false⟩, offer := none, retained := none, timeouts := 0
          abort := false, inflight := [], hail := some 100 }
        sent := s.sent ++ [Sent.link l (LinkFrame.hail l s.station).bytes] }).settled) ∧
    (r.state ≠ .down → exec (.carrierPresent l) s = .next ({ s with lanes := s.lanes.set l { r with carrier := true } }).settled)) ∧
  (∀ s : State, exec .resetPinLow s = .next { s with resetLow := true }) ∧
  (∀ (s : State) (straps : Byte) (k : LaneNo),
    let t := State.startUp straps s.strapChanges (mapVector Lane.carrier s.lanes) s.mem s.sent s.pending
    exec (.resetPinRise straps) s = .next t ∧ t.resetLow = false ∧ t.station = straps ∧
      t.lane k = Lane.afterReset (s.lane k).carrier) ∧
  ∀ (s : State) (c : Instr) (k : LaneNo), s.resetLow = true →
    exec (.carrierLost k) s = .next { s with lanes := s.lanes.set k { s.lane k with carrier := false } } ∧
    exec (.carrierPresent k) s = .next { s with lanes := s.lanes.set k { s.lane k with carrier := true } } ∧
    ((∀ m, c ≠ .carrierLost m ∧ c ≠ .carrierPresent m) → (∀ x, c ≠ .resetPinRise x) → exec c s = .next s)

/-- The four ways to lose a lane with a job bound (R78, R84, R85, R86) all give up its work (R87, R122): every timer stops, every entry is
spoiled and the offer withdrawn, so that the pending sums fall by all that was held (R109, R110, R145); LANE-LOST is raised with the
number of entries and the first of them (R122, R153); the lane ends in TRAINING with its carrier present and else in DOWN. A PRINTING job
is QUEUED again at the front of its class, a HOLDING one becomes HELD with its notice and its JOB-HOLD complete, and both are rewound to
their confirm cursor (R112), and that the bits of the set that the JOB-HOLD reports that no reason is named for are 0 is the model's choice
(log entry 21); a CANCELLING one is released as cancelled with its totals and its JOB-CANCEL complete (R65). A LANE-SET held
at the lane becomes the current set as the job leaves, and completes with DONE, DOWN and 1 (R83). No job holds FUNDS, no lane is ready,
the job does not complete as it is rewound, and the counters are in their ranges, as every step keeps them. -/
def Obligations.LaneLossGivesUpTheWork : Prop :=
  ∀ (s : State) (l : LaneNo) (i : Slot) (f : Instr), s.resetLow = false →
    ((s.lane l).state = .bound ∨ (s.lane l).state = .mediaWait ∨ (s.lane l).state = .jammed) → (s.lane l).job = some i →
    (s.job i).lane = some l → s.noLaneReady → (∀ k, (s.job k).reasons.funds = false) → (s.lane l).metersInRange →
    (s.job i).totalsInRange →
    (f = .carrierLost l ∨ f = .silenceTimerExpiry l ∧ (s.lane l).silence ≠ none ∨
      f = .answerTimeout l ∧ (s.lane l).answer ≠ none ∧ (s.lane l).offer ≠ none ∧ (s.lane l).abort = false ∧
        2 ≤ (s.lane l).timeouts ∨
      f = .abortTimeout l ∧ (s.lane l).answer ≠ none ∧ (s.lane l).abort = true) →
    let r := s.lane l
    let j := s.job i
    let n := r.inflight.length
    let trains := f ≠ .carrierLost l ∧ r.carrier = true
    (s.queue.resetTaken = false ∨ r.pendingSet = none ∧ j.pendingHold = none ∧ j.pendingCancel = none) →
    (∀ set p q, r.pendingSet = some (set, p) → (j.pendingHold = some q ∨ j.pendingCancel = some q) → ringPlace p ≠ ringPlace q) →
    let named := fun x : AlertRecord => x.kind = .laneLost ∧ x.lane = some l ∧ x.slot = some i
    let lost := fun t : State =>
      t.lane l = { r with
        state := if trains then .training else .down, carrier := if f = .carrierLost l then false else r.carrier, job := none
        flags := if trains then ⟨false, false, false⟩ else r.flags
        current := (r.pendingSet.map (·.1)).getD r.current, pendingSet := none, offer := none, retained := none, timeouts := 0
        abort := false, inflight := [], hail := if trains then some 100 else none, silence := none, answer := none
        reoffer := none, escalation := none, sheetsSpoiled := min (r.sheetsSpoiled + n) 4294967295 } ∧
      (∀ k, k ≠ l → t.lane k = s.lane k) ∧
      t.sent = (if trains then s.sent ++ [Sent.link l (LinkFrame.hail l s.station).bytes] else s.sent) ∧ t.mem = s.mem ∧
      (∀ a, t.account a = { s.account a with pending := (s.account a).pending - r.heldOf a }) ∧
      (∀ set p, r.pendingSet = some (set, p) → (t.entry p).cond = .complete .done 0 1) ∧
      ((∀ (k : Fin 32) x, s.alerts[k] = some x → ¬named x) → (∃ k : Fin 32, s.alerts[k] = none) →
        ∃ (k : Fin 32) (x : AlertRecord), t.alerts[k] = some x ∧ x = ⟨.laneLost, some l, some i, some j.account,
          r.inflight.head?.map (·.copy), r.inflight.head?.map (·.sheet), s.tick, s.tick, 1, n, x.relayed⟩) ∧
      (∀ (k : Fin 32) x, s.alertsDistinct → s.alerts[k] = some x → named x → ∃ relayed, t.alerts[k] = some ⟨.laneLost, some l, some i,
        some j.account, r.inflight.head?.map (·.copy), r.inflight.head?.map (·.sheet), x.first, s.tick, min (x.count + 1) 255,
        min (x.lost + n) 65535, relayed⟩)
    let spoiled := min (j.spoiled + n) 4294967295
    let stays := j.intakeOpen = true ∨
      j.cursorMove j.confirm = none ∧ j.records ≠ [] ∧ (j.confirm.copy ≠ j.copies ∨ j.confirm.pos < j.records.length)
    let still := j.cursorMove j.confirm = none ∧ (j.confirm.copy ≠ j.copies ∨ j.confirm.pos = 0)
    (j.state = .printing → stays →
      ∃ t, exec f s = .next t ∧ lost t ∧ (t.job i).state = .queued ∧ (t.job i).lane = none ∧ (t.job i).spoiled = spoiled ∧
        (t.pool j.pool).classes[j.prio] = i :: (s.pool j.pool).classes[j.prio] ∧
        (still → t.job i = { j with state := .queued, lane := none, send := j.confirm, spoiled := spoiled })) ∧
    (j.state = .holding → stays →
      ∃ t, exec f s = .next t ∧ lost t ∧ (t.job i).state = .held ∧ (t.job i).lane = none ∧ (t.job i).spoiled = spoiled ∧
        (∀ q, j.pendingHold = some q → (t.entry q).cond = .complete .done (BitVec.ofNat 32 (reasonsCode j.reasons)) 0) ∧
        (still → t.job i = { j with state := .held, lane := none, pendingHold := none, send := j.confirm, spoiled := spoiled } ∧
          (s.notices.length + 2 ≤ 128 → .held i j.tag j.reasons ∈ t.notices))) ∧
    (∀ c, j.state = .cancelling → j.pendingHold = none → j.pendingCancel = some c →
      ∃ t, exec f s = .next t ∧ lost t ∧ t.job i = Job.vacant ∧ (t.entry c).cond = .complete .done 0 0 ∧
        (s.notices.length + 2 ≤ 128 → .cancelled i j.tag ⟨j.confirmed, spoiled, j.damaged, j.charge⟩ ∈ t.notices))

/-- The timers of a lane (Table 4.6): the hail timer hails again (R74); the silence timer sends a READY or OFFLINE lane back to TRAINING
(R84); the answer timer repeats the OFFER twice, unchanged (R85); the escalation timer raises JAM-ESCALATED once (R116); and the
re-offer timer is an offer opportunity, which makes the offer of R95, or holds the job for FUNDS or REFUSED (R77, R93, R96, R99). -/
def Obligations.TimersActAndOffersAreMade : Prop :=
  ∀ (s : State) (l : LaneNo), s.resetLow = false →
    let r := s.lane l
    let p := r.current.pool
    let trained := { r with
      state := .training, flags := ⟨false, false, false⟩, offer := none, retained := none, timeouts := 0, abort := false
      inflight := [], hail := some 100, silence := none, answer := none, reoffer := none, escalation := none }
    let named : Option (Slot × AccountNo) := r.lastJam.bind fun j => j.job
    let hailed := s.sent ++ [Sent.link l (LinkFrame.hail l s.station).bytes]
    (r.state = .training → r.hail ≠ none → exec (.hailTimerExpiry l) s = .next
      ({ s with lanes := s.lanes.set l { r with hail := some 100 }, sent := hailed }).settled) ∧
    (r.state = .offline → r.silence ≠ none → exec (.silenceTimerExpiry l) s = .next
      ({ s with lanes := s.lanes.set l trained, sent := hailed }).settled) ∧
    (r.state = .ready → r.silence ≠ none → exec (.silenceTimerExpiry l) s = .next
      ({ s with lanes := s.lanes.set l trained, sent := hailed
                pools := s.pools.set p { s.pool p with ready := (s.pool p).ready.filter (· ≠ l) } }).settled) ∧
    (r.state = .jammed → r.escalation ≠ none → exec (.escalationTimerExpiry l) s = .next
      (({ s with lanes := s.lanes.set l { r with escalation := none } }).raiseAlert
        ⟨.jamEscalated, some l, (named.map fun x : Slot × AccountNo => x.1), (named.map fun x : Slot × AccountNo => x.2), none, none, 0⟩).settled) ∧
    (∀ i o rec, r.answer ≠ none → r.offer = some o → r.abort = false → r.timeouts < 2 → r.job = some i →
      (s.job i).recordOf o.sheet = some rec →
      exec (.answerTimeout l) s = .next
        ({ s with
          lanes := s.lanes.set l { r with answer := some (r.current.answer * 1000), timeouts := r.timeouts + 1 }
          sent := s.sent ++ [Sent.link l (LinkFrame.offer o.seq i o.copy rec.number rec.cls rec.sides rec.length
            ((rec.length + (r.cap.chunk - 1)) / r.cap.chunk)).bytes] }).settled) ∧
    ∀ i rec, r.reoffer ≠ none → r.state = .bound → r.offer = none → r.abort = false → r.inflight.length < r.cap.depth →
      r.job = some i → (s.job i).state = .printing → (s.job i).recordAt (s.job i).send = some rec → rec.cond = .spooled →
      let j := s.job i
      let copy := j.send.copy
      let a := s.account j.account
      let x := s.scaled rec j.account
      let est := estimateOf x
      let takes := r.cap.media.getLsbD rec.cls = true ∧ (rec.sides = 2 → r.cap.duplex = true)
      let funded := -(a.limit : Int) ≤ a.balance - (a.pending + est)
      let idle := { r with reoffer := none }
      let offered := fun (q next : Word16) => ({ s with
        accounts := s.accounts.set j.account { a with pending := a.pending + est }
        lanes := s.lanes.set l { idle with
          offer := some ⟨copy, rec.number, q, j.account, x, est⟩, seq := next, timeouts := 0
          answer := some (r.current.answer * 1000) }
        sent := s.sent ++ [Sent.link l (LinkFrame.offer q i copy rec.number rec.cls rec.sides rec.length
          ((rec.length + (r.cap.chunk - 1)) / r.cap.chunk)).bytes] } : State).settled
      (takes → funded →
        (∀ q, r.retained = some ⟨copy, rec.number, q⟩ → exec (.reofferTimerExpiry l) s = .next (offered q r.seq)) ∧
        (r.retained = none → (∀ e ∈ r.inflight, e.seq ≠ r.seq) →
          exec (.reofferTimerExpiry l) s = .next (offered r.seq (r.seq + 1)))) ∧
      (takes → ¬funded → r.inflight ≠ [] → j.lane = some l → exec (.reofferTimerExpiry l) s = .next
        (({ s with
          lanes := s.lanes.set l idle
          jobs := s.jobs.set i { j with state := .holding, reasons := { j.reasons with funds := true } } }).raiseAlert
            (sheetAlert .accountHold l i j.account copy rec.number)).settled) ∧
      (¬takes → r.inflight ≠ [] → j.lane = some l → exec (.reofferTimerExpiry l) s = .next
        (({ s with
          lanes := s.lanes.set l { idle with retained := none }
          jobs := s.jobs.set i { j with state := .holding, reasons := { j.reasons with refused := true } } }).raiseAlert
            (sheetAlert .refused l i j.account copy rec.number)).settled)
end

