-- ==== Sys2Proof/Laws/State.lean ====
section
/-! SUPPORT. One lemma per field per named update: what the update leaves of a field it does not write. No later proof unfolds a
record update. -/

namespace Sys2Proof.Machine

variable (s : State)

/-! ## setJob -/

@[simp] theorem State.setJob_resetLow (i : Slot) (j : Job) : (s.setJob i j).resetLow = s.resetLow := rfl
@[simp] theorem State.setJob_straps (i : Slot) (j : Job) : (s.setJob i j).straps = s.straps := rfl
@[simp] theorem State.setJob_strapChanges (i : Slot) (j : Job) : (s.setJob i j).strapChanges = s.strapChanges := rfl
@[simp] theorem State.setJob_station (i : Slot) (j : Job) : (s.setJob i j).station = s.station := rfl
@[simp] theorem State.setJob_cache (i : Slot) (j : Job) : (s.setJob i j).cache = s.cache := rfl
@[simp] theorem State.setJob_unknownStream (i : Slot) (j : Job) : (s.setJob i j).unknownStream = s.unknownStream := rfl
@[simp] theorem State.setJob_closedStream (i : Slot) (j : Job) : (s.setJob i j).closedStream = s.closedStream := rfl
@[simp] theorem State.setJob_duplicates (i : Slot) (j : Job) : (s.setJob i j).duplicates = s.duplicates := rfl
@[simp] theorem State.setJob_badHeaders (i : Slot) (j : Job) : (s.setJob i j).badHeaders = s.badHeaders := rfl
@[simp] theorem State.setJob_overruns (i : Slot) (j : Job) : (s.setJob i j).overruns = s.overruns := rfl
@[simp] theorem State.setJob_mem (i : Slot) (j : Job) : (s.setJob i j).mem = s.mem := rfl
@[simp] theorem State.setJob_sharedFree (i : Slot) (j : Job) : (s.setJob i j).sharedFree = s.sharedFree := rfl
@[simp] theorem State.setJob_waitList (i : Slot) (j : Job) : (s.setJob i j).waitList = s.waitList := rfl
@[simp] theorem State.setJob_pools (i : Slot) (j : Job) : (s.setJob i j).pools = s.pools := rfl
@[simp] theorem State.setJob_lanes (i : Slot) (j : Job) : (s.setJob i j).lanes = s.lanes := rfl
@[simp] theorem State.setJob_rates (i : Slot) (j : Job) : (s.setJob i j).rates = s.rates := rfl
@[simp] theorem State.setJob_tiers (i : Slot) (j : Job) : (s.setJob i j).tiers = s.tiers := rfl
@[simp] theorem State.setJob_accounts (i : Slot) (j : Job) : (s.setJob i j).accounts = s.accounts := rfl
@[simp] theorem State.setJob_alerts (i : Slot) (j : Job) : (s.setJob i j).alerts = s.alerts := rfl
@[simp] theorem State.setJob_overflow (i : Slot) (j : Job) : (s.setJob i j).overflow = s.overflow := rfl
@[simp] theorem State.setJob_overflowCount (i : Slot) (j : Job) : (s.setJob i j).overflowCount = s.overflowCount := rfl
@[simp] theorem State.setJob_intakeMask (i : Slot) (j : Job) : (s.setJob i j).intakeMask = s.intakeMask := rfl
@[simp] theorem State.setJob_tick (i : Slot) (j : Job) : (s.setJob i j).tick = s.tick := rfl
@[simp] theorem State.setJob_queue (i : Slot) (j : Job) : (s.setJob i j).queue = s.queue := rfl
@[simp] theorem State.setJob_notices (i : Slot) (j : Job) : (s.setJob i j).notices = s.notices := rfl
@[simp] theorem State.setJob_noticeDrops (i : Slot) (j : Job) : (s.setJob i j).noticeDrops = s.noticeDrops := rfl
@[simp] theorem State.setJob_noticeAddr (i : Slot) (j : Job) : (s.setJob i j).noticeAddr = s.noticeAddr := rfl
@[simp] theorem State.setJob_sent (i : Slot) (j : Job) : (s.setJob i j).sent = s.sent := rfl
@[simp] theorem State.setJob_pending (i : Slot) (j : Job) : (s.setJob i j).pending = s.pending := rfl
@[simp] theorem State.setJob_todo (i : Slot) (j : Job) : (s.setJob i j).todo = s.todo := rfl

/-! ## modJob -/

@[simp] theorem State.modJob_resetLow (i : Slot) (f : Job → Job) : (s.modJob i f).resetLow = s.resetLow := rfl
@[simp] theorem State.modJob_straps (i : Slot) (f : Job → Job) : (s.modJob i f).straps = s.straps := rfl
@[simp] theorem State.modJob_strapChanges (i : Slot) (f : Job → Job) : (s.modJob i f).strapChanges = s.strapChanges := rfl
@[simp] theorem State.modJob_station (i : Slot) (f : Job → Job) : (s.modJob i f).station = s.station := rfl
@[simp] theorem State.modJob_cache (i : Slot) (f : Job → Job) : (s.modJob i f).cache = s.cache := rfl
@[simp] theorem State.modJob_unknownStream (i : Slot) (f : Job → Job) : (s.modJob i f).unknownStream = s.unknownStream := rfl
@[simp] theorem State.modJob_closedStream (i : Slot) (f : Job → Job) : (s.modJob i f).closedStream = s.closedStream := rfl
@[simp] theorem State.modJob_duplicates (i : Slot) (f : Job → Job) : (s.modJob i f).duplicates = s.duplicates := rfl
@[simp] theorem State.modJob_badHeaders (i : Slot) (f : Job → Job) : (s.modJob i f).badHeaders = s.badHeaders := rfl
@[simp] theorem State.modJob_overruns (i : Slot) (f : Job → Job) : (s.modJob i f).overruns = s.overruns := rfl
@[simp] theorem State.modJob_mem (i : Slot) (f : Job → Job) : (s.modJob i f).mem = s.mem := rfl
@[simp] theorem State.modJob_sharedFree (i : Slot) (f : Job → Job) : (s.modJob i f).sharedFree = s.sharedFree := rfl
@[simp] theorem State.modJob_waitList (i : Slot) (f : Job → Job) : (s.modJob i f).waitList = s.waitList := rfl
@[simp] theorem State.modJob_pools (i : Slot) (f : Job → Job) : (s.modJob i f).pools = s.pools := rfl
@[simp] theorem State.modJob_lanes (i : Slot) (f : Job → Job) : (s.modJob i f).lanes = s.lanes := rfl
@[simp] theorem State.modJob_rates (i : Slot) (f : Job → Job) : (s.modJob i f).rates = s.rates := rfl
@[simp] theorem State.modJob_tiers (i : Slot) (f : Job → Job) : (s.modJob i f).tiers = s.tiers := rfl
@[simp] theorem State.modJob_accounts (i : Slot) (f : Job → Job) : (s.modJob i f).accounts = s.accounts := rfl
@[simp] theorem State.modJob_alerts (i : Slot) (f : Job → Job) : (s.modJob i f).alerts = s.alerts := rfl
@[simp] theorem State.modJob_overflow (i : Slot) (f : Job → Job) : (s.modJob i f).overflow = s.overflow := rfl
@[simp] theorem State.modJob_overflowCount (i : Slot) (f : Job → Job) : (s.modJob i f).overflowCount = s.overflowCount := rfl
@[simp] theorem State.modJob_intakeMask (i : Slot) (f : Job → Job) : (s.modJob i f).intakeMask = s.intakeMask := rfl
@[simp] theorem State.modJob_tick (i : Slot) (f : Job → Job) : (s.modJob i f).tick = s.tick := rfl
@[simp] theorem State.modJob_queue (i : Slot) (f : Job → Job) : (s.modJob i f).queue = s.queue := rfl
@[simp] theorem State.modJob_notices (i : Slot) (f : Job → Job) : (s.modJob i f).notices = s.notices := rfl
@[simp] theorem State.modJob_noticeDrops (i : Slot) (f : Job → Job) : (s.modJob i f).noticeDrops = s.noticeDrops := rfl
@[simp] theorem State.modJob_noticeAddr (i : Slot) (f : Job → Job) : (s.modJob i f).noticeAddr = s.noticeAddr := rfl
@[simp] theorem State.modJob_sent (i : Slot) (f : Job → Job) : (s.modJob i f).sent = s.sent := rfl
@[simp] theorem State.modJob_pending (i : Slot) (f : Job → Job) : (s.modJob i f).pending = s.pending := rfl
@[simp] theorem State.modJob_todo (i : Slot) (f : Job → Job) : (s.modJob i f).todo = s.todo := rfl

/-! ## setLane -/

@[simp] theorem State.setLane_resetLow (l : LaneNo) (r : Lane) : (s.setLane l r).resetLow = s.resetLow := rfl
@[simp] theorem State.setLane_straps (l : LaneNo) (r : Lane) : (s.setLane l r).straps = s.straps := rfl
@[simp] theorem State.setLane_strapChanges (l : LaneNo) (r : Lane) : (s.setLane l r).strapChanges = s.strapChanges := rfl
@[simp] theorem State.setLane_station (l : LaneNo) (r : Lane) : (s.setLane l r).station = s.station := rfl
@[simp] theorem State.setLane_cache (l : LaneNo) (r : Lane) : (s.setLane l r).cache = s.cache := rfl
@[simp] theorem State.setLane_unknownStream (l : LaneNo) (r : Lane) : (s.setLane l r).unknownStream = s.unknownStream := rfl
@[simp] theorem State.setLane_closedStream (l : LaneNo) (r : Lane) : (s.setLane l r).closedStream = s.closedStream := rfl
@[simp] theorem State.setLane_duplicates (l : LaneNo) (r : Lane) : (s.setLane l r).duplicates = s.duplicates := rfl
@[simp] theorem State.setLane_badHeaders (l : LaneNo) (r : Lane) : (s.setLane l r).badHeaders = s.badHeaders := rfl
@[simp] theorem State.setLane_overruns (l : LaneNo) (r : Lane) : (s.setLane l r).overruns = s.overruns := rfl
@[simp] theorem State.setLane_mem (l : LaneNo) (r : Lane) : (s.setLane l r).mem = s.mem := rfl
@[simp] theorem State.setLane_sharedFree (l : LaneNo) (r : Lane) : (s.setLane l r).sharedFree = s.sharedFree := rfl
@[simp] theorem State.setLane_waitList (l : LaneNo) (r : Lane) : (s.setLane l r).waitList = s.waitList := rfl
@[simp] theorem State.setLane_jobs (l : LaneNo) (r : Lane) : (s.setLane l r).jobs = s.jobs := rfl
@[simp] theorem State.setLane_pools (l : LaneNo) (r : Lane) : (s.setLane l r).pools = s.pools := rfl
@[simp] theorem State.setLane_rates (l : LaneNo) (r : Lane) : (s.setLane l r).rates = s.rates := rfl
@[simp] theorem State.setLane_tiers (l : LaneNo) (r : Lane) : (s.setLane l r).tiers = s.tiers := rfl
@[simp] theorem State.setLane_accounts (l : LaneNo) (r : Lane) : (s.setLane l r).accounts = s.accounts := rfl
@[simp] theorem State.setLane_alerts (l : LaneNo) (r : Lane) : (s.setLane l r).alerts = s.alerts := rfl
@[simp] theorem State.setLane_overflow (l : LaneNo) (r : Lane) : (s.setLane l r).overflow = s.overflow := rfl
@[simp] theorem State.setLane_overflowCount (l : LaneNo) (r : Lane) : (s.setLane l r).overflowCount = s.overflowCount := rfl
@[simp] theorem State.setLane_intakeMask (l : LaneNo) (r : Lane) : (s.setLane l r).intakeMask = s.intakeMask := rfl
@[simp] theorem State.setLane_tick (l : LaneNo) (r : Lane) : (s.setLane l r).tick = s.tick := rfl
@[simp] theorem State.setLane_queue (l : LaneNo) (r : Lane) : (s.setLane l r).queue = s.queue := rfl
@[simp] theorem State.setLane_notices (l : LaneNo) (r : Lane) : (s.setLane l r).notices = s.notices := rfl
@[simp] theorem State.setLane_noticeDrops (l : LaneNo) (r : Lane) : (s.setLane l r).noticeDrops = s.noticeDrops := rfl
@[simp] theorem State.setLane_noticeAddr (l : LaneNo) (r : Lane) : (s.setLane l r).noticeAddr = s.noticeAddr := rfl
@[simp] theorem State.setLane_sent (l : LaneNo) (r : Lane) : (s.setLane l r).sent = s.sent := rfl
@[simp] theorem State.setLane_pending (l : LaneNo) (r : Lane) : (s.setLane l r).pending = s.pending := rfl
@[simp] theorem State.setLane_todo (l : LaneNo) (r : Lane) : (s.setLane l r).todo = s.todo := rfl

/-! ## modLane -/

@[simp] theorem State.modLane_resetLow (l : LaneNo) (f : Lane → Lane) : (s.modLane l f).resetLow = s.resetLow := rfl
@[simp] theorem State.modLane_straps (l : LaneNo) (f : Lane → Lane) : (s.modLane l f).straps = s.straps := rfl
@[simp] theorem State.modLane_strapChanges (l : LaneNo) (f : Lane → Lane) : (s.modLane l f).strapChanges = s.strapChanges := rfl
@[simp] theorem State.modLane_station (l : LaneNo) (f : Lane → Lane) : (s.modLane l f).station = s.station := rfl
@[simp] theorem State.modLane_cache (l : LaneNo) (f : Lane → Lane) : (s.modLane l f).cache = s.cache := rfl
@[simp] theorem State.modLane_unknownStream (l : LaneNo) (f : Lane → Lane) : (s.modLane l f).unknownStream = s.unknownStream := rfl
@[simp] theorem State.modLane_closedStream (l : LaneNo) (f : Lane → Lane) : (s.modLane l f).closedStream = s.closedStream := rfl
@[simp] theorem State.modLane_duplicates (l : LaneNo) (f : Lane → Lane) : (s.modLane l f).duplicates = s.duplicates := rfl
@[simp] theorem State.modLane_badHeaders (l : LaneNo) (f : Lane → Lane) : (s.modLane l f).badHeaders = s.badHeaders := rfl
@[simp] theorem State.modLane_overruns (l : LaneNo) (f : Lane → Lane) : (s.modLane l f).overruns = s.overruns := rfl
@[simp] theorem State.modLane_mem (l : LaneNo) (f : Lane → Lane) : (s.modLane l f).mem = s.mem := rfl
@[simp] theorem State.modLane_sharedFree (l : LaneNo) (f : Lane → Lane) : (s.modLane l f).sharedFree = s.sharedFree := rfl
@[simp] theorem State.modLane_waitList (l : LaneNo) (f : Lane → Lane) : (s.modLane l f).waitList = s.waitList := rfl
@[simp] theorem State.modLane_jobs (l : LaneNo) (f : Lane → Lane) : (s.modLane l f).jobs = s.jobs := rfl
@[simp] theorem State.modLane_pools (l : LaneNo) (f : Lane → Lane) : (s.modLane l f).pools = s.pools := rfl
@[simp] theorem State.modLane_rates (l : LaneNo) (f : Lane → Lane) : (s.modLane l f).rates = s.rates := rfl
@[simp] theorem State.modLane_tiers (l : LaneNo) (f : Lane → Lane) : (s.modLane l f).tiers = s.tiers := rfl
@[simp] theorem State.modLane_accounts (l : LaneNo) (f : Lane → Lane) : (s.modLane l f).accounts = s.accounts := rfl
@[simp] theorem State.modLane_alerts (l : LaneNo) (f : Lane → Lane) : (s.modLane l f).alerts = s.alerts := rfl
@[simp] theorem State.modLane_overflow (l : LaneNo) (f : Lane → Lane) : (s.modLane l f).overflow = s.overflow := rfl
@[simp] theorem State.modLane_overflowCount (l : LaneNo) (f : Lane → Lane) : (s.modLane l f).overflowCount = s.overflowCount := rfl
@[simp] theorem State.modLane_intakeMask (l : LaneNo) (f : Lane → Lane) : (s.modLane l f).intakeMask = s.intakeMask := rfl
@[simp] theorem State.modLane_tick (l : LaneNo) (f : Lane → Lane) : (s.modLane l f).tick = s.tick := rfl
@[simp] theorem State.modLane_queue (l : LaneNo) (f : Lane → Lane) : (s.modLane l f).queue = s.queue := rfl
@[simp] theorem State.modLane_notices (l : LaneNo) (f : Lane → Lane) : (s.modLane l f).notices = s.notices := rfl
@[simp] theorem State.modLane_noticeDrops (l : LaneNo) (f : Lane → Lane) : (s.modLane l f).noticeDrops = s.noticeDrops := rfl
@[simp] theorem State.modLane_noticeAddr (l : LaneNo) (f : Lane → Lane) : (s.modLane l f).noticeAddr = s.noticeAddr := rfl
@[simp] theorem State.modLane_sent (l : LaneNo) (f : Lane → Lane) : (s.modLane l f).sent = s.sent := rfl
@[simp] theorem State.modLane_pending (l : LaneNo) (f : Lane → Lane) : (s.modLane l f).pending = s.pending := rfl
@[simp] theorem State.modLane_todo (l : LaneNo) (f : Lane → Lane) : (s.modLane l f).todo = s.todo := rfl

/-! ## setPool -/

@[simp] theorem State.setPool_resetLow (p : PoolNo) (r : Pool) : (s.setPool p r).resetLow = s.resetLow := rfl
@[simp] theorem State.setPool_straps (p : PoolNo) (r : Pool) : (s.setPool p r).straps = s.straps := rfl
@[simp] theorem State.setPool_strapChanges (p : PoolNo) (r : Pool) : (s.setPool p r).strapChanges = s.strapChanges := rfl
@[simp] theorem State.setPool_station (p : PoolNo) (r : Pool) : (s.setPool p r).station = s.station := rfl
@[simp] theorem State.setPool_cache (p : PoolNo) (r : Pool) : (s.setPool p r).cache = s.cache := rfl
@[simp] theorem State.setPool_unknownStream (p : PoolNo) (r : Pool) : (s.setPool p r).unknownStream = s.unknownStream := rfl
@[simp] theorem State.setPool_closedStream (p : PoolNo) (r : Pool) : (s.setPool p r).closedStream = s.closedStream := rfl
@[simp] theorem State.setPool_duplicates (p : PoolNo) (r : Pool) : (s.setPool p r).duplicates = s.duplicates := rfl
@[simp] theorem State.setPool_badHeaders (p : PoolNo) (r : Pool) : (s.setPool p r).badHeaders = s.badHeaders := rfl
@[simp] theorem State.setPool_overruns (p : PoolNo) (r : Pool) : (s.setPool p r).overruns = s.overruns := rfl
@[simp] theorem State.setPool_mem (p : PoolNo) (r : Pool) : (s.setPool p r).mem = s.mem := rfl
@[simp] theorem State.setPool_sharedFree (p : PoolNo) (r : Pool) : (s.setPool p r).sharedFree = s.sharedFree := rfl
@[simp] theorem State.setPool_waitList (p : PoolNo) (r : Pool) : (s.setPool p r).waitList = s.waitList := rfl
@[simp] theorem State.setPool_jobs (p : PoolNo) (r : Pool) : (s.setPool p r).jobs = s.jobs := rfl
@[simp] theorem State.setPool_lanes (p : PoolNo) (r : Pool) : (s.setPool p r).lanes = s.lanes := rfl
@[simp] theorem State.setPool_rates (p : PoolNo) (r : Pool) : (s.setPool p r).rates = s.rates := rfl
@[simp] theorem State.setPool_tiers (p : PoolNo) (r : Pool) : (s.setPool p r).tiers = s.tiers := rfl
@[simp] theorem State.setPool_accounts (p : PoolNo) (r : Pool) : (s.setPool p r).accounts = s.accounts := rfl
@[simp] theorem State.setPool_alerts (p : PoolNo) (r : Pool) : (s.setPool p r).alerts = s.alerts := rfl
@[simp] theorem State.setPool_overflow (p : PoolNo) (r : Pool) : (s.setPool p r).overflow = s.overflow := rfl
@[simp] theorem State.setPool_overflowCount (p : PoolNo) (r : Pool) : (s.setPool p r).overflowCount = s.overflowCount := rfl
@[simp] theorem State.setPool_intakeMask (p : PoolNo) (r : Pool) : (s.setPool p r).intakeMask = s.intakeMask := rfl
@[simp] theorem State.setPool_tick (p : PoolNo) (r : Pool) : (s.setPool p r).tick = s.tick := rfl
@[simp] theorem State.setPool_queue (p : PoolNo) (r : Pool) : (s.setPool p r).queue = s.queue := rfl
@[simp] theorem State.setPool_notices (p : PoolNo) (r : Pool) : (s.setPool p r).notices = s.notices := rfl
@[simp] theorem State.setPool_noticeDrops (p : PoolNo) (r : Pool) : (s.setPool p r).noticeDrops = s.noticeDrops := rfl
@[simp] theorem State.setPool_noticeAddr (p : PoolNo) (r : Pool) : (s.setPool p r).noticeAddr = s.noticeAddr := rfl
@[simp] theorem State.setPool_sent (p : PoolNo) (r : Pool) : (s.setPool p r).sent = s.sent := rfl
@[simp] theorem State.setPool_pending (p : PoolNo) (r : Pool) : (s.setPool p r).pending = s.pending := rfl
@[simp] theorem State.setPool_todo (p : PoolNo) (r : Pool) : (s.setPool p r).todo = s.todo := rfl

/-! ## modPool -/

@[simp] theorem State.modPool_resetLow (p : PoolNo) (f : Pool → Pool) : (s.modPool p f).resetLow = s.resetLow := rfl
@[simp] theorem State.modPool_straps (p : PoolNo) (f : Pool → Pool) : (s.modPool p f).straps = s.straps := rfl
@[simp] theorem State.modPool_strapChanges (p : PoolNo) (f : Pool → Pool) : (s.modPool p f).strapChanges = s.strapChanges := rfl
@[simp] theorem State.modPool_station (p : PoolNo) (f : Pool → Pool) : (s.modPool p f).station = s.station := rfl
@[simp] theorem State.modPool_cache (p : PoolNo) (f : Pool → Pool) : (s.modPool p f).cache = s.cache := rfl
@[simp] theorem State.modPool_unknownStream (p : PoolNo) (f : Pool → Pool) : (s.modPool p f).unknownStream = s.unknownStream := rfl
@[simp] theorem State.modPool_closedStream (p : PoolNo) (f : Pool → Pool) : (s.modPool p f).closedStream = s.closedStream := rfl
@[simp] theorem State.modPool_duplicates (p : PoolNo) (f : Pool → Pool) : (s.modPool p f).duplicates = s.duplicates := rfl
@[simp] theorem State.modPool_badHeaders (p : PoolNo) (f : Pool → Pool) : (s.modPool p f).badHeaders = s.badHeaders := rfl
@[simp] theorem State.modPool_overruns (p : PoolNo) (f : Pool → Pool) : (s.modPool p f).overruns = s.overruns := rfl
@[simp] theorem State.modPool_mem (p : PoolNo) (f : Pool → Pool) : (s.modPool p f).mem = s.mem := rfl
@[simp] theorem State.modPool_sharedFree (p : PoolNo) (f : Pool → Pool) : (s.modPool p f).sharedFree = s.sharedFree := rfl
@[simp] theorem State.modPool_waitList (p : PoolNo) (f : Pool → Pool) : (s.modPool p f).waitList = s.waitList := rfl
@[simp] theorem State.modPool_jobs (p : PoolNo) (f : Pool → Pool) : (s.modPool p f).jobs = s.jobs := rfl
@[simp] theorem State.modPool_lanes (p : PoolNo) (f : Pool → Pool) : (s.modPool p f).lanes = s.lanes := rfl
@[simp] theorem State.modPool_rates (p : PoolNo) (f : Pool → Pool) : (s.modPool p f).rates = s.rates := rfl
@[simp] theorem State.modPool_tiers (p : PoolNo) (f : Pool → Pool) : (s.modPool p f).tiers = s.tiers := rfl
@[simp] theorem State.modPool_accounts (p : PoolNo) (f : Pool → Pool) : (s.modPool p f).accounts = s.accounts := rfl
@[simp] theorem State.modPool_alerts (p : PoolNo) (f : Pool → Pool) : (s.modPool p f).alerts = s.alerts := rfl
@[simp] theorem State.modPool_overflow (p : PoolNo) (f : Pool → Pool) : (s.modPool p f).overflow = s.overflow := rfl
@[simp] theorem State.modPool_overflowCount (p : PoolNo) (f : Pool → Pool) : (s.modPool p f).overflowCount = s.overflowCount := rfl
@[simp] theorem State.modPool_intakeMask (p : PoolNo) (f : Pool → Pool) : (s.modPool p f).intakeMask = s.intakeMask := rfl
@[simp] theorem State.modPool_tick (p : PoolNo) (f : Pool → Pool) : (s.modPool p f).tick = s.tick := rfl
@[simp] theorem State.modPool_queue (p : PoolNo) (f : Pool → Pool) : (s.modPool p f).queue = s.queue := rfl
@[simp] theorem State.modPool_notices (p : PoolNo) (f : Pool → Pool) : (s.modPool p f).notices = s.notices := rfl
@[simp] theorem State.modPool_noticeDrops (p : PoolNo) (f : Pool → Pool) : (s.modPool p f).noticeDrops = s.noticeDrops := rfl
@[simp] theorem State.modPool_noticeAddr (p : PoolNo) (f : Pool → Pool) : (s.modPool p f).noticeAddr = s.noticeAddr := rfl
@[simp] theorem State.modPool_sent (p : PoolNo) (f : Pool → Pool) : (s.modPool p f).sent = s.sent := rfl
@[simp] theorem State.modPool_pending (p : PoolNo) (f : Pool → Pool) : (s.modPool p f).pending = s.pending := rfl
@[simp] theorem State.modPool_todo (p : PoolNo) (f : Pool → Pool) : (s.modPool p f).todo = s.todo := rfl

/-! ## setAccount -/

@[simp] theorem State.setAccount_resetLow (a : AccountNo) (r : Account) : (s.setAccount a r).resetLow = s.resetLow := rfl
@[simp] theorem State.setAccount_straps (a : AccountNo) (r : Account) : (s.setAccount a r).straps = s.straps := rfl
@[simp] theorem State.setAccount_strapChanges (a : AccountNo) (r : Account) : (s.setAccount a r).strapChanges = s.strapChanges := rfl
@[simp] theorem State.setAccount_station (a : AccountNo) (r : Account) : (s.setAccount a r).station = s.station := rfl
@[simp] theorem State.setAccount_cache (a : AccountNo) (r : Account) : (s.setAccount a r).cache = s.cache := rfl
@[simp] theorem State.setAccount_unknownStream (a : AccountNo) (r : Account) : (s.setAccount a r).unknownStream = s.unknownStream := rfl
@[simp] theorem State.setAccount_closedStream (a : AccountNo) (r : Account) : (s.setAccount a r).closedStream = s.closedStream := rfl
@[simp] theorem State.setAccount_duplicates (a : AccountNo) (r : Account) : (s.setAccount a r).duplicates = s.duplicates := rfl
@[simp] theorem State.setAccount_badHeaders (a : AccountNo) (r : Account) : (s.setAccount a r).badHeaders = s.badHeaders := rfl
@[simp] theorem State.setAccount_overruns (a : AccountNo) (r : Account) : (s.setAccount a r).overruns = s.overruns := rfl
@[simp] theorem State.setAccount_mem (a : AccountNo) (r : Account) : (s.setAccount a r).mem = s.mem := rfl
@[simp] theorem State.setAccount_sharedFree (a : AccountNo) (r : Account) : (s.setAccount a r).sharedFree = s.sharedFree := rfl
@[simp] theorem State.setAccount_waitList (a : AccountNo) (r : Account) : (s.setAccount a r).waitList = s.waitList := rfl
@[simp] theorem State.setAccount_jobs (a : AccountNo) (r : Account) : (s.setAccount a r).jobs = s.jobs := rfl
@[simp] theorem State.setAccount_pools (a : AccountNo) (r : Account) : (s.setAccount a r).pools = s.pools := rfl
@[simp] theorem State.setAccount_lanes (a : AccountNo) (r : Account) : (s.setAccount a r).lanes = s.lanes := rfl
@[simp] theorem State.setAccount_rates (a : AccountNo) (r : Account) : (s.setAccount a r).rates = s.rates := rfl
@[simp] theorem State.setAccount_tiers (a : AccountNo) (r : Account) : (s.setAccount a r).tiers = s.tiers := rfl
@[simp] theorem State.setAccount_alerts (a : AccountNo) (r : Account) : (s.setAccount a r).alerts = s.alerts := rfl
@[simp] theorem State.setAccount_overflow (a : AccountNo) (r : Account) : (s.setAccount a r).overflow = s.overflow := rfl
@[simp] theorem State.setAccount_overflowCount (a : AccountNo) (r : Account) : (s.setAccount a r).overflowCount = s.overflowCount := rfl
@[simp] theorem State.setAccount_intakeMask (a : AccountNo) (r : Account) : (s.setAccount a r).intakeMask = s.intakeMask := rfl
@[simp] theorem State.setAccount_tick (a : AccountNo) (r : Account) : (s.setAccount a r).tick = s.tick := rfl
@[simp] theorem State.setAccount_queue (a : AccountNo) (r : Account) : (s.setAccount a r).queue = s.queue := rfl
@[simp] theorem State.setAccount_notices (a : AccountNo) (r : Account) : (s.setAccount a r).notices = s.notices := rfl
@[simp] theorem State.setAccount_noticeDrops (a : AccountNo) (r : Account) : (s.setAccount a r).noticeDrops = s.noticeDrops := rfl
@[simp] theorem State.setAccount_noticeAddr (a : AccountNo) (r : Account) : (s.setAccount a r).noticeAddr = s.noticeAddr := rfl
@[simp] theorem State.setAccount_sent (a : AccountNo) (r : Account) : (s.setAccount a r).sent = s.sent := rfl
@[simp] theorem State.setAccount_pending (a : AccountNo) (r : Account) : (s.setAccount a r).pending = s.pending := rfl
@[simp] theorem State.setAccount_todo (a : AccountNo) (r : Account) : (s.setAccount a r).todo = s.todo := rfl

/-! ## modAccount -/

@[simp] theorem State.modAccount_resetLow (a : AccountNo) (f : Account → Account) : (s.modAccount a f).resetLow = s.resetLow := rfl
@[simp] theorem State.modAccount_straps (a : AccountNo) (f : Account → Account) : (s.modAccount a f).straps = s.straps := rfl
@[simp] theorem State.modAccount_strapChanges (a : AccountNo) (f : Account → Account) : (s.modAccount a f).strapChanges = s.strapChanges := rfl
@[simp] theorem State.modAccount_station (a : AccountNo) (f : Account → Account) : (s.modAccount a f).station = s.station := rfl
@[simp] theorem State.modAccount_cache (a : AccountNo) (f : Account → Account) : (s.modAccount a f).cache = s.cache := rfl
@[simp] theorem State.modAccount_unknownStream (a : AccountNo) (f : Account → Account) : (s.modAccount a f).unknownStream = s.unknownStream := rfl
@[simp] theorem State.modAccount_closedStream (a : AccountNo) (f : Account → Account) : (s.modAccount a f).closedStream = s.closedStream := rfl
@[simp] theorem State.modAccount_duplicates (a : AccountNo) (f : Account → Account) : (s.modAccount a f).duplicates = s.duplicates := rfl
@[simp] theorem State.modAccount_badHeaders (a : AccountNo) (f : Account → Account) : (s.modAccount a f).badHeaders = s.badHeaders := rfl
@[simp] theorem State.modAccount_overruns (a : AccountNo) (f : Account → Account) : (s.modAccount a f).overruns = s.overruns := rfl
@[simp] theorem State.modAccount_mem (a : AccountNo) (f : Account → Account) : (s.modAccount a f).mem = s.mem := rfl
@[simp] theorem State.modAccount_sharedFree (a : AccountNo) (f : Account → Account) : (s.modAccount a f).sharedFree = s.sharedFree := rfl
@[simp] theorem State.modAccount_waitList (a : AccountNo) (f : Account → Account) : (s.modAccount a f).waitList = s.waitList := rfl
@[simp] theorem State.modAccount_jobs (a : AccountNo) (f : Account → Account) : (s.modAccount a f).jobs = s.jobs := rfl
@[simp] theorem State.modAccount_pools (a : AccountNo) (f : Account → Account) : (s.modAccount a f).pools = s.pools := rfl
@[simp] theorem State.modAccount_lanes (a : AccountNo) (f : Account → Account) : (s.modAccount a f).lanes = s.lanes := rfl
@[simp] theorem State.modAccount_rates (a : AccountNo) (f : Account → Account) : (s.modAccount a f).rates = s.rates := rfl
@[simp] theorem State.modAccount_tiers (a : AccountNo) (f : Account → Account) : (s.modAccount a f).tiers = s.tiers := rfl
@[simp] theorem State.modAccount_alerts (a : AccountNo) (f : Account → Account) : (s.modAccount a f).alerts = s.alerts := rfl
@[simp] theorem State.modAccount_overflow (a : AccountNo) (f : Account → Account) : (s.modAccount a f).overflow = s.overflow := rfl
@[simp] theorem State.modAccount_overflowCount (a : AccountNo) (f : Account → Account) : (s.modAccount a f).overflowCount = s.overflowCount := rfl
@[simp] theorem State.modAccount_intakeMask (a : AccountNo) (f : Account → Account) : (s.modAccount a f).intakeMask = s.intakeMask := rfl
@[simp] theorem State.modAccount_tick (a : AccountNo) (f : Account → Account) : (s.modAccount a f).tick = s.tick := rfl
@[simp] theorem State.modAccount_queue (a : AccountNo) (f : Account → Account) : (s.modAccount a f).queue = s.queue := rfl
@[simp] theorem State.modAccount_notices (a : AccountNo) (f : Account → Account) : (s.modAccount a f).notices = s.notices := rfl
@[simp] theorem State.modAccount_noticeDrops (a : AccountNo) (f : Account → Account) : (s.modAccount a f).noticeDrops = s.noticeDrops := rfl
@[simp] theorem State.modAccount_noticeAddr (a : AccountNo) (f : Account → Account) : (s.modAccount a f).noticeAddr = s.noticeAddr := rfl
@[simp] theorem State.modAccount_sent (a : AccountNo) (f : Account → Account) : (s.modAccount a f).sent = s.sent := rfl
@[simp] theorem State.modAccount_pending (a : AccountNo) (f : Account → Account) : (s.modAccount a f).pending = s.pending := rfl
@[simp] theorem State.modAccount_todo (a : AccountNo) (f : Account → Account) : (s.modAccount a f).todo = s.todo := rfl

/-! ## transmit -/

@[simp] theorem State.transmit_resetLow (l : LaneNo) (f : LinkFrame) : (s.transmit l f).resetLow = s.resetLow := rfl
@[simp] theorem State.transmit_straps (l : LaneNo) (f : LinkFrame) : (s.transmit l f).straps = s.straps := rfl
@[simp] theorem State.transmit_strapChanges (l : LaneNo) (f : LinkFrame) : (s.transmit l f).strapChanges = s.strapChanges := rfl
@[simp] theorem State.transmit_station (l : LaneNo) (f : LinkFrame) : (s.transmit l f).station = s.station := rfl
@[simp] theorem State.transmit_cache (l : LaneNo) (f : LinkFrame) : (s.transmit l f).cache = s.cache := rfl
@[simp] theorem State.transmit_unknownStream (l : LaneNo) (f : LinkFrame) : (s.transmit l f).unknownStream = s.unknownStream := rfl
@[simp] theorem State.transmit_closedStream (l : LaneNo) (f : LinkFrame) : (s.transmit l f).closedStream = s.closedStream := rfl
@[simp] theorem State.transmit_duplicates (l : LaneNo) (f : LinkFrame) : (s.transmit l f).duplicates = s.duplicates := rfl
@[simp] theorem State.transmit_badHeaders (l : LaneNo) (f : LinkFrame) : (s.transmit l f).badHeaders = s.badHeaders := rfl
@[simp] theorem State.transmit_overruns (l : LaneNo) (f : LinkFrame) : (s.transmit l f).overruns = s.overruns := rfl
@[simp] theorem State.transmit_mem (l : LaneNo) (f : LinkFrame) : (s.transmit l f).mem = s.mem := rfl
@[simp] theorem State.transmit_sharedFree (l : LaneNo) (f : LinkFrame) : (s.transmit l f).sharedFree = s.sharedFree := rfl
@[simp] theorem State.transmit_waitList (l : LaneNo) (f : LinkFrame) : (s.transmit l f).waitList = s.waitList := rfl
@[simp] theorem State.transmit_jobs (l : LaneNo) (f : LinkFrame) : (s.transmit l f).jobs = s.jobs := rfl
@[simp] theorem State.transmit_pools (l : LaneNo) (f : LinkFrame) : (s.transmit l f).pools = s.pools := rfl
@[simp] theorem State.transmit_lanes (l : LaneNo) (f : LinkFrame) : (s.transmit l f).lanes = s.lanes := rfl
@[simp] theorem State.transmit_rates (l : LaneNo) (f : LinkFrame) : (s.transmit l f).rates = s.rates := rfl
@[simp] theorem State.transmit_tiers (l : LaneNo) (f : LinkFrame) : (s.transmit l f).tiers = s.tiers := rfl
@[simp] theorem State.transmit_accounts (l : LaneNo) (f : LinkFrame) : (s.transmit l f).accounts = s.accounts := rfl
@[simp] theorem State.transmit_alerts (l : LaneNo) (f : LinkFrame) : (s.transmit l f).alerts = s.alerts := rfl
@[simp] theorem State.transmit_overflow (l : LaneNo) (f : LinkFrame) : (s.transmit l f).overflow = s.overflow := rfl
@[simp] theorem State.transmit_overflowCount (l : LaneNo) (f : LinkFrame) : (s.transmit l f).overflowCount = s.overflowCount := rfl
@[simp] theorem State.transmit_intakeMask (l : LaneNo) (f : LinkFrame) : (s.transmit l f).intakeMask = s.intakeMask := rfl
@[simp] theorem State.transmit_tick (l : LaneNo) (f : LinkFrame) : (s.transmit l f).tick = s.tick := rfl
@[simp] theorem State.transmit_queue (l : LaneNo) (f : LinkFrame) : (s.transmit l f).queue = s.queue := rfl
@[simp] theorem State.transmit_notices (l : LaneNo) (f : LinkFrame) : (s.transmit l f).notices = s.notices := rfl
@[simp] theorem State.transmit_noticeDrops (l : LaneNo) (f : LinkFrame) : (s.transmit l f).noticeDrops = s.noticeDrops := rfl
@[simp] theorem State.transmit_noticeAddr (l : LaneNo) (f : LinkFrame) : (s.transmit l f).noticeAddr = s.noticeAddr := rfl
@[simp] theorem State.transmit_pending (l : LaneNo) (f : LinkFrame) : (s.transmit l f).pending = s.pending := rfl
@[simp] theorem State.transmit_todo (l : LaneNo) (f : LinkFrame) : (s.transmit l f).todo = s.todo := rfl

/-! ## noteDispatch -/

@[simp] theorem State.noteDispatch_resetLow (p : PoolNo) : (s.noteDispatch p).resetLow = s.resetLow := rfl
@[simp] theorem State.noteDispatch_straps (p : PoolNo) : (s.noteDispatch p).straps = s.straps := rfl
@[simp] theorem State.noteDispatch_strapChanges (p : PoolNo) : (s.noteDispatch p).strapChanges = s.strapChanges := rfl
@[simp] theorem State.noteDispatch_station (p : PoolNo) : (s.noteDispatch p).station = s.station := rfl
@[simp] theorem State.noteDispatch_cache (p : PoolNo) : (s.noteDispatch p).cache = s.cache := rfl
@[simp] theorem State.noteDispatch_unknownStream (p : PoolNo) : (s.noteDispatch p).unknownStream = s.unknownStream := rfl
@[simp] theorem State.noteDispatch_closedStream (p : PoolNo) : (s.noteDispatch p).closedStream = s.closedStream := rfl
@[simp] theorem State.noteDispatch_duplicates (p : PoolNo) : (s.noteDispatch p).duplicates = s.duplicates := rfl
@[simp] theorem State.noteDispatch_badHeaders (p : PoolNo) : (s.noteDispatch p).badHeaders = s.badHeaders := rfl
@[simp] theorem State.noteDispatch_overruns (p : PoolNo) : (s.noteDispatch p).overruns = s.overruns := rfl
@[simp] theorem State.noteDispatch_mem (p : PoolNo) : (s.noteDispatch p).mem = s.mem := rfl
@[simp] theorem State.noteDispatch_sharedFree (p : PoolNo) : (s.noteDispatch p).sharedFree = s.sharedFree := rfl
@[simp] theorem State.noteDispatch_waitList (p : PoolNo) : (s.noteDispatch p).waitList = s.waitList := rfl
@[simp] theorem State.noteDispatch_jobs (p : PoolNo) : (s.noteDispatch p).jobs = s.jobs := rfl
@[simp] theorem State.noteDispatch_pools (p : PoolNo) : (s.noteDispatch p).pools = s.pools := rfl
@[simp] theorem State.noteDispatch_lanes (p : PoolNo) : (s.noteDispatch p).lanes = s.lanes := rfl
@[simp] theorem State.noteDispatch_rates (p : PoolNo) : (s.noteDispatch p).rates = s.rates := rfl
@[simp] theorem State.noteDispatch_tiers (p : PoolNo) : (s.noteDispatch p).tiers = s.tiers := rfl
@[simp] theorem State.noteDispatch_accounts (p : PoolNo) : (s.noteDispatch p).accounts = s.accounts := rfl
@[simp] theorem State.noteDispatch_alerts (p : PoolNo) : (s.noteDispatch p).alerts = s.alerts := rfl
@[simp] theorem State.noteDispatch_overflow (p : PoolNo) : (s.noteDispatch p).overflow = s.overflow := rfl
@[simp] theorem State.noteDispatch_overflowCount (p : PoolNo) : (s.noteDispatch p).overflowCount = s.overflowCount := rfl
@[simp] theorem State.noteDispatch_intakeMask (p : PoolNo) : (s.noteDispatch p).intakeMask = s.intakeMask := rfl
@[simp] theorem State.noteDispatch_tick (p : PoolNo) : (s.noteDispatch p).tick = s.tick := rfl
@[simp] theorem State.noteDispatch_queue (p : PoolNo) : (s.noteDispatch p).queue = s.queue := rfl
@[simp] theorem State.noteDispatch_notices (p : PoolNo) : (s.noteDispatch p).notices = s.notices := rfl
@[simp] theorem State.noteDispatch_noticeDrops (p : PoolNo) : (s.noteDispatch p).noticeDrops = s.noticeDrops := rfl
@[simp] theorem State.noteDispatch_noticeAddr (p : PoolNo) : (s.noteDispatch p).noticeAddr = s.noticeAddr := rfl
@[simp] theorem State.noteDispatch_sent (p : PoolNo) : (s.noteDispatch p).sent = s.sent := rfl
@[simp] theorem State.noteDispatch_pending (p : PoolNo) : (s.noteDispatch p).pending = s.pending := rfl

/-! ## complete -/

@[simp] theorem State.complete_resetLow (p : QueuePtr) (r : Result) (v1 v2 : Word32) : (s.complete p r v1 v2).resetLow = s.resetLow := rfl
@[simp] theorem State.complete_straps (p : QueuePtr) (r : Result) (v1 v2 : Word32) : (s.complete p r v1 v2).straps = s.straps := rfl
@[simp] theorem State.complete_strapChanges (p : QueuePtr) (r : Result) (v1 v2 : Word32) : (s.complete p r v1 v2).strapChanges = s.strapChanges := rfl
@[simp] theorem State.complete_station (p : QueuePtr) (r : Result) (v1 v2 : Word32) : (s.complete p r v1 v2).station = s.station := rfl
@[simp] theorem State.complete_cache (p : QueuePtr) (r : Result) (v1 v2 : Word32) : (s.complete p r v1 v2).cache = s.cache := rfl
@[simp] theorem State.complete_unknownStream (p : QueuePtr) (r : Result) (v1 v2 : Word32) : (s.complete p r v1 v2).unknownStream = s.unknownStream := rfl
@[simp] theorem State.complete_closedStream (p : QueuePtr) (r : Result) (v1 v2 : Word32) : (s.complete p r v1 v2).closedStream = s.closedStream := rfl
@[simp] theorem State.complete_duplicates (p : QueuePtr) (r : Result) (v1 v2 : Word32) : (s.complete p r v1 v2).duplicates = s.duplicates := rfl
@[simp] theorem State.complete_badHeaders (p : QueuePtr) (r : Result) (v1 v2 : Word32) : (s.complete p r v1 v2).badHeaders = s.badHeaders := rfl
@[simp] theorem State.complete_overruns (p : QueuePtr) (r : Result) (v1 v2 : Word32) : (s.complete p r v1 v2).overruns = s.overruns := rfl
@[simp] theorem State.complete_mem (p : QueuePtr) (r : Result) (v1 v2 : Word32) : (s.complete p r v1 v2).mem = s.mem := rfl
@[simp] theorem State.complete_sharedFree (p : QueuePtr) (r : Result) (v1 v2 : Word32) : (s.complete p r v1 v2).sharedFree = s.sharedFree := rfl
@[simp] theorem State.complete_waitList (p : QueuePtr) (r : Result) (v1 v2 : Word32) : (s.complete p r v1 v2).waitList = s.waitList := rfl
@[simp] theorem State.complete_jobs (p : QueuePtr) (r : Result) (v1 v2 : Word32) : (s.complete p r v1 v2).jobs = s.jobs := rfl
@[simp] theorem State.complete_pools (p : QueuePtr) (r : Result) (v1 v2 : Word32) : (s.complete p r v1 v2).pools = s.pools := rfl
@[simp] theorem State.complete_lanes (p : QueuePtr) (r : Result) (v1 v2 : Word32) : (s.complete p r v1 v2).lanes = s.lanes := rfl
@[simp] theorem State.complete_rates (p : QueuePtr) (r : Result) (v1 v2 : Word32) : (s.complete p r v1 v2).rates = s.rates := rfl
@[simp] theorem State.complete_tiers (p : QueuePtr) (r : Result) (v1 v2 : Word32) : (s.complete p r v1 v2).tiers = s.tiers := rfl
@[simp] theorem State.complete_accounts (p : QueuePtr) (r : Result) (v1 v2 : Word32) : (s.complete p r v1 v2).accounts = s.accounts := rfl
@[simp] theorem State.complete_alerts (p : QueuePtr) (r : Result) (v1 v2 : Word32) : (s.complete p r v1 v2).alerts = s.alerts := rfl
@[simp] theorem State.complete_overflow (p : QueuePtr) (r : Result) (v1 v2 : Word32) : (s.complete p r v1 v2).overflow = s.overflow := rfl
@[simp] theorem State.complete_overflowCount (p : QueuePtr) (r : Result) (v1 v2 : Word32) : (s.complete p r v1 v2).overflowCount = s.overflowCount := rfl
@[simp] theorem State.complete_intakeMask (p : QueuePtr) (r : Result) (v1 v2 : Word32) : (s.complete p r v1 v2).intakeMask = s.intakeMask := rfl
@[simp] theorem State.complete_tick (p : QueuePtr) (r : Result) (v1 v2 : Word32) : (s.complete p r v1 v2).tick = s.tick := rfl
@[simp] theorem State.complete_queue (p : QueuePtr) (r : Result) (v1 v2 : Word32) : (s.complete p r v1 v2).queue = s.queue := rfl
@[simp] theorem State.complete_notices (p : QueuePtr) (r : Result) (v1 v2 : Word32) : (s.complete p r v1 v2).notices = s.notices := rfl
@[simp] theorem State.complete_noticeDrops (p : QueuePtr) (r : Result) (v1 v2 : Word32) : (s.complete p r v1 v2).noticeDrops = s.noticeDrops := rfl
@[simp] theorem State.complete_noticeAddr (p : QueuePtr) (r : Result) (v1 v2 : Word32) : (s.complete p r v1 v2).noticeAddr = s.noticeAddr := rfl
@[simp] theorem State.complete_sent (p : QueuePtr) (r : Result) (v1 v2 : Word32) : (s.complete p r v1 v2).sent = s.sent := rfl
@[simp] theorem State.complete_pending (p : QueuePtr) (r : Result) (v1 v2 : Word32) : (s.complete p r v1 v2).pending = s.pending := rfl

/-! ## begin -/

@[simp] theorem State.begin_resetLow : (s.begin).resetLow = s.resetLow := rfl
@[simp] theorem State.begin_straps : (s.begin).straps = s.straps := rfl
@[simp] theorem State.begin_strapChanges : (s.begin).strapChanges = s.strapChanges := rfl
@[simp] theorem State.begin_station : (s.begin).station = s.station := rfl
@[simp] theorem State.begin_cache : (s.begin).cache = s.cache := rfl
@[simp] theorem State.begin_unknownStream : (s.begin).unknownStream = s.unknownStream := rfl
@[simp] theorem State.begin_closedStream : (s.begin).closedStream = s.closedStream := rfl
@[simp] theorem State.begin_duplicates : (s.begin).duplicates = s.duplicates := rfl
@[simp] theorem State.begin_badHeaders : (s.begin).badHeaders = s.badHeaders := rfl
@[simp] theorem State.begin_overruns : (s.begin).overruns = s.overruns := rfl
@[simp] theorem State.begin_mem : (s.begin).mem = s.mem := rfl
@[simp] theorem State.begin_sharedFree : (s.begin).sharedFree = s.sharedFree := rfl
@[simp] theorem State.begin_waitList : (s.begin).waitList = s.waitList := rfl
@[simp] theorem State.begin_jobs : (s.begin).jobs = s.jobs := rfl
@[simp] theorem State.begin_pools : (s.begin).pools = s.pools := rfl
@[simp] theorem State.begin_lanes : (s.begin).lanes = s.lanes := rfl
@[simp] theorem State.begin_rates : (s.begin).rates = s.rates := rfl
@[simp] theorem State.begin_tiers : (s.begin).tiers = s.tiers := rfl
@[simp] theorem State.begin_accounts : (s.begin).accounts = s.accounts := rfl
@[simp] theorem State.begin_alerts : (s.begin).alerts = s.alerts := rfl
@[simp] theorem State.begin_overflow : (s.begin).overflow = s.overflow := rfl
@[simp] theorem State.begin_overflowCount : (s.begin).overflowCount = s.overflowCount := rfl
@[simp] theorem State.begin_intakeMask : (s.begin).intakeMask = s.intakeMask := rfl
@[simp] theorem State.begin_tick : (s.begin).tick = s.tick := rfl
@[simp] theorem State.begin_queue : (s.begin).queue = s.queue := rfl
@[simp] theorem State.begin_notices : (s.begin).notices = s.notices := rfl
@[simp] theorem State.begin_noticeDrops : (s.begin).noticeDrops = s.noticeDrops := rfl
@[simp] theorem State.begin_noticeAddr : (s.begin).noticeAddr = s.noticeAddr := rfl
@[simp] theorem State.begin_sent : (s.begin).sent = s.sent := rfl
@[simp] theorem State.begin_pending : (s.begin).pending = s.pending := rfl

/-! ## notice -/

@[simp] theorem State.notice_resetLow (n : Notice) : (s.notice n).resetLow = s.resetLow := by
  unfold State.notice; split <;> rfl
@[simp] theorem State.notice_straps (n : Notice) : (s.notice n).straps = s.straps := by
  unfold State.notice; split <;> rfl
@[simp] theorem State.notice_strapChanges (n : Notice) : (s.notice n).strapChanges = s.strapChanges := by
  unfold State.notice; split <;> rfl
@[simp] theorem State.notice_station (n : Notice) : (s.notice n).station = s.station := by
  unfold State.notice; split <;> rfl
@[simp] theorem State.notice_cache (n : Notice) : (s.notice n).cache = s.cache := by
  unfold State.notice; split <;> rfl
@[simp] theorem State.notice_unknownStream (n : Notice) : (s.notice n).unknownStream = s.unknownStream := by
  unfold State.notice; split <;> rfl
@[simp] theorem State.notice_closedStream (n : Notice) : (s.notice n).closedStream = s.closedStream := by
  unfold State.notice; split <;> rfl
@[simp] theorem State.notice_duplicates (n : Notice) : (s.notice n).duplicates = s.duplicates := by
  unfold State.notice; split <;> rfl
@[simp] theorem State.notice_badHeaders (n : Notice) : (s.notice n).badHeaders = s.badHeaders := by
  unfold State.notice; split <;> rfl
@[simp] theorem State.notice_overruns (n : Notice) : (s.notice n).overruns = s.overruns := by
  unfold State.notice; split <;> rfl
@[simp] theorem State.notice_mem (n : Notice) : (s.notice n).mem = s.mem := by
  unfold State.notice; split <;> rfl
@[simp] theorem State.notice_sharedFree (n : Notice) : (s.notice n).sharedFree = s.sharedFree := by
  unfold State.notice; split <;> rfl
@[simp] theorem State.notice_waitList (n : Notice) : (s.notice n).waitList = s.waitList := by
  unfold State.notice; split <;> rfl
@[simp] theorem State.notice_jobs (n : Notice) : (s.notice n).jobs = s.jobs := by
  unfold State.notice; split <;> rfl
@[simp] theorem State.notice_pools (n : Notice) : (s.notice n).pools = s.pools := by
  unfold State.notice; split <;> rfl
@[simp] theorem State.notice_lanes (n : Notice) : (s.notice n).lanes = s.lanes := by
  unfold State.notice; split <;> rfl
@[simp] theorem State.notice_rates (n : Notice) : (s.notice n).rates = s.rates := by
  unfold State.notice; split <;> rfl
@[simp] theorem State.notice_tiers (n : Notice) : (s.notice n).tiers = s.tiers := by
  unfold State.notice; split <;> rfl
@[simp] theorem State.notice_accounts (n : Notice) : (s.notice n).accounts = s.accounts := by
  unfold State.notice; split <;> rfl
@[simp] theorem State.notice_alerts (n : Notice) : (s.notice n).alerts = s.alerts := by
  unfold State.notice; split <;> rfl
@[simp] theorem State.notice_overflow (n : Notice) : (s.notice n).overflow = s.overflow := by
  unfold State.notice; split <;> rfl
@[simp] theorem State.notice_overflowCount (n : Notice) : (s.notice n).overflowCount = s.overflowCount := by
  unfold State.notice; split <;> rfl
@[simp] theorem State.notice_intakeMask (n : Notice) : (s.notice n).intakeMask = s.intakeMask := by
  unfold State.notice; split <;> rfl
@[simp] theorem State.notice_tick (n : Notice) : (s.notice n).tick = s.tick := by
  unfold State.notice; split <;> rfl
@[simp] theorem State.notice_queue (n : Notice) : (s.notice n).queue = s.queue := by
  unfold State.notice; split <;> rfl
@[simp] theorem State.notice_noticeAddr (n : Notice) : (s.notice n).noticeAddr = s.noticeAddr := by
  unfold State.notice; split <;> rfl
@[simp] theorem State.notice_sent (n : Notice) : (s.notice n).sent = s.sent := by
  unfold State.notice; split <;> rfl
@[simp] theorem State.notice_pending (n : Notice) : (s.notice n).pending = s.pending := by
  unfold State.notice; split <;> rfl
@[simp] theorem State.notice_todo (n : Notice) : (s.notice n).todo = s.todo := by
  unfold State.notice; split <;> rfl

/-! ## noteRequeued -/

@[simp] theorem State.noteRequeued_resetLow (i : Slot) : (s.noteRequeued i).resetLow = s.resetLow := rfl
@[simp] theorem State.noteRequeued_straps (i : Slot) : (s.noteRequeued i).straps = s.straps := rfl
@[simp] theorem State.noteRequeued_strapChanges (i : Slot) : (s.noteRequeued i).strapChanges = s.strapChanges := rfl
@[simp] theorem State.noteRequeued_station (i : Slot) : (s.noteRequeued i).station = s.station := rfl
@[simp] theorem State.noteRequeued_cache (i : Slot) : (s.noteRequeued i).cache = s.cache := rfl
@[simp] theorem State.noteRequeued_unknownStream (i : Slot) : (s.noteRequeued i).unknownStream = s.unknownStream := rfl
@[simp] theorem State.noteRequeued_closedStream (i : Slot) : (s.noteRequeued i).closedStream = s.closedStream := rfl
@[simp] theorem State.noteRequeued_duplicates (i : Slot) : (s.noteRequeued i).duplicates = s.duplicates := rfl
@[simp] theorem State.noteRequeued_badHeaders (i : Slot) : (s.noteRequeued i).badHeaders = s.badHeaders := rfl
@[simp] theorem State.noteRequeued_overruns (i : Slot) : (s.noteRequeued i).overruns = s.overruns := rfl
@[simp] theorem State.noteRequeued_mem (i : Slot) : (s.noteRequeued i).mem = s.mem := rfl
@[simp] theorem State.noteRequeued_sharedFree (i : Slot) : (s.noteRequeued i).sharedFree = s.sharedFree := rfl
@[simp] theorem State.noteRequeued_waitList (i : Slot) : (s.noteRequeued i).waitList = s.waitList := rfl
@[simp] theorem State.noteRequeued_jobs (i : Slot) : (s.noteRequeued i).jobs = s.jobs := rfl
@[simp] theorem State.noteRequeued_pools (i : Slot) : (s.noteRequeued i).pools = s.pools := rfl
@[simp] theorem State.noteRequeued_lanes (i : Slot) : (s.noteRequeued i).lanes = s.lanes := rfl
@[simp] theorem State.noteRequeued_rates (i : Slot) : (s.noteRequeued i).rates = s.rates := rfl
@[simp] theorem State.noteRequeued_tiers (i : Slot) : (s.noteRequeued i).tiers = s.tiers := rfl
@[simp] theorem State.noteRequeued_accounts (i : Slot) : (s.noteRequeued i).accounts = s.accounts := rfl
@[simp] theorem State.noteRequeued_alerts (i : Slot) : (s.noteRequeued i).alerts = s.alerts := rfl
@[simp] theorem State.noteRequeued_overflow (i : Slot) : (s.noteRequeued i).overflow = s.overflow := rfl
@[simp] theorem State.noteRequeued_overflowCount (i : Slot) : (s.noteRequeued i).overflowCount = s.overflowCount := rfl
@[simp] theorem State.noteRequeued_intakeMask (i : Slot) : (s.noteRequeued i).intakeMask = s.intakeMask := rfl
@[simp] theorem State.noteRequeued_tick (i : Slot) : (s.noteRequeued i).tick = s.tick := rfl
@[simp] theorem State.noteRequeued_queue (i : Slot) : (s.noteRequeued i).queue = s.queue := rfl
@[simp] theorem State.noteRequeued_notices (i : Slot) : (s.noteRequeued i).notices = s.notices := rfl
@[simp] theorem State.noteRequeued_noticeDrops (i : Slot) : (s.noteRequeued i).noticeDrops = s.noticeDrops := rfl
@[simp] theorem State.noteRequeued_noticeAddr (i : Slot) : (s.noteRequeued i).noticeAddr = s.noticeAddr := rfl
@[simp] theorem State.noteRequeued_sent (i : Slot) : (s.noteRequeued i).sent = s.sent := rfl
@[simp] theorem State.noteRequeued_pending (i : Slot) : (s.noteRequeued i).pending = s.pending := rfl

/-! ## noteRise -/

@[simp] theorem State.noteRise_resetLow (a : AccountNo) : (s.noteRise a).resetLow = s.resetLow := by
  unfold State.noteRise; split <;> rfl
@[simp] theorem State.noteRise_straps (a : AccountNo) : (s.noteRise a).straps = s.straps := by
  unfold State.noteRise; split <;> rfl
@[simp] theorem State.noteRise_strapChanges (a : AccountNo) : (s.noteRise a).strapChanges = s.strapChanges := by
  unfold State.noteRise; split <;> rfl
@[simp] theorem State.noteRise_station (a : AccountNo) : (s.noteRise a).station = s.station := by
  unfold State.noteRise; split <;> rfl
@[simp] theorem State.noteRise_cache (a : AccountNo) : (s.noteRise a).cache = s.cache := by
  unfold State.noteRise; split <;> rfl
@[simp] theorem State.noteRise_unknownStream (a : AccountNo) : (s.noteRise a).unknownStream = s.unknownStream := by
  unfold State.noteRise; split <;> rfl
@[simp] theorem State.noteRise_closedStream (a : AccountNo) : (s.noteRise a).closedStream = s.closedStream := by
  unfold State.noteRise; split <;> rfl
@[simp] theorem State.noteRise_duplicates (a : AccountNo) : (s.noteRise a).duplicates = s.duplicates := by
  unfold State.noteRise; split <;> rfl
@[simp] theorem State.noteRise_badHeaders (a : AccountNo) : (s.noteRise a).badHeaders = s.badHeaders := by
  unfold State.noteRise; split <;> rfl
@[simp] theorem State.noteRise_overruns (a : AccountNo) : (s.noteRise a).overruns = s.overruns := by
  unfold State.noteRise; split <;> rfl
@[simp] theorem State.noteRise_mem (a : AccountNo) : (s.noteRise a).mem = s.mem := by
  unfold State.noteRise; split <;> rfl
@[simp] theorem State.noteRise_sharedFree (a : AccountNo) : (s.noteRise a).sharedFree = s.sharedFree := by
  unfold State.noteRise; split <;> rfl
@[simp] theorem State.noteRise_waitList (a : AccountNo) : (s.noteRise a).waitList = s.waitList := by
  unfold State.noteRise; split <;> rfl
@[simp] theorem State.noteRise_jobs (a : AccountNo) : (s.noteRise a).jobs = s.jobs := by
  unfold State.noteRise; split <;> rfl
@[simp] theorem State.noteRise_pools (a : AccountNo) : (s.noteRise a).pools = s.pools := by
  unfold State.noteRise; split <;> rfl
@[simp] theorem State.noteRise_lanes (a : AccountNo) : (s.noteRise a).lanes = s.lanes := by
  unfold State.noteRise; split <;> rfl
@[simp] theorem State.noteRise_rates (a : AccountNo) : (s.noteRise a).rates = s.rates := by
  unfold State.noteRise; split <;> rfl
@[simp] theorem State.noteRise_tiers (a : AccountNo) : (s.noteRise a).tiers = s.tiers := by
  unfold State.noteRise; split <;> rfl
@[simp] theorem State.noteRise_accounts (a : AccountNo) : (s.noteRise a).accounts = s.accounts := by
  unfold State.noteRise; split <;> rfl
@[simp] theorem State.noteRise_alerts (a : AccountNo) : (s.noteRise a).alerts = s.alerts := by
  unfold State.noteRise; split <;> rfl
@[simp] theorem State.noteRise_overflow (a : AccountNo) : (s.noteRise a).overflow = s.overflow := by
  unfold State.noteRise; split <;> rfl
@[simp] theorem State.noteRise_overflowCount (a : AccountNo) : (s.noteRise a).overflowCount = s.overflowCount := by
  unfold State.noteRise; split <;> rfl
@[simp] theorem State.noteRise_intakeMask (a : AccountNo) : (s.noteRise a).intakeMask = s.intakeMask := by
  unfold State.noteRise; split <;> rfl
@[simp] theorem State.noteRise_tick (a : AccountNo) : (s.noteRise a).tick = s.tick := by
  unfold State.noteRise; split <;> rfl
@[simp] theorem State.noteRise_queue (a : AccountNo) : (s.noteRise a).queue = s.queue := by
  unfold State.noteRise; split <;> rfl
@[simp] theorem State.noteRise_notices (a : AccountNo) : (s.noteRise a).notices = s.notices := by
  unfold State.noteRise; split <;> rfl
@[simp] theorem State.noteRise_noticeDrops (a : AccountNo) : (s.noteRise a).noticeDrops = s.noticeDrops := by
  unfold State.noteRise; split <;> rfl
@[simp] theorem State.noteRise_noticeAddr (a : AccountNo) : (s.noteRise a).noticeAddr = s.noticeAddr := by
  unfold State.noteRise; split <;> rfl
@[simp] theorem State.noteRise_sent (a : AccountNo) : (s.noteRise a).sent = s.sent := by
  unfold State.noteRise; split <;> rfl
@[simp] theorem State.noteRise_pending (a : AccountNo) : (s.noteRise a).pending = s.pending := by
  unfold State.noteRise; split <;> rfl

/-! ## completeOpt -/

@[simp] theorem State.completeOpt_resetLow (p : Option QueuePtr) (r : Result) (v1 v2 : Word32) : (s.completeOpt p r v1 v2).resetLow = s.resetLow := by
  cases p <;> rfl
@[simp] theorem State.completeOpt_straps (p : Option QueuePtr) (r : Result) (v1 v2 : Word32) : (s.completeOpt p r v1 v2).straps = s.straps := by
  cases p <;> rfl
@[simp] theorem State.completeOpt_strapChanges (p : Option QueuePtr) (r : Result) (v1 v2 : Word32) : (s.completeOpt p r v1 v2).strapChanges = s.strapChanges := by
  cases p <;> rfl
@[simp] theorem State.completeOpt_station (p : Option QueuePtr) (r : Result) (v1 v2 : Word32) : (s.completeOpt p r v1 v2).station = s.station := by
  cases p <;> rfl
@[simp] theorem State.completeOpt_cache (p : Option QueuePtr) (r : Result) (v1 v2 : Word32) : (s.completeOpt p r v1 v2).cache = s.cache := by
  cases p <;> rfl
@[simp] theorem State.completeOpt_unknownStream (p : Option QueuePtr) (r : Result) (v1 v2 : Word32) : (s.completeOpt p r v1 v2).unknownStream = s.unknownStream := by
  cases p <;> rfl
@[simp] theorem State.completeOpt_closedStream (p : Option QueuePtr) (r : Result) (v1 v2 : Word32) : (s.completeOpt p r v1 v2).closedStream = s.closedStream := by
  cases p <;> rfl
@[simp] theorem State.completeOpt_duplicates (p : Option QueuePtr) (r : Result) (v1 v2 : Word32) : (s.completeOpt p r v1 v2).duplicates = s.duplicates := by
  cases p <;> rfl
@[simp] theorem State.completeOpt_badHeaders (p : Option QueuePtr) (r : Result) (v1 v2 : Word32) : (s.completeOpt p r v1 v2).badHeaders = s.badHeaders := by
  cases p <;> rfl
@[simp] theorem State.completeOpt_overruns (p : Option QueuePtr) (r : Result) (v1 v2 : Word32) : (s.completeOpt p r v1 v2).overruns = s.overruns := by
  cases p <;> rfl
@[simp] theorem State.completeOpt_mem (p : Option QueuePtr) (r : Result) (v1 v2 : Word32) : (s.completeOpt p r v1 v2).mem = s.mem := by
  cases p <;> rfl
@[simp] theorem State.completeOpt_sharedFree (p : Option QueuePtr) (r : Result) (v1 v2 : Word32) : (s.completeOpt p r v1 v2).sharedFree = s.sharedFree := by
  cases p <;> rfl
@[simp] theorem State.completeOpt_waitList (p : Option QueuePtr) (r : Result) (v1 v2 : Word32) : (s.completeOpt p r v1 v2).waitList = s.waitList := by
  cases p <;> rfl
@[simp] theorem State.completeOpt_jobs (p : Option QueuePtr) (r : Result) (v1 v2 : Word32) : (s.completeOpt p r v1 v2).jobs = s.jobs := by
  cases p <;> rfl
@[simp] theorem State.completeOpt_pools (p : Option QueuePtr) (r : Result) (v1 v2 : Word32) : (s.completeOpt p r v1 v2).pools = s.pools := by
  cases p <;> rfl
@[simp] theorem State.completeOpt_lanes (p : Option QueuePtr) (r : Result) (v1 v2 : Word32) : (s.completeOpt p r v1 v2).lanes = s.lanes := by
  cases p <;> rfl
@[simp] theorem State.completeOpt_rates (p : Option QueuePtr) (r : Result) (v1 v2 : Word32) : (s.completeOpt p r v1 v2).rates = s.rates := by
  cases p <;> rfl
@[simp] theorem State.completeOpt_tiers (p : Option QueuePtr) (r : Result) (v1 v2 : Word32) : (s.completeOpt p r v1 v2).tiers = s.tiers := by
  cases p <;> rfl
@[simp] theorem State.completeOpt_accounts (p : Option QueuePtr) (r : Result) (v1 v2 : Word32) : (s.completeOpt p r v1 v2).accounts = s.accounts := by
  cases p <;> rfl
@[simp] theorem State.completeOpt_alerts (p : Option QueuePtr) (r : Result) (v1 v2 : Word32) : (s.completeOpt p r v1 v2).alerts = s.alerts := by
  cases p <;> rfl
@[simp] theorem State.completeOpt_overflow (p : Option QueuePtr) (r : Result) (v1 v2 : Word32) : (s.completeOpt p r v1 v2).overflow = s.overflow := by
  cases p <;> rfl
@[simp] theorem State.completeOpt_overflowCount (p : Option QueuePtr) (r : Result) (v1 v2 : Word32) : (s.completeOpt p r v1 v2).overflowCount = s.overflowCount := by
  cases p <;> rfl
@[simp] theorem State.completeOpt_intakeMask (p : Option QueuePtr) (r : Result) (v1 v2 : Word32) : (s.completeOpt p r v1 v2).intakeMask = s.intakeMask := by
  cases p <;> rfl
@[simp] theorem State.completeOpt_tick (p : Option QueuePtr) (r : Result) (v1 v2 : Word32) : (s.completeOpt p r v1 v2).tick = s.tick := by
  cases p <;> rfl
@[simp] theorem State.completeOpt_queue (p : Option QueuePtr) (r : Result) (v1 v2 : Word32) : (s.completeOpt p r v1 v2).queue = s.queue := by
  cases p <;> rfl
@[simp] theorem State.completeOpt_notices (p : Option QueuePtr) (r : Result) (v1 v2 : Word32) : (s.completeOpt p r v1 v2).notices = s.notices := by
  cases p <;> rfl
@[simp] theorem State.completeOpt_noticeDrops (p : Option QueuePtr) (r : Result) (v1 v2 : Word32) : (s.completeOpt p r v1 v2).noticeDrops = s.noticeDrops := by
  cases p <;> rfl
@[simp] theorem State.completeOpt_noticeAddr (p : Option QueuePtr) (r : Result) (v1 v2 : Word32) : (s.completeOpt p r v1 v2).noticeAddr = s.noticeAddr := by
  cases p <;> rfl
@[simp] theorem State.completeOpt_sent (p : Option QueuePtr) (r : Result) (v1 v2 : Word32) : (s.completeOpt p r v1 v2).sent = s.sent := by
  cases p <;> rfl
@[simp] theorem State.completeOpt_pending (p : Option QueuePtr) (r : Result) (v1 v2 : Word32) : (s.completeOpt p r v1 v2).pending = s.pending := by
  cases p <;> rfl

/-! ## What the updates write -/

@[simp] theorem State.setJob_jobs (i : Slot) (j : Job) : (s.setJob i j).jobs = s.jobs.set i j := rfl
@[simp] theorem State.setLane_lanes (l : LaneNo) (r : Lane) : (s.setLane l r).lanes = s.lanes.set l r := rfl
@[simp] theorem State.setPool_pools (p : PoolNo) (r : Pool) : (s.setPool p r).pools = s.pools.set p r := rfl
@[simp] theorem State.setAccount_accounts (a : AccountNo) (r : Account) :
    (s.setAccount a r).accounts = s.accounts.set a r := rfl
@[simp] theorem State.transmit_sent (l : LaneNo) (f : LinkFrame) :
    (s.transmit l f).sent = s.sent ++ [.link l f.bytes] := rfl
@[simp] theorem State.begin_todo : s.begin.todo = Todo.nothing := rfl
@[simp] theorem State.noteDispatch_todo (p : PoolNo) :
    (s.noteDispatch p).todo = { s.todo with pools := s.todo.pools ++ [p] } := rfl
@[simp] theorem State.noteRequeued_todo (i : Slot) :
    (s.noteRequeued i).todo = { s.todo with requeued := s.todo.requeued ++ [i] } := rfl
@[simp] theorem State.complete_todo (p : QueuePtr) (r : Result) (v1 v2 : Word32) :
    (s.complete p r v1 v2).todo = { s.todo with done := s.todo.done ++ [⟨p, r, v1, v2⟩] } := rfl

/-! ## Reading a table after an update -/

theorem State.job_setJob (i k : Slot) (j : Job) : (s.setJob i j).job k = if i = k then j else s.job k := by
  simp only [State.job, State.setJob, Fin.getElem_fin, Vector.getElem_set, Fin.ext_iff]
@[simp] theorem State.job_setJob_self (i : Slot) (j : Job) : (s.setJob i j).job i = j := by simp [State.job_setJob]
@[simp] theorem State.job_modJob_self (i : Slot) (f : Job → Job) : (s.modJob i f).job i = f (s.job i) := by
  simp [State.modJob]
theorem State.job_modJob (i k : Slot) (f : Job → Job) :
    (s.modJob i f).job k = if i = k then f (s.job i) else s.job k := State.job_setJob s i k _
theorem State.lane_setLane (l k : LaneNo) (r : Lane) : (s.setLane l r).lane k = if l = k then r else s.lane k := by
  simp only [State.lane, State.setLane, Fin.getElem_fin, Vector.getElem_set, Fin.ext_iff]
@[simp] theorem State.lane_setLane_self (l : LaneNo) (r : Lane) : (s.setLane l r).lane l = r := by
  simp [State.lane_setLane]
@[simp] theorem State.lane_modLane_self (l : LaneNo) (f : Lane → Lane) : (s.modLane l f).lane l = f (s.lane l) := by
  simp [State.modLane]
theorem State.lane_modLane (l k : LaneNo) (f : Lane → Lane) :
    (s.modLane l f).lane k = if l = k then f (s.lane l) else s.lane k := State.lane_setLane s l k _
theorem State.pool_setPool (p k : PoolNo) (r : Pool) : (s.setPool p r).pool k = if p = k then r else s.pool k := by
  simp only [State.pool, State.setPool, Fin.getElem_fin, Vector.getElem_set, Fin.ext_iff]
@[simp] theorem State.pool_setPool_self (p : PoolNo) (r : Pool) : (s.setPool p r).pool p = r := by
  simp [State.pool_setPool]
@[simp] theorem State.pool_modPool_self (p : PoolNo) (f : Pool → Pool) : (s.modPool p f).pool p = f (s.pool p) := by
  simp [State.modPool]
theorem State.pool_modPool (p k : PoolNo) (f : Pool → Pool) :
    (s.modPool p f).pool k = if p = k then f (s.pool p) else s.pool k := State.pool_setPool s p k _
theorem State.account_setAccount (a k : AccountNo) (r : Account) :
    (s.setAccount a r).account k = if a = k then r else s.account k := by
  simp only [State.account, State.setAccount, Fin.getElem_fin, Vector.getElem_set, Fin.ext_iff]
@[simp] theorem State.account_setAccount_self (a : AccountNo) (r : Account) : (s.setAccount a r).account a = r := by
  simp [State.account_setAccount]
@[simp] theorem State.account_modAccount_self (a : AccountNo) (f : Account → Account) :
    (s.modAccount a f).account a = f (s.account a) := by
  simp [State.modAccount]
theorem State.account_modAccount (a k : AccountNo) (f : Account → Account) :
    (s.modAccount a f).account k = if a = k then f (s.account a) else s.account k := State.account_setAccount s a k _

/-! ## A table is what its entries are -/

theorem State.job_congr {s t : State} (h : t.jobs = s.jobs) (i : Slot) : t.job i = s.job i := by
  simp only [State.job, h]
theorem State.lane_congr {s t : State} (h : t.lanes = s.lanes) (l : LaneNo) : t.lane l = s.lane l := by
  simp only [State.lane, h]
theorem State.pool_congr {s t : State} (h : t.pools = s.pools) (p : PoolNo) : t.pool p = s.pool p := by
  simp only [State.pool, h]
theorem State.account_congr {s t : State} (h : t.accounts = s.accounts) (a : AccountNo) : t.account a = s.account a := by
  simp only [State.account, h]
@[simp] theorem State.lane_setJob (i : Slot) (j : Job) (k : LaneNo) : (s.setJob i j).lane k = s.lane k :=
  State.lane_congr (State.setJob_lanes s i j) k
@[simp] theorem State.pool_setJob (i : Slot) (j : Job) (k : PoolNo) : (s.setJob i j).pool k = s.pool k :=
  State.pool_congr (State.setJob_pools s i j) k
@[simp] theorem State.account_setJob (i : Slot) (j : Job) (k : AccountNo) : (s.setJob i j).account k = s.account k :=
  State.account_congr (State.setJob_accounts s i j) k
@[simp] theorem State.lane_modJob (i : Slot) (f : Job → Job) (k : LaneNo) : (s.modJob i f).lane k = s.lane k :=
  State.lane_congr (State.modJob_lanes s i f) k
@[simp] theorem State.pool_modJob (i : Slot) (f : Job → Job) (k : PoolNo) : (s.modJob i f).pool k = s.pool k :=
  State.pool_congr (State.modJob_pools s i f) k
@[simp] theorem State.account_modJob (i : Slot) (f : Job → Job) (k : AccountNo) : (s.modJob i f).account k = s.account k :=
  State.account_congr (State.modJob_accounts s i f) k
@[simp] theorem State.job_setLane (l : LaneNo) (r : Lane) (k : Slot) : (s.setLane l r).job k = s.job k :=
  State.job_congr (State.setLane_jobs s l r) k
@[simp] theorem State.pool_setLane (l : LaneNo) (r : Lane) (k : PoolNo) : (s.setLane l r).pool k = s.pool k :=
  State.pool_congr (State.setLane_pools s l r) k
@[simp] theorem State.account_setLane (l : LaneNo) (r : Lane) (k : AccountNo) : (s.setLane l r).account k = s.account k :=
  State.account_congr (State.setLane_accounts s l r) k
@[simp] theorem State.job_modLane (l : LaneNo) (f : Lane → Lane) (k : Slot) : (s.modLane l f).job k = s.job k :=
  State.job_congr (State.modLane_jobs s l f) k
@[simp] theorem State.pool_modLane (l : LaneNo) (f : Lane → Lane) (k : PoolNo) : (s.modLane l f).pool k = s.pool k :=
  State.pool_congr (State.modLane_pools s l f) k
@[simp] theorem State.account_modLane (l : LaneNo) (f : Lane → Lane) (k : AccountNo) : (s.modLane l f).account k = s.account k :=
  State.account_congr (State.modLane_accounts s l f) k
@[simp] theorem State.job_setPool (p : PoolNo) (r : Pool) (k : Slot) : (s.setPool p r).job k = s.job k :=
  State.job_congr (State.setPool_jobs s p r) k
@[simp] theorem State.lane_setPool (p : PoolNo) (r : Pool) (k : LaneNo) : (s.setPool p r).lane k = s.lane k :=
  State.lane_congr (State.setPool_lanes s p r) k
@[simp] theorem State.account_setPool (p : PoolNo) (r : Pool) (k : AccountNo) : (s.setPool p r).account k = s.account k :=
  State.account_congr (State.setPool_accounts s p r) k
@[simp] theorem State.job_modPool (p : PoolNo) (f : Pool → Pool) (k : Slot) : (s.modPool p f).job k = s.job k :=
  State.job_congr (State.modPool_jobs s p f) k
@[simp] theorem State.lane_modPool (p : PoolNo) (f : Pool → Pool) (k : LaneNo) : (s.modPool p f).lane k = s.lane k :=
  State.lane_congr (State.modPool_lanes s p f) k
@[simp] theorem State.account_modPool (p : PoolNo) (f : Pool → Pool) (k : AccountNo) : (s.modPool p f).account k = s.account k :=
  State.account_congr (State.modPool_accounts s p f) k
@[simp] theorem State.job_setAccount (a : AccountNo) (r : Account) (k : Slot) : (s.setAccount a r).job k = s.job k :=
  State.job_congr (State.setAccount_jobs s a r) k
@[simp] theorem State.lane_setAccount (a : AccountNo) (r : Account) (k : LaneNo) : (s.setAccount a r).lane k = s.lane k :=
  State.lane_congr (State.setAccount_lanes s a r) k
@[simp] theorem State.pool_setAccount (a : AccountNo) (r : Account) (k : PoolNo) : (s.setAccount a r).pool k = s.pool k :=
  State.pool_congr (State.setAccount_pools s a r) k
@[simp] theorem State.job_modAccount (a : AccountNo) (f : Account → Account) (k : Slot) : (s.modAccount a f).job k = s.job k :=
  State.job_congr (State.modAccount_jobs s a f) k
@[simp] theorem State.lane_modAccount (a : AccountNo) (f : Account → Account) (k : LaneNo) : (s.modAccount a f).lane k = s.lane k :=
  State.lane_congr (State.modAccount_lanes s a f) k
@[simp] theorem State.pool_modAccount (a : AccountNo) (f : Account → Account) (k : PoolNo) : (s.modAccount a f).pool k = s.pool k :=
  State.pool_congr (State.modAccount_pools s a f) k
@[simp] theorem State.job_transmit (l : LaneNo) (f : LinkFrame) (k : Slot) : (s.transmit l f).job k = s.job k :=
  State.job_congr (State.transmit_jobs s l f) k
@[simp] theorem State.lane_transmit (l : LaneNo) (f : LinkFrame) (k : LaneNo) : (s.transmit l f).lane k = s.lane k :=
  State.lane_congr (State.transmit_lanes s l f) k
@[simp] theorem State.pool_transmit (l : LaneNo) (f : LinkFrame) (k : PoolNo) : (s.transmit l f).pool k = s.pool k :=
  State.pool_congr (State.transmit_pools s l f) k
@[simp] theorem State.account_transmit (l : LaneNo) (f : LinkFrame) (k : AccountNo) : (s.transmit l f).account k = s.account k :=
  State.account_congr (State.transmit_accounts s l f) k
@[simp] theorem State.job_noteDispatch (p : PoolNo) (k : Slot) : (s.noteDispatch p).job k = s.job k :=
  State.job_congr (State.noteDispatch_jobs s p) k
@[simp] theorem State.lane_noteDispatch (p : PoolNo) (k : LaneNo) : (s.noteDispatch p).lane k = s.lane k :=
  State.lane_congr (State.noteDispatch_lanes s p) k
@[simp] theorem State.pool_noteDispatch (p : PoolNo) (k : PoolNo) : (s.noteDispatch p).pool k = s.pool k :=
  State.pool_congr (State.noteDispatch_pools s p) k
@[simp] theorem State.account_noteDispatch (p : PoolNo) (k : AccountNo) : (s.noteDispatch p).account k = s.account k :=
  State.account_congr (State.noteDispatch_accounts s p) k
@[simp] theorem State.job_noteRequeued (i : Slot) (k : Slot) : (s.noteRequeued i).job k = s.job k :=
  State.job_congr (State.noteRequeued_jobs s i) k
@[simp] theorem State.lane_noteRequeued (i : Slot) (k : LaneNo) : (s.noteRequeued i).lane k = s.lane k :=
  State.lane_congr (State.noteRequeued_lanes s i) k
@[simp] theorem State.pool_noteRequeued (i : Slot) (k : PoolNo) : (s.noteRequeued i).pool k = s.pool k :=
  State.pool_congr (State.noteRequeued_pools s i) k
@[simp] theorem State.account_noteRequeued (i : Slot) (k : AccountNo) : (s.noteRequeued i).account k = s.account k :=
  State.account_congr (State.noteRequeued_accounts s i) k
@[simp] theorem State.job_complete (p : QueuePtr) (r : Result) (v1 v2 : Word32) (k : Slot) : (s.complete p r v1 v2).job k = s.job k :=
  State.job_congr (State.complete_jobs s p r v1 v2) k
@[simp] theorem State.lane_complete (p : QueuePtr) (r : Result) (v1 v2 : Word32) (k : LaneNo) : (s.complete p r v1 v2).lane k = s.lane k :=
  State.lane_congr (State.complete_lanes s p r v1 v2) k
@[simp] theorem State.pool_complete (p : QueuePtr) (r : Result) (v1 v2 : Word32) (k : PoolNo) : (s.complete p r v1 v2).pool k = s.pool k :=
  State.pool_congr (State.complete_pools s p r v1 v2) k
@[simp] theorem State.account_complete (p : QueuePtr) (r : Result) (v1 v2 : Word32) (k : AccountNo) : (s.complete p r v1 v2).account k = s.account k :=
  State.account_congr (State.complete_accounts s p r v1 v2) k
@[simp] theorem State.job_begin (k : Slot) : (s.begin).job k = s.job k :=
  State.job_congr (State.begin_jobs s) k
@[simp] theorem State.lane_begin (k : LaneNo) : (s.begin).lane k = s.lane k :=
  State.lane_congr (State.begin_lanes s) k
@[simp] theorem State.pool_begin (k : PoolNo) : (s.begin).pool k = s.pool k :=
  State.pool_congr (State.begin_pools s) k
@[simp] theorem State.account_begin (k : AccountNo) : (s.begin).account k = s.account k :=
  State.account_congr (State.begin_accounts s) k
@[simp] theorem State.job_notice (n : Notice) (k : Slot) : (s.notice n).job k = s.job k :=
  State.job_congr (State.notice_jobs s n) k
@[simp] theorem State.lane_notice (n : Notice) (k : LaneNo) : (s.notice n).lane k = s.lane k :=
  State.lane_congr (State.notice_lanes s n) k
@[simp] theorem State.pool_notice (n : Notice) (k : PoolNo) : (s.notice n).pool k = s.pool k :=
  State.pool_congr (State.notice_pools s n) k
@[simp] theorem State.account_notice (n : Notice) (k : AccountNo) : (s.notice n).account k = s.account k :=
  State.account_congr (State.notice_accounts s n) k
@[simp] theorem State.job_noteRise (a : AccountNo) (k : Slot) : (s.noteRise a).job k = s.job k :=
  State.job_congr (State.noteRise_jobs s a) k
@[simp] theorem State.lane_noteRise (a : AccountNo) (k : LaneNo) : (s.noteRise a).lane k = s.lane k :=
  State.lane_congr (State.noteRise_lanes s a) k
@[simp] theorem State.pool_noteRise (a : AccountNo) (k : PoolNo) : (s.noteRise a).pool k = s.pool k :=
  State.pool_congr (State.noteRise_pools s a) k
@[simp] theorem State.account_noteRise (a : AccountNo) (k : AccountNo) : (s.noteRise a).account k = s.account k :=
  State.account_congr (State.noteRise_accounts s a) k
@[simp] theorem State.job_completeOpt (p : Option QueuePtr) (r : Result) (v1 v2 : Word32) (k : Slot) : (s.completeOpt p r v1 v2).job k = s.job k :=
  State.job_congr (State.completeOpt_jobs s p r v1 v2) k
@[simp] theorem State.lane_completeOpt (p : Option QueuePtr) (r : Result) (v1 v2 : Word32) (k : LaneNo) : (s.completeOpt p r v1 v2).lane k = s.lane k :=
  State.lane_congr (State.completeOpt_lanes s p r v1 v2) k
@[simp] theorem State.pool_completeOpt (p : Option QueuePtr) (r : Result) (v1 v2 : Word32) (k : PoolNo) : (s.completeOpt p r v1 v2).pool k = s.pool k :=
  State.pool_congr (State.completeOpt_pools s p r v1 v2) k
@[simp] theorem State.account_completeOpt (p : Option QueuePtr) (r : Result) (v1 v2 : Word32) (k : AccountNo) : (s.completeOpt p r v1 v2).account k = s.account k :=
  State.account_congr (State.completeOpt_accounts s p r v1 v2) k

end Sys2Proof.Machine
end

