-- ==== Sys2Proof/Laws/Memory.lean ====
section
/-! SUPPORT. Spool memory: a read after a write, and the canonical form that every operation keeps. -/

namespace Sys2Proof.Machine

/-- Below the first address that a canonical list can hold, every byte reads as never written. -/
theorem Memory.read_below {low : Nat} {m : List Host.Cell} (h : Memory.wfFrom low m) {a : Nat} (ha : a < low) :
    Memory.read m a = Memory.unwritten := by
  induction m generalizing low with
  | nil => rfl
  | cons c rest ih =>
    obtain ⟨b, v⟩ := c
    simp only [Memory.wfFrom, Bool.and_eq_true, decide_eq_true_eq] at h
    rw [Memory.read, if_neg (by omega)]
    exact ih h.2 (by omega)

/-- A write leaves every other address alone. -/
theorem Memory.read_write_other (m : List Host.Cell) {a x : Nat} (v : Byte) (h : x ≠ a) :
    Memory.read (Memory.write m a v) x = Memory.read m x := by
  induction m with
  | nil => unfold Memory.write; split <;> simp [Memory.read, h]
  | cons c rest ih =>
    obtain ⟨b, w⟩ := c
    unfold Memory.write
    split
    · split <;> simp [Memory.read, h]
    · split
      · subst_vars; split <;> simp [Memory.read, h]
      · simp only [Memory.read, ih]

/-- A read after a write to the same address gives the value written. -/
theorem Memory.read_write_same {low : Nat} {m : List Host.Cell} (h : Memory.wfFrom low m) (a : Nat) (v : Byte) :
    Memory.read (Memory.write m a v) a = v := by
  induction m generalizing low with
  | nil => unfold Memory.write; split <;> simp_all [Memory.read]
  | cons c rest ih =>
    obtain ⟨b, w⟩ := c
    simp only [Memory.wfFrom, Bool.and_eq_true, decide_eq_true_eq] at h
    unfold Memory.write
    split
    · split
      · rename_i hv; rw [Memory.read, if_neg (by omega), hv]; exact Memory.read_below h.2 (by omega)
      · simp [Memory.read]
    · split
      · split
        · rename_i hab hv; rw [hv]; exact Memory.read_below h.2 (by omega)
        · simp [Memory.read]
      · rename_i hab; rw [Memory.read, if_neg hab]; exact ih h.2

/-- A form that holds from an address on holds from any lower one on. -/
theorem Memory.wfFrom_mono {low b : Nat} {m : List Host.Cell} (h : Memory.wfFrom (b + 1) m) (hb : low ≤ b) :
    Memory.wfFrom low m := by
  cases m with
  | nil => rfl
  | cons c rest =>
    obtain ⟨d, v⟩ := c
    simp only [Memory.wfFrom, Bool.and_eq_true, decide_eq_true_eq] at h ⊢
    exact ⟨⟨by omega, h.1.2⟩, h.2⟩

/-- A write keeps the canonical form from an address on. -/
theorem Memory.wfFrom_write {low : Nat} {m : List Host.Cell} (h : Memory.wfFrom low m) {a : Nat} (ha : low ≤ a) (v : Byte) :
    Memory.wfFrom low (Memory.write m a v) := by
  induction m generalizing low with
  | nil => unfold Memory.write; split <;> simp_all [Memory.wfFrom]
  | cons c rest ih =>
    obtain ⟨b, w⟩ := c
    have h' := h
    simp only [Memory.wfFrom, Bool.and_eq_true, decide_eq_true_eq] at h
    unfold Memory.write
    split
    · split
      · exact h'
      · rename_i hab hv
        simp only [Memory.wfFrom, Bool.and_eq_true, decide_eq_true_eq, bne_iff_ne]
        exact ⟨⟨ha, hv⟩, ⟨⟨by omega, by simpa using h.1.2⟩, h.2⟩⟩
    · split
      · subst_vars
        split
        · exact Memory.wfFrom_mono h.2 (by omega)
        · rename_i hv
          simp only [Memory.wfFrom, Bool.and_eq_true, decide_eq_true_eq, bne_iff_ne]
          exact ⟨⟨ha, hv⟩, h.2⟩
      · simp only [Memory.wfFrom, Bool.and_eq_true, decide_eq_true_eq]
        exact ⟨h.1, ih h.2 (by omega)⟩

/-- A write keeps the canonical form. -/
theorem Memory.wf_write {m : List Host.Cell} (h : Memory.wf m) (a : Nat) (v : Byte) : Memory.wf (Memory.write m a v) :=
  Memory.wfFrom_write h (Nat.zero_le a) v

/-- Storing a run of bytes keeps the canonical form. -/
theorem Memory.wf_storeBytes (j : Job) {m : List Host.Cell} (h : Memory.wf m) (k : Nat) (bs : List Byte) :
    Memory.wf (storeBytes j m k bs) := by
  induction bs generalizing m k with
  | nil => exact h
  | cons b rest ih => exact ih (Memory.wf_write h _ b) (k + 1)

/-- Storing a run of bytes leaves every address outside the run alone. -/
theorem read_storeBytes_other (j : Job) (m : List Host.Cell) (k : Nat) (bs : List Byte) (x : Nat)
    (h : ∀ d, d < bs.length → x ≠ storeAddress j (k + d)) :
    Memory.read (storeBytes j m k bs) x = Memory.read m x := by
  induction bs generalizing m k with
  | nil => rfl
  | cons b rest ih =>
    rw [storeBytes, ih _ (k + 1) fun d hd => by
      have := h (d + 1) (by simpa using hd)
      rwa [show k + (d + 1) = k + 1 + d by omega] at this]
    exact Memory.read_write_other m b (h 0 (by simp))

/-- What a stored run of bytes leaves at its own addresses, when no two of them meet. -/
theorem read_storeBytes_same (j : Job) (m : List Host.Cell) (hm : Memory.wf m) (k : Nat) (bs : List Byte)
    (hd : ∀ c d, c < bs.length → d < bs.length → storeAddress j (k + c) = storeAddress j (k + d) → c = d)
    (d : Nat) (h : d < bs.length) :
    Memory.read (storeBytes j m k bs) (storeAddress j (k + d)) = bs[d] := by
  induction bs generalizing m k d with
  | nil => simp at h
  | cons b rest ih =>
    rw [storeBytes]
    cases d with
    | zero =>
      rw [read_storeBytes_other]
      · exact Memory.read_write_same hm _ b
      · intro e he h0
        have := hd 0 (e + 1) (by simp) (by simpa using he) (by rw [h0, show k + (e + 1) = k + 1 + e by omega])
        omega
    | succ e =>
      have := ih (Memory.write m (storeAddress j k) b) (Memory.wf_write hm _ b) (k + 1)
        (fun c c' hc hc' heq => by
          have := hd (c + 1) (c' + 1) (by simpa using hc) (by simpa using hc')
            (by rwa [show k + (c + 1) = k + 1 + c by omega, show k + (c' + 1) = k + 1 + c' by omega])
          omega) e (by simpa using h)
      simpa [show k + (e + 1) = k + 1 + e by omega] using this

end Sys2Proof.Machine
end

