-- ==== Sys2Proof/Laws/Stable.lean ====
section
/-! SUPPORT. What every command keeps: a predicate that each elementary update keeps is kept by every shared operation. -/

namespace Sys2Proof.Machine

/-- A predicate kept by each elementary update of the state but for the storing of payload. The tables that a predicate of this kind
does not look at may change in any way; the notice queue, the alert log, the accounts, the tiers, the counters, the pointers of the
directive queue and the confirm cursors change only as the model's operations change them. -/
structure Steady (P : State → Prop) : Prop where
  jobs : ∀ {s}, P s → ∀ i j, (j.hasPassed = true → (s.job i).hasPassed = true) → P (s.setJob i j)
  lanes : ∀ {s}, P s → ∀ v, P { s with lanes := v }
  pools : ∀ {s}, P s → ∀ v, P { s with pools := v }
  cache : ∀ {s}, P s → ∀ v, P { s with cache := v }
  sharedFree : ∀ {s}, P s → ∀ v, P { s with sharedFree := v }
  waitList : ∀ {s}, P s → ∀ v, P { s with waitList := v }
  rates : ∀ {s}, P s → ∀ v, P { s with rates := v }
  ring : ∀ {s}, P s → ∀ v, P { s with queue := { s.queue with ring := v } }
  marks : ∀ {s}, P s → ∀ e x, P { s with queue := { s.queue with ext := e, resetTaken := x } }
  admits : ∀ {s}, P s → s.queue.held < 64 → P { s with queue := { s.queue with tail := s.queue.tail + 1 } }
  takes : ∀ {s}, P s → s.queue.take ≠ s.queue.tail → P { s with queue := { s.queue with take := s.queue.take + 1 } }
  retires : ∀ {s}, P s → s.queue.retire ≠ s.queue.take → P { s with queue := { s.queue with retire := s.queue.retire + 1 } }
  todo : ∀ {s}, P s → ∀ v, P { s with todo := v }
  noticeAddr : ∀ {s}, P s → ∀ v, P { s with noticeAddr := v }
  intakeMask : ∀ {s}, P s → ∀ v, P { s with intakeMask := v }
  pending : ∀ {s}, P s → ∀ v, P { s with pending := v }
  resetLow : ∀ {s}, P s → ∀ v, P { s with resetLow := v }
  unknownStream : ∀ {s}, P s → ∀ n, P { s with unknownStream := bump n }
  closedStream : ∀ {s}, P s → ∀ n, P { s with closedStream := bump n }
  duplicates : ∀ {s}, P s → ∀ n, P { s with duplicates := bump n }
  badHeaders : ∀ {s}, P s → ∀ n, P { s with badHeaders := bump n }
  overruns : ∀ {s}, P s → ∀ n, P { s with overruns := bump n }
  notice : ∀ {s}, P s → ∀ n, P (s.notice n)
  sendFirst : ∀ {s}, P s → ∀ n rest, s.notices = n :: rest → ∀ x, P { s with notices := rest, sent := s.sent ++ [x] }
  sent : ∀ {s}, P s → ∀ x, P { s with sent := s.sent ++ [x] }
  alert : ∀ {s}, P s → ∀ e, P (s.raiseAlert e)
  relay : ∀ {s}, P s → ∀ p i, P (s.relayHeld p i)
  ackOne : ∀ {s}, P s → ∀ i : Fin 32, P { s with alerts := s.alerts.set i none }
  ackAll : ∀ {s}, P s → P { s with alerts := Vector.replicate 32 none, overflow := false }
  raisePending : ∀ {s}, P s → ∀ a e, P (s.raisePending a e)
  dropPending : ∀ {s}, P s → ∀ a e, P (s.modAccount a fun r => { r with pending := r.pending - e })
  debited : ∀ {s}, P s → ∀ a x e, P (s.modAccount a fun r => r.debit x e)
  opened : ∀ {s}, P s → ∀ a l b, balanceInRange b = true → P (s.setAccount a (Account.opened (clampLimit l) b))
  closed : ∀ {s}, P s → ∀ a, P (s.modAccount a fun r => { r with isOpen := false })
  limit : ∀ {s}, P s → ∀ a l, P (s.modAccount a fun r => { r with limit := clampLimit l })
  swapped : ∀ {s}, P s → ∀ a b, balanceInRange b = true → P (s.modAccount a fun r => { r with balance := b })
  rolled : ∀ {s}, P s → ∀ a, P (s.modAccount a Account.rolled)
  tiers : ∀ {s}, P s → ∀ (k : Fin 4) v (th pct : Word32),
    (if k = 0 || !v then none else s.tierConflict k th.toNat) = none →
      P { s with tiers := s.tiers.set k (tierStored k v th.toNat pct.toNat) }
  tick : ∀ {s}, P s → ∀ v, P { s with tick := s.tick + 1, lanes := v }
  restart : ∀ {s}, P s → ∀ straps changes, P (s.restart straps changes)

/-- A predicate kept by each elementary update of the state, the storing of payload included. -/
structure Stable (P : State → Prop) : Prop extends Steady P where
  mem : ∀ {s}, P s → ∀ j k bs, P { s with mem := storeBytes j s.mem k bs }

variable {P : State → Prop} {s : State}

theorem setJob_setJob (s : State) (i : Slot) (j k : Job) : (s.setJob i j).setJob i k = s.setJob i k := by
  unfold State.setJob; simp

namespace Steady

theorem foldl (_ : Steady P) {α : Type} {f : State → α → State} (hf : ∀ t a, P t → P (f t a)) (l : List α) (hs : P s) :
    P (l.foldl f s) := by
  induction l generalizing s with
  | nil => exact hs
  | cons a rest ih => exact ih (hf s a hs)

/-! ## Tables, wires, bookkeeping -/

theorem modJob (h : Steady P) (hs : P s) (i : Slot) (f : Job → Job)
    (hf : (f (s.job i)).hasPassed = true → (s.job i).hasPassed = true := by exact id) : P (s.modJob i f) := h.jobs hs _ _ hf
theorem setJob (h : Steady P) (hs : P s) (i : Slot) (j : Job) (hj : j.hasPassed = false) : P (s.setJob i j) :=
  h.jobs hs i j fun e => by rw [hj] at e; cases e
theorem modLane (h : Steady P) (hs : P s) (l : LaneNo) (f : Lane → Lane) : P (s.modLane l f) := h.lanes hs _
theorem modPool (h : Steady P) (hs : P s) (p : PoolNo) (f : Pool → Pool) : P (s.modPool p f) := h.pools hs _
theorem transmit (h : Steady P) (hs : P s) (l : LaneNo) (f : LinkFrame) : P (s.transmit l f) := h.sent hs _
theorem noteDispatch (h : Steady P) (hs : P s) (p : PoolNo) : P (s.noteDispatch p) := h.todo hs _
theorem noteRise (h : Steady P) (hs : P s) (a : AccountNo) : P (s.noteRise a) := by
  unfold State.noteRise; split
  · exact hs
  · exact h.todo hs _
theorem complete (h : Steady P) (hs : P s) (p : QueuePtr) (r : Result) (v1 v2 : Word32) : P (s.complete p r v1 v2) :=
  h.todo hs _
theorem answer (h : Steady P) (hs : P s) (p : QueuePtr) (a : Result × Word32 × Word32) : P (s.answer p a) := h.todo hs _
theorem completeOpt (h : Steady P) (hs : P s) (p : Option QueuePtr) (r : Result) (v1 v2 : Word32) :
    P (s.completeOpt p r v1 v2) := by
  cases p with
  | none => exact hs
  | some q => exact h.complete hs q r v1 v2
theorem begin (h : Steady P) (hs : P s) : P s.begin := h.todo hs _
theorem relayUnmasked (h : Steady P) (hs : P s) (p : AlertRecord → Bool) : P (s.relayUnmasked p) :=
  h.foldl (fun t i ht => h.relay (s := t) ht p i) _ hs

/-! ## Accounts -/

theorem noteHeadroom (h : Steady P) (hs : P s) (a : AccountNo) (b : Int) : P (s.noteHeadroom a b) := by
  unfold State.noteHeadroom; split
  · exact h.noteRise hs a
  · exact hs
theorem lowerPending (h : Steady P) (hs : P s) (a : AccountNo) (e : Nat) : P (s.lowerPending a e) :=
  h.noteHeadroom (h.dropPending hs a e) a _
theorem debit (h : Steady P) (hs : P s) (a : AccountNo) (x e : Nat) : P (s.debit a x e) :=
  h.noteHeadroom (h.debited hs a x e) a _

/-! ## The spool manager -/

theorem freeBlock (h : Steady P) (hs : P s) (b : Nat) : P (s.freeBlock b) := by
  unfold State.freeBlock; split
  · exact h.modPool hs _ _
  · exact h.sharedFree hs _
theorem freeBlocks (h : Steady P) (hs : P s) (bs : List Nat) : P (s.freeBlocks bs) :=
  h.foldl (fun t b ht => h.freeBlock (s := t) ht b) bs hs
theorem joinWait (h : Steady P) (hs : P s) (i : Slot) : P (s.joinWait i) := by
  unfold State.joinWait; split
  · exact h.waitList hs _
  · exact hs
theorem leaveWait (h : Steady P) (hs : P s) (i : Slot) : P (s.leaveWait i) := h.waitList hs _
theorem grantTo (h : Steady P) (hs : P s) (i : Slot) : P (s.grantTo i) := by
  unfold State.grantTo; split
  · exact hs
  · dsimp only; split
    · exact h.notice (h.modJob hs _ _) _
    · exact h.leaveWait (h.notice (h.modJob hs _ _) _) _
theorem walk (h : Steady P) (hs : P s) : P s.walk := h.foldl (fun t i ht => h.grantTo (s := t) ht i) _ hs
theorem returnPromise (h : Steady P) (hs : P s) (i : Slot) : P (s.returnPromise i) := by
  unfold State.returnPromise; dsimp only; split
  · exact h.walk (h.leaveWait (h.modJob hs _ _) _)
  · exact h.leaveWait (h.modJob hs _ _) _
theorem allocate (h : Steady P) (hs : P s) (i : Slot) : P (s.allocate i) := by
  unfold State.allocate; split
  · split
    · exact h.modJob (h.modPool hs _ _) _ _
    · exact hs
  · split
    · exact h.modJob (h.sharedFree hs _) _ _
    · exact hs
theorem allocateMany (h : Steady P) (n : Nat) (hs : P s) (i : Slot) : P (State.allocateMany n s i) := by
  induction n generalizing s with
  | zero => exact hs
  | succ n ih => exact ih (h.allocate hs i)
/-- Whatever a job's cursors did, the release pass leaves no passed record (R42 to R44). -/
theorem releasePass (h : Steady P) (hs : P s) (i : Slot) (j : Job) : P ((s.setJob i j).releasePass i) := by
  unfold State.releasePass; rw [State.job_setJob_self]; split
  · have : ∀ c n, P ((s.setJob i j).setJob i { j.passRecords with chain := c, released := n }) := fun c n => by
      rw [setJob_setJob]; exact h.setJob hs _ _ (by simp [Job.hasPassed, Job.passRecords])
    dsimp only; split
    · exact h.walk (h.freeBlocks (this _ _) _)
    · exact h.freeBlocks (this _ _) _
  · rename_i e; exact h.setJob hs _ _ (by simpa using e)

/-! ## The job table -/

theorem joinTail (h : Steady P) (hs : P s) (i : Slot) : P (s.joinTail i) := h.noteDispatch (h.modPool hs _ _) _
theorem joinFront (h : Steady P) (hs : P s) (i : Slot) : P (s.joinFront i) := h.noteDispatch (h.todo (h.modPool hs _ _) _) _
theorem leaveQueue (h : Steady P) (hs : P s) (i : Slot) : P (s.leaveQueue i) := h.modPool hs _ _
theorem requeue (h : Steady P) (hs : P s) (i : Slot) : P (s.requeue i) := h.joinFront (h.modJob hs _ _) _
theorem leaveReady (h : Steady P) (hs : P s) (l : LaneNo) : P (s.leaveReady l) := h.modPool hs _ _
theorem enterIdle (h : Steady P) (hs : P s) (l : LaneNo) : P (s.enterIdle l) := by
  unfold State.enterIdle; split
  · exact h.noteDispatch (h.modPool (h.modLane hs _ _) _ _) _
  · exact h.modLane hs _ _
theorem unbind (h : Steady P) (hs : P s) (l : LaneNo) : P (s.unbind l) := by
  have h1 : ∀ t, P t → P (if (t.lane l).state = .bound then t.enterIdle l else t) := fun t ht => by
    split
    · exact h.enterIdle ht l
    · exact ht
  unfold State.unbind; dsimp only; split
  · exact h.relayUnmasked (h.complete (h1 _ (h.modLane hs _ _)) _ _ _ _) _
  · exact h1 _ (h.modLane hs _ _)
theorem leaveLane (h : Steady P) (hs : P s) (i : Slot) : P (s.leaveLane i) := by
  unfold State.leaveLane; split
  · exact h.unbind (h.modJob hs _ _) _
  · exact hs
theorem enterHeld (h : Steady P) (hs : P s) (i : Slot) : P (s.enterHeld i) :=
  h.leaveLane (h.completeOpt (h.notice (h.modJob hs _ _) _) _ _ _ _) _
theorem raiseReason (h : Steady P) (hs : P s) (i : Slot) (r : Reason) : P (s.raiseReason i r) := by
  unfold State.raiseReason; dsimp only; split
  · exact h.enterHeld (h.leaveQueue (h.modJob hs _ _) _) _
  · split
    · exact h.modJob (h.modJob hs _ _) _ _
    · exact h.enterHeld (h.modJob hs _ _) _
  · exact h.modJob hs _ _
  · exact h.modJob hs _ _
  · exact hs
  · exact hs
theorem settleHolding (h : Steady P) (hs : P s) (i : Slot) : P (s.settleHolding i) := by
  unfold State.settleHolding; split
  · exact h.enterHeld hs i
  · exact hs
theorem releaseJob (h : Steady P) (hs : P s) (i : Slot) (c : Bool) : P (s.releaseJob i c) := by
  unfold State.releaseJob; dsimp only
  refine h.walk (h.completeOpt (h.completeOpt (h.setJob (h.cache (h.leaveWait (h.freeBlocks (h.leaveLane ?_ _) _) _) _) _ _ rfl)
    _ _ _ _) _ _ _ _)
  split
  · exact h.leaveQueue (h.notice hs _) _
  · exact h.notice hs _
theorem testCompletion (h : Steady P) (hs : P s) (i : Slot) : P (s.testCompletion i) := by
  unfold State.testCompletion; split
  · exact h.releaseJob hs i false
  · exact hs
theorem settle (h : Steady P) (hs : P s) (i : Slot) : P (s.settle i) :=
  h.testCompletion (h.releasePass hs i _) i
/-- A job's cursors may move in any way before they are settled. -/
theorem settleOver (h : Steady P) (hs : P s) (i : Slot) (f : Job → Job) : P ((s.modJob i f).settle i) := by
  unfold State.settle; rw [show (s.modJob i f).modJob i (fun j => j.settleSend.settleConfirm)
    = s.setJob i (f (s.job i)).settleSend.settleConfirm by unfold State.modJob; rw [setJob_setJob, State.job_setJob_self]]
  exact h.testCompletion (h.releasePass hs i _) i
theorem settleBound (h : Steady P) (hs : P s) (i : Slot) : P (s.settleBound i) := by
  unfold State.settleBound; split
  · exact h.settle hs i
  · exact hs
theorem countDamage (h : Steady P) (hs : P s) (i : Slot) (r : DamageReason) (n : Nat) : P (s.countDamage i r n) :=
  h.alert (h.modJob hs _ _) _
theorem damageInProgress (h : Steady P) (hs : P s) (i : Slot) (r : DamageReason) : P (s.damageInProgress i r) := by
  unfold State.damageInProgress; split
  · exact h.settleBound (h.countDamage (h.modJob hs _ _) _ _ _) _
  · exact hs
theorem noteSendable (h : Steady P) (hs : P s) (i : Slot) : P (s.noteSendable i) := by
  unfold State.noteSendable; split
  · exact h.noteDispatch hs _
  · exact hs
theorem closeIntake (h : Steady P) (hs : P s) (i : Slot) : P (s.closeIntake i) := by
  unfold State.closeIntake; dsimp only
  refine h.noteSendable ?_ i
  have := h.returnPromise (h.modJob (h.damageInProgress hs i .short) i fun j => { j with intakeOpen := false }) i
  split
  · exact h.settle this i
  · exact h.testCompletion this i

/-! ## Delivery -/

theorem refuseSheet (h : Steady P) (hs : P s) (l : LaneNo) (i : Slot) (c n : Nat) : P (s.refuseSheet l i c n) :=
  h.settleHolding (h.raiseReason (h.alert (h.modLane hs _ _) _) _ _) _
theorem sendOffer (h : Steady P) (hs : P s) (l : LaneNo) (i : Slot) (rec : SheetRecord) : P (s.sendOffer l i rec) :=
  h.transmit (h.modLane (h.raisePending hs _ _) _ _) _ _
theorem offerStep (h : Steady P) (hs : P s) (l : LaneNo) : P (s.offerStep l) := by
  unfold State.offerStep; split
  · split
    · exact h.refuseSheet hs _ _ _ _
    · split
      · exact h.sendOffer hs _ _ _
      · exact h.raiseReason (h.alert hs _) _ _
  · exact hs
theorem offerBound (h : Steady P) (hs : P s) (i : Slot) : P (s.offerBound i) := by
  unfold State.offerBound; split
  · exact h.offerStep hs _
  · exact hs
theorem transmitAll (h : Steady P) (hs : P s) (l : LaneNo) (fs : List LinkFrame) : P (s.transmitAll l fs) :=
  h.foldl (fun t f ht => h.transmit (s := t) ht l f) fs hs
theorem confirmHead (h : Steady P) (hs : P s) (l : LaneNo) : P (s.confirmHead l) := by
  unfold State.confirmHead; split
  · exact h.settleOver (h.modLane (h.debit hs _ _ _) _ _) _ _
  · exact hs
theorem confirmMany (h : Steady P) (n : Nat) (hs : P s) (l : LaneNo) : P (State.confirmMany n s l) := by
  induction n generalizing s with
  | zero => exact hs
  | succ n ih => exact ih (h.confirmHead hs l)
theorem spoilHead (h : Steady P) (hs : P s) (l : LaneNo) : P (s.spoilHead l) := by
  unfold State.spoilHead; split
  · dsimp only; split
    · exact h.modJob (h.modLane (h.lowerPending hs _ _) _ _) _ _
    · exact h.modLane (h.lowerPending hs _ _) _ _
  · exact hs
theorem spoilMany (h : Steady P) (n : Nat) (hs : P s) (l : LaneNo) : P (State.spoilMany n s l) := by
  induction n generalizing s with
  | zero => exact hs
  | succ n ih => exact ih (h.spoilHead hs l)
theorem spoilAll (h : Steady P) (hs : P s) (l : LaneNo) : P (s.spoilAll l) := h.spoilMany _ hs l
theorem dropOffer (h : Steady P) (hs : P s) (l : LaneNo) : P (s.dropOffer l) := by
  unfold State.dropOffer; split
  · exact h.modLane (h.lowerPending hs _ _) _ _
  · exact hs
theorem settleAt (h : Steady P) (hs : P s) (l : LaneNo) (q : Option Word16) : P (s.settleAt l q) :=
  h.spoilAll (h.confirmMany _ hs l) l
theorem rewind (h : Steady P) (hs : P s) (l : LaneNo) (i : Slot) : P (s.rewind l i) := by
  unfold State.rewind; dsimp only
  exact h.modLane (h.settle (h.modJob hs _ _) i) _ _
theorem rewindBound (h : Steady P) (hs : P s) (l : LaneNo) : P (s.rewindBound l) := by
  unfold State.rewindBound; split
  · split
    · exact h.rewind hs _ _
    · exact hs
  · exact hs
theorem sendAbort (h : Steady P) (hs : P s) (l : LaneNo) : P (s.sendAbort l) := h.transmit (h.modLane hs _ _) _ _
theorem enterTraining (h : Steady P) (hs : P s) (l : LaneNo) : P (s.enterTraining l) := h.transmit (h.modLane hs _ _) _ _
theorem moveOnLost (h : Steady P) (hs : P s) (i : Slot) : P (s.moveOnLost i) := by
  unfold State.moveOnLost; split
  · exact h.requeue (h.leaveLane hs _) _
  · exact h.enterHeld hs _
  · exact h.releaseJob hs _ _
  · exact hs
theorem loseWork (h : Steady P) (hs : P s) (l : LaneNo) : P (s.loseWork l) :=
  h.rewindBound (h.modLane (h.alert (h.spoilAll (h.dropOffer (h.modLane hs _ _) l) l) _) _ _) l
theorem loseJob (h : Steady P) (hs : P s) (l : LaneNo) : P (s.loseJob l) := by
  unfold State.loseJob; split
  · exact h.moveOnLost hs _
  · exact hs
theorem retrain (h : Steady P) (hs : P s) (l : LaneNo) : P (s.retrain l) := by
  unfold State.retrain; split
  · exact h.enterTraining hs l
  · exact hs
theorem laneLoss (h : Steady P) (hs : P s) (l : LaneNo) : P (s.laneLoss l) := h.retrain (h.loseJob (h.loseWork hs l) l) l

/-! ## The dispatcher, the funds rises, the end of an event -/

theorem bindJob (h : Steady P) (hs : P s) (l : LaneNo) (i : Slot) : P (s.bindJob l i) :=
  h.offerStep (h.settle (h.notice (h.modLane (h.modJob (h.leaveReady (h.leaveQueue hs i) l) _ _) _ _) _) i) l
theorem dispatchPool (h : Steady P) (n : Nat) (hs : P s) (p : PoolNo) : P (State.dispatchPool n s p) := by
  induction n generalizing s with
  | zero => exact hs
  | succ n ih =>
    unfold State.dispatchPool; split
    · exact ih (h.bindJob hs _ _)
    · exact hs
theorem dispatchNoted (h : Steady P) (hs : P s) : P s.dispatchNoted :=
  h.todo (h.foldl (fun t p ht => h.dispatchPool (s := t) _ ht p) _ hs) _
theorem liftFunds (h : Steady P) (hs : P s) (a : AccountNo) (i : Slot) : P (s.liftFunds a i) := by
  unfold State.liftFunds; split
  · dsimp only; split
    · split
      · exact h.requeue (h.modJob hs _ _) _
      · exact h.modJob (h.modJob hs _ _) _ _
      · exact h.modJob hs _ _
    · exact h.modJob hs _ _
  · exact hs
theorem fundsRise (h : Steady P) (hs : P s) (a : AccountNo) : P (s.fundsRise a) :=
  h.foldl (fun t i ht => h.offerBound (s := t) ht i) _ (h.foldl (fun t i ht => h.liftFunds (s := t) ht a i) _ hs)
theorem risesNoted (h : Steady P) (hs : P s) : P s.risesNoted :=
  h.todo (h.foldl (fun t a ht => h.fundsRise (s := t) ht a) _ hs) _
theorem setCond (h : Steady P) (hs : P s) (p : QueuePtr) (c : Condition) : P (s.setCond p c) := h.ring hs _
theorem retireBy (h : Steady P) (n : Nat) (hs : P s) : P (State.retireBy n s) := by
  induction n generalizing s with
  | zero => exact hs
  | succ n ih =>
    unfold State.retireBy; split
    · rename_i e; exact ih (h.retires hs (by simp only [Bool.and_eq_true, bne_iff_ne] at e; exact e.1))
    · exact hs
theorem replyFrame (h : Steady P) (hs : P s) (p : QueuePtr) : P (s.replyFrame p) := by
  unfold State.replyFrame; split
  · dsimp only; split
    · exact h.retireBy _ (h.todo (h.notice hs _) _)
    · exact h.retireBy _ (h.notice hs _)
  · exact hs
theorem completeReset (h : Steady P) (hs : P s) (p : QueuePtr) : P (s.completeReset p) := by
  unfold State.completeReset; dsimp only; split
  · split
    · exact h.setCond hs _ _
    · exact hs
  · exact hs
theorem finishEntry (h : Steady P) (hs : P s) (p : QueuePtr) (r : Result) (v1 v2 : Word32) : P (s.finishEntry p r v1 v2) :=
  h.replyFrame (h.completeReset (h.setCond hs _ _) _) _
theorem fenceNotice (h : Steady P) (hs : P s) (p : QueuePtr) : P (s.fenceNotice p) := by
  unfold State.fenceNotice; split
  · exact h.notice hs _
  · exact hs
theorem completeFences (h : Steady P) (n : Nat) (hs : P s) : P (State.completeFences n s) := by
  induction n generalizing s with
  | zero => exact hs
  | succ n ih =>
    unfold State.completeFences; split
    · exact ih (h.finishEntry (h.fenceNotice hs _) _ _ _ _)
    · exact hs
theorem carryOut (h : Steady P) (hs : P s) (c : Completion) : P (s.carryOut c) :=
  h.completeFences _ (h.finishEntry hs _ _ _ _)
theorem completionsNoted (h : Steady P) (hs : P s) : P s.completionsNoted :=
  h.foldl (fun t c ht => h.carryOut (s := t) ht c) _ hs
theorem finish (h : Steady P) (hs : P s) : P s.finish := by
  have := h.completionsNoted (h.dispatchNoted (h.risesNoted (h.dispatchNoted hs)))
  unfold State.finish; dsimp only; split
  · exact h.restart this _ _
  · exact h.todo this _
theorem closeExtend (h : Steady P) (hs : P s) (w : Bool) : P (s.closeExtend w) := by
  unfold State.closeExtend; split
  · exact h.marks (h.setCond hs _ _) none _
  · exact hs
theorem taken (h : Steady P) (hs : P s) (w : Bool) (ht : s.queue.take ≠ s.queue.tail) : P (s.taken w) := by
  refine h.takes (h.setCond (h.closeExtend (h.begin hs) w) _ _) ?_
  unfold State.closeExtend; split <;> exact ht

end Steady

end Sys2Proof.Machine
end

