-- ==== Sys2Proof/Laws/StableExec.lean ====
section
/-! SUPPORT. A predicate that each elementary update keeps is kept by every command and by every step. -/

namespace Sys2Proof.Machine

variable {P : State → Prop} {s : State}

namespace Steady

/-! ## The shapes of an event -/

theorem event (h : Steady P) (hs : P s) {f : State → State} (hf : ∀ t, P t → P (f t)) :
    ∃ t, Machine.event s f = .next t ∧ P t := by
  refine ⟨_, rfl, ?_⟩
  split
  · exact hs
  · exact h.finish (hf _ (h.begin hs))
theorem takeDirective (h : Steady P) (hs : P s) (c : Instr) (w : Bool) {f : QueuePtr → State → State}
    (hf : ∀ p t, P t → P (f p t)) : ∃ t, Machine.takeDirective c w s f = .next t ∧ P t := by
  refine ⟨_, rfl, ?_⟩
  split
  · rename_i e
    exact h.finish (hf _ _ (h.taken hs w (by simp only [State.takeable, Bool.and_eq_true, bne_iff_ne] at e; exact e.1.2)))
  · exact hs
theorem hear (h : Steady P) (hs : P s) (l : LaneNo) : P (s.hear l) := by
  unfold State.hear; split
  · exact hs
  · exact h.modLane hs _ _
theorem receive (h : Steady P) (hs : P s) (l : LaneNo) (g : Lane → Bool) {f : State → State} (hf : ∀ t, P t → P (f t)) :
    ∃ t, Machine.receive l s g f = .next t ∧ P t := by
  refine ⟨_, rfl, ?_⟩
  split
  · exact hs
  · split
    · exact h.finish (hf _ (h.hear (h.begin hs) l))
    · exact h.finish (h.modLane (h.hear (h.begin hs) l) _ _)
theorem answerFrame (h : Steady P) (hs : P s) (l : LaneNo) (q : Word16) {f : State → Slot → Offer → State}
    (hf : ∀ t i o, P t → P (f t i o)) : ∃ t, Machine.answer l q s f = .next t ∧ P t :=
  h.receive hs l _ fun t ht => by
    split
    · exact hf _ _ _ ht
    · exact ht
theorem expiry (h : Steady P) (hs : P s) (l : LaneNo) (g : Lane → Bool) {f : State → State} (hf : ∀ t, P t → P (f t)) :
    ∃ t, Machine.expiry l s g f = .next t ∧ P t :=
  h.event hs fun t ht => by
    split
    · exact hf _ ht
    · exact ht
theorem carrierEvent (h : Steady P) (hs : P s) (l : LaneNo) (b : Bool) {f : State → State} (hf : ∀ t, P t → P (f t)) :
    ∃ t, Machine.carrierEvent l b s f = .next t ∧ P t := by
  refine ⟨_, rfl, ?_⟩
  split
  · exact h.modLane hs _ _
  · exact h.finish (hf _ (h.modLane (h.begin hs) _ _))

/-! ## Intake -/

theorem classify (h : Steady P) (hs : P s) (tag : Word16) : P (s.classify tag).1 := by
  unfold State.classify; split
  · split
    · exact hs
    · exact h.closedStream hs _
  · split
    · exact h.cache hs _
    · exact h.unknownStream hs _
theorem sequence (h : Steady P) (hs : P s) (i : Slot) (q : Word16) : P (s.sequence i q).1 := by
  unfold State.sequence; split
  · exact h.modJob hs i fun j => { j with expected := q + 1 }
  · split
    · exact h.duplicates hs _
    · exact h.modJob (h.damageInProgress hs i .gap) i fun j => { j with expected := q + 1 }
theorem spoolFrame (h : Steady P) (hs : P s) (tag seq : Word16) {f : State → Slot → State}
    (hf : ∀ t i, P t → P (f t i)) : P (s.spoolFrame tag seq f) := by
  have h1 := h.classify hs tag
  unfold State.spoolFrame; split
  · rename_i e; rw [e] at h1; exact h1
  · rename_i t i e
    rw [e] at h1
    have h2 := h.sequence h1 i seq
    split
    · rename_i e2; rw [e2] at h2; exact hf _ _ h2
    · rename_i e2; rw [e2] at h2; exact h2
theorem acceptOpen (h : Steady P) (hs : P s) (i : Slot) (j : Job) (hj : j.hasPassed = false) : P (s.acceptOpen i j) :=
  h.walk (h.notice (h.joinWait (h.joinTail (h.cache (h.setJob hs i j hj) _) i) i) _)
theorem takeHeader (h : Steady P) (hs : P s) (i : Slot) (n c sd ca cb len : Nat) : P (s.takeHeader i n c sd ca cb len) := by
  unfold State.takeHeader; dsimp only
  refine h.offerBound (h.settleBound ?_ i) i
  split
  · exact h.badHeaders (h.countDamage (h.modJob hs _ _) _ _ _) _
  · exact h.modJob hs _ _
theorem sheetHeader (h : Steady P) (hs : P s) (i : Slot) (n c sd ca cb len : Nat) : P (s.sheetHeader i n c sd ca cb len) := by
  have := h.damageInProgress hs i .short
  unfold State.sheetHeader; dsimp only; split
  · exact h.badHeaders this _
  · split
    · exact h.alert this _
    · exact h.takeHeader this _ _ _ _ _ _ _
/-- Taking payload keeps a predicate that the storing of that payload keeps. -/
theorem takeData (h : Steady P) {p : List Byte} (hm : ∀ {t}, P t → ∀ j k, P { t with mem := storeBytes j t.mem k p })
    (hs : P s) (i : Slot) (rec : SheetRecord) : P (s.takeData i rec p) := by
  have h1 : ∀ f : Job → Job, (∀ j, (f j).hasPassed = true → j.hasPassed = true) → P (({ State.allocateMany ((s.job i).blocksFor p.length) s i with
      mem := storeBytes ((State.allocateMany ((s.job i).blocksFor p.length) s i).job i)
        (State.allocateMany ((s.job i).blocksFor p.length) s i).mem
        ((State.allocateMany ((s.job i).blocksFor p.length) s i).job i).spooled p }).modJob i f) := fun f hf =>
    h.modJob (hm (h.allocateMany _ hs i) _ _) _ _ (hf _)
  unfold State.takeData; dsimp only
  split
  · split
    · refine h.noteSendable (h.offerBound (h.settleBound (h.walk (h.joinWait (h1 _ ?_) _)) _) _) _; exact fun _ e => e
    · refine h.noteSendable (h.offerBound (h.settleBound (h1 _ ?_) _) _) _; exact fun _ e => e
  · split
    · refine h.walk (h.joinWait (h1 _ ?_) _); exact fun _ e => e
    · refine h1 _ ?_; exact fun _ e => e
theorem sheetData (h : Steady P) {p : List Byte} (hm : ∀ {t}, P t → ∀ j k, P { t with mem := storeBytes j t.mem k p })
    (hs : P s) (i : Slot) : P (s.sheetData i p) := by
  unfold State.sheetData; split
  · exact hs
  · split
    · exact hs
    · split
      · exact h.damageInProgress hs _ _
      · split
        · exact h.takeData hm hs _ _
        · exact h.overruns (h.damageInProgress hs _ _) _
theorem cancelJob (h : Steady P) (hs : P s) (i : Slot) (d : Option QueuePtr) : P (s.cancelJob i d) := by
  have h1 : P (if (s.job i).intakeOpen then s.closeIntake i else s) := by
    split
    · exact h.closeIntake hs i
    · exact hs
  unfold State.cancelJob; dsimp only
  generalize (if (s.job i).intakeOpen then s.closeIntake i else s) = t at h1
  split
  · exact h.completeOpt h1 _ _ _ _
  · have h2 := h.modJob (h.completeOpt h1 (t.job i).pendingHold .superseded 0 0) i fun j => { j with pendingHold := none }
    split
    · split
      · exact h.sendAbort (h.modJob h2 _ _) _
      · exact h.modJob h2 _ _
    · exact h.releaseJob (h.completeOpt h2 _ _ _ _) _ _

/-! ## The management unit -/

theorem enqueue (h : Steady P) (size : Nat) (a : MacAddress) (ds : List Directive) (k : Nat) (hs : P s)
    (hr : s.queue.held + ds.length ≤ 64 ∨ ds = []) :
    P (State.enqueue size a s ds k) := by
  induction ds generalizing s k with
  | nil => exact hs
  | cons d rest ih =>
    replace hr : s.queue.held + (rest.length + 1) ≤ 64 := hr.resolve_right (by simp)
    have e : s.queue.held < 64 := by omega
    refine ih _ (h.admits (h.ring hs _) e) (.inl ?_)
    have : (s.enqueueOne d k size a).queue.held = s.queue.held + 1 := by
      show (s.queue.tail + 1 - s.queue.retire).toNat = _
      unfold DirectiveQueue.held at e ⊢; bv_omega
    omega
theorem acceptFrame (h : Steady P) (hs : P s) (a : MacAddress) (ds : List Directive) : P (s.acceptFrame a ds) := by
  unfold State.acceptFrame; dsimp only; split
  · exact h.notice (h.noticeAddr hs _) _
  · rename_i e
    refine h.enqueue _ _ _ _ (h.noticeAddr hs _) ?_
    simp only [DirectiveQueue.room, Config.directivePlaces] at e
    cases ds with
    | nil => exact .inr rfl
    | cons d rest => left; simp only [List.length_cons] at e ⊢; omega
theorem sendHead (h : Steady P) (hs : P s) : P s.sendHead := by
  unfold State.sendHead; split
  · exact hs
  · rename_i n rest e
    dsimp only; split
    · exact h.restart (h.sendFirst hs _ _ e _) _ _
    · exact h.sendFirst hs _ _ e _

/-! ## Lanes and pools -/

theorem applySet (h : Steady P) (hs : P s) (l : LaneNo) (c : Settings) : P (s.applySet l c) := by
  unfold State.applySet; dsimp only; split
  · split
    · exact h.modLane hs _ _
    · exact h.enterIdle (h.modLane (h.leaveReady hs l) _ _) l
  · exact h.enterIdle (h.modLane hs _ _) l
  · exact h.modLane hs _ _
theorem setNow (h : Steady P) (hs : P s) (l : LaneNo) (c : Settings) (p : QueuePtr) : P (s.setNow l c p) :=
  h.complete (h.dispatchNoted (h.relayUnmasked (h.applySet hs l c) _)) _ _ _ _
theorem setLater (h : Steady P) (hs : P s) (l : LaneNo) (c : Settings) (p : QueuePtr) : P (s.setLater l c p) :=
  h.modLane (h.completeOpt hs _ _ _ _) _ _
theorem setAllowance (h : Steady P) (hs : P s) (p : PoolNo) (n : Nat) : P (s.setAllowance p n) :=
  h.walk (h.foldl (fun t i (ht : P t) => by
    unfold State.followMark; split
    · split
      · exact h.joinWait ht i
      · exact h.leaveWait ht i
    · exact ht) _ (h.modPool hs _ _))
theorem rebuild (h : Steady P) (hs : P s) (p : PoolNo) (b l : Nat) : P (s.rebuild p b l) :=
  h.pools (h.sharedFree hs _) _

/-! ## Jobs -/

theorem holdJob (h : Steady P) (hs : P s) (i : Slot) (p : QueuePtr) : P (s.holdJob i p) := by
  unfold State.holdJob; split
  · exact h.answer hs _ _
  · have h1 := h.raiseReason (h.modJob (h.completeOpt hs (s.job i).pendingHold .superseded 0 0) i
      fun j => { j with pendingHold := none }) i .operator
    dsimp only; split
    · exact h.modJob h1 _ _
    · exact h.answer h1 _ _
theorem unholdJob (h : Steady P) (hs : P s) (i : Slot) (p : QueuePtr) : P (s.unholdJob i p) := by
  unfold State.unholdJob; dsimp only; split
  · split
    · exact h.requeue (h.answer (h.modJob hs _ _) _ _) _
    · exact h.offerBound (h.modJob (h.completeOpt (h.answer (h.modJob hs _ _) _ _) _ _ _ _) _ _) _
    · exact h.answer (h.modJob hs _ _) _ _
  · exact h.answer (h.modJob hs _ _) _ _

/-! ## Link frames -/

theorem afterOut (h : Steady P) (hs : P s) (l : LaneNo) : P (s.afterOut l) := by
  unfold State.afterOut; split
  · exact h.offerStep (h.settleHolding hs _) _
  · exact hs
theorem afterJam (h : Steady P) (hs : P s) (l : LaneNo) : P (s.afterJam l) := by
  unfold State.afterJam; split
  · split
    · exact h.enterHeld hs _
    · exact h.releaseJob hs _ _
    · exact hs
  · exact hs
theorem jamSettle (h : Steady P) (hs : P s) (l : LaneNo) (q : Option Word16) : P (s.jamSettle l q) :=
  h.rewindBound (h.settleAt (h.dropOffer (h.modLane hs _ _) l) l q) l
theorem takeJam (h : Steady P) (hs : P s) (l : LaneNo) (q : Option Word16) (loc : BitVec 4) : P (s.takeJam l q loc) :=
  h.afterJam (h.modLane (h.alert (h.modLane (h.jamSettle hs l q) _ _) _) _ _) l
theorem takeStopped (h : Steady P) (hs : P s) (l : LaneNo) (q : Option Word16) : P (s.takeStopped l q) := by
  have h1 := h.settleAt (h.dropOffer (h.modLane hs l fun r => { r with answer := none, abort := false }) l) l q
  unfold State.takeStopped; dsimp only; split
  · exact h.releaseJob h1 _ _
  · exact h1
theorem takeClear (h : Steady P) (hs : P s) (l : LaneNo) : P (s.takeClear l) := by
  unfold State.takeClear; dsimp only; split
  · exact h.offerStep (h.modLane (h.modLane hs _ _) _ _) _
  · exact h.enterIdle (h.modLane hs _ _) _
theorem takeStatus (h : Steady P) (hs : P s) (l : LaneNo) (f : Conditions) : P (s.takeStatus l f) :=
  h.foldl (fun t _ (ht : P t) => h.alert ht _) _ (h.modLane hs _ _)
theorem loseCarrier (h : Steady P) (hs : P s) (l : LaneNo) : P (s.loseCarrier l) := by
  unfold State.loseCarrier; split
  · exact h.laneLoss hs l
  · exact h.laneLoss hs l
  · exact h.laneLoss hs l
  · exact h.modLane (h.leaveReady hs l) _ _
  · exact h.modLane hs _ _
  · exact h.modLane hs _ _
  · exact h.modLane hs _ _
theorem fallSilent (h : Steady P) (hs : P s) (l : LaneNo) : P (s.fallSilent l) := by
  unfold State.fallSilent; split
  · exact h.laneLoss hs l
  · exact h.laneLoss hs l
  · exact h.laneLoss hs l
  · exact h.enterTraining (h.leaveReady hs l) l
  · exact h.enterTraining hs l
  · exact hs
  · exact hs
theorem repeatOffer (h : Steady P) (hs : P s) (l : LaneNo) : P (s.repeatOffer l) := by
  unfold State.repeatOffer; split
  · split
    · exact h.transmit hs _ _
    · exact hs
  · exact hs
theorem sendChunks (h : Steady P) (hs : P s) (l : LaneNo) (i : Slot) (o : Offer) : P (s.sendChunks l i o) := by
  unfold State.sendChunks; split
  · exact h.transmitAll hs _ _
  · exact hs

/-! ## Every command -/

/-- A command other than DATA answers a next state and keeps the predicate. -/
theorem exec (h : Steady P) (hs : P s) (c : Instr) (hc : ∀ tag seq p, c ≠ .data tag seq p) :
    ∃ t, Machine.exec c s = .next t ∧ P t := by
  cases c with
  | openJob =>
    show ∃ t, execOpenJob _ _ _ _ _ _ _ _ = .next t ∧ P t; unfold execOpenJob
    exact h.event hs fun t ht => by
      split
      · exact h.notice ht _
      · exact h.acceptOpen ht _ _ (by simp [Job.opened, Job.hasPassed, Job.vacant])
  | sheet =>
    show ∃ t, execSheet _ _ _ _ _ _ _ _ _ = .next t ∧ P t; unfold execSheet
    exact h.event hs fun t ht => h.spoolFrame ht _ _ fun u i hu => h.sheetHeader hu _ _ _ _ _ _ _
  | data tag seq p => exact absurd rfl (hc tag seq p)
  | close =>
    show ∃ t, execClose _ _ _ = .next t ∧ P t; unfold execClose
    exact h.event hs fun t ht => h.spoolFrame ht _ _ fun u i hu => h.offerBound (h.closeIntake hu _) _
  | cancel =>
    show ∃ t, execCancel _ _ _ = .next t ∧ P t; unfold execCancel
    exact h.event hs fun t ht => h.spoolFrame ht _ _ fun u i hu => h.cancelJob hu _ _
  | upstreamFrameDiscarded =>
    show ∃ t, execUpstreamFrameDiscarded _ = .next t ∧ P t; unfold execUpstreamFrameDiscarded
    exact h.event hs fun t ht => ht
  | managementFrame =>
    show ∃ t, execManagementFrame _ _ _ _ _ = .next t ∧ P t; unfold execManagementFrame
    exact h.event hs fun t ht => by
      split
      · exact h.acceptFrame ht _ _
      · exact ht
  | extend =>
    show ∃ t, execExtend _ _ _ = .next t ∧ P t; unfold execExtend
    exact h.takeDirective hs _ _ fun p t ht => by
      split
      · exact h.complete ht _ _ _ _
      · exact h.marks ht _ _
  | fence =>
    show ∃ t, execFence _ _ = .next t ∧ P t; unfold execFence
    exact h.takeDirective hs _ _ fun p t ht => by
      split
      · exact h.complete (h.fenceNotice ht _) _ _ _ _
      · exact ht
  | reset =>
    show ∃ t, execReset _ = .next t ∧ P t; unfold execReset
    exact h.takeDirective hs _ _ fun p t ht => by
      split
      · dsimp only; split
        · exact h.complete (h.marks ht _ _) _ _ _ _
        · exact h.marks ht _ _
      · exact h.complete ht _ _ _ _
  | countersRead =>
    show ∃ t, execCountersRead _ _ = .next t ∧ P t; unfold execCountersRead
    exact h.takeDirective hs _ _ fun p t ht => h.answer ht _ _
  | rateSet =>
    show ∃ t, execRateSet _ _ _ _ _ _ = .next t ∧ P t; unfold execRateSet
    exact h.takeDirective hs _ _ fun p t ht => by
      split
      · exact h.answer ht _ _
      · split
        · exact h.answer ht _ _
        · exact h.answer (h.rates ht _) _ _
  | tierSet =>
    show ∃ t, execTierSet _ _ _ _ _ = .next t ∧ P t; unfold execTierSet
    exact h.takeDirective hs _ _ fun p t ht => by
      split
      · exact h.answer ht _ _
      · split
        · exact h.answer ht _ _
        · rename_i e; exact h.answer (h.tiers ht _ _ _ _ e) _ _
  | accountOpen =>
    show ∃ t, execAccountOpen _ _ _ _ = .next t ∧ P t; unfold execAccountOpen
    exact h.takeDirective hs _ _ fun p t ht => by
      split
      · exact h.answer ht _ _
      · split
        · exact h.answer ht _ _
        · rename_i e
          split
          · exact h.answer ht _ _
          · exact h.answer (h.opened ht _ _ _ (by simpa using e)) _ _
  | accountClose =>
    show ∃ t, execAccountClose _ _ = .next t ∧ P t; unfold execAccountClose
    exact h.takeDirective hs _ _ fun p t ht => by
      split
      · exact h.answer ht _ _
      · split
        · exact h.answer ht _ _
        · split
          · exact h.answer ht _ _
          · exact h.answer (h.closed ht _) _ _
  | accountLimit =>
    show ∃ t, execAccountLimit _ _ _ = .next t ∧ P t; unfold execAccountLimit
    exact h.takeDirective hs _ _ fun p t ht => by
      split
      · exact h.answer ht _ _
      · split
        · exact h.answer ht _ _
        · exact h.answer (h.noteHeadroom (h.limit ht _ _) _ _) _ _
  | accountSwap =>
    show ∃ t, execAccountSwap _ _ _ _ = .next t ∧ P t; unfold execAccountSwap
    exact h.takeDirective hs _ _ fun p t ht => by
      split
      · exact h.answer ht _ _
      · dsimp only; split
        · exact h.answer ht _ _
        · rename_i e
          simp only [Bool.or_eq_true, Bool.not_eq_true', not_or, Bool.not_eq_false] at e
          split
          · exact h.answer ht _ _
          · split
            · exact h.answer (h.noteHeadroom (h.swapped ht _ _ e.2) _ _) _ _
            · exact h.answer ht _ _
  | accountRead =>
    show ∃ t, execAccountRead _ _ _ = .next t ∧ P t; unfold execAccountRead
    exact h.takeDirective hs _ _ fun p t ht => by
      split <;> exact h.answer ht _ _
  | accountRoll =>
    show ∃ t, execAccountRoll _ _ = .next t ∧ P t; unfold execAccountRoll
    exact h.takeDirective hs _ _ fun p t ht => by
      split
      · exact h.answer ht _ _
      · split
        · exact h.answer ht _ _
        · exact h.answer (h.rolled ht _) _ _
  | laneSet =>
    show ∃ t, execLaneSet _ _ _ _ _ _ _ _ _ = .next t ∧ P t; unfold execLaneSet
    exact h.takeDirective hs _ _ fun p t ht => by
      split
      · exact h.answer ht _ _
      · split
        · exact h.setLater ht _ _ _
        · exact h.setNow ht _ _ _
  | laneRead =>
    show ∃ t, execLaneRead _ _ _ = .next t ∧ P t; unfold execLaneRead
    exact h.takeDirective hs _ _ fun p t ht => by
      split <;> exact h.answer ht _ _
  | poolSet =>
    show ∃ t, execPoolSet _ _ _ = .next t ∧ P t; unfold execPoolSet
    exact h.takeDirective hs _ _ fun p t ht => by
      split
      · exact h.answer ht _ _
      · exact h.answer (h.setAllowance ht _ _) _ _
  | poolReserve =>
    show ∃ t, execPoolReserve _ _ _ _ = .next t ∧ P t; unfold execPoolReserve
    exact h.takeDirective hs _ _ fun p t ht => by
      split
      · exact h.answer ht _ _
      · split
        · exact h.answer ht _ _
        · split
          · exact h.answer ht _ _
          · split
            · exact h.answer ht _ _
            · exact h.answer (h.walk (h.rebuild ht _ _ _)) _ _
  | jobRead =>
    show ∃ t, execJobRead _ _ _ = .next t ∧ P t; unfold execJobRead
    exact h.takeDirective hs _ _ fun p t ht => by
      split
      · exact h.answer ht _ _
      · split
        · exact h.answer ht _ _
        · split <;> exact h.answer ht _ _
  | jobHold =>
    show ∃ t, execJobHold _ _ _ = .next t ∧ P t; unfold execJobHold
    exact h.takeDirective hs _ _ fun p t ht => by
      split
      · exact h.answer ht _ _
      · split
        · exact h.answer ht _ _
        · split
          · exact h.answer ht _ _
          · exact h.holdJob ht _ _
  | jobRelease =>
    show ∃ t, execJobRelease _ _ _ = .next t ∧ P t; unfold execJobRelease
    exact h.takeDirective hs _ _ fun p t ht => by
      split
      · exact h.answer ht _ _
      · split
        · exact h.answer ht _ _
        · split
          · exact h.answer ht _ _
          · exact h.unholdJob ht _ _
  | jobCancel =>
    show ∃ t, execJobCancel _ _ _ = .next t ∧ P t; unfold execJobCancel
    exact h.takeDirective hs _ _ fun p t ht => by
      split
      · exact h.answer ht _ _
      · split
        · exact h.answer ht _ _
        · split
          · exact h.answer ht _ _
          · split
            · exact h.answer ht _ _
            · exact h.cancelJob ht _ _
  | jobMove =>
    show ∃ t, execJobMove _ _ _ = .next t ∧ P t; unfold execJobMove
    exact h.takeDirective hs _ _ fun p t ht => by
      split
      · exact h.answer ht _ _
      · split
        · exact h.answer ht _ _
        · split
          · exact h.answer ht _ _
          · exact h.answer (h.modJob ht _ _) _ _
  | purge =>
    show ∃ t, execPurge _ _ _ = .next t ∧ P t; unfold execPurge
    exact h.takeDirective hs _ _ fun p t ht => by
      split
      · exact h.answer ht _ _
      · exact h.answer (h.cache ht _) _ _
  | alertRead =>
    show ∃ t, execAlertRead _ _ _ = .next t ∧ P t; unfold execAlertRead
    exact h.takeDirective hs _ _ fun p t ht => by
      split
      · exact h.answer ht _ _
      · split
        · exact h.answer ht _ _
        · split
          · exact h.answer ht _ _
          · split <;> exact h.answer ht _ _
  | alertAck =>
    show ∃ t, execAlertAck _ _ = .next t ∧ P t; unfold execAlertAck
    exact h.takeDirective hs _ _ fun p t ht => by
      split
      · exact h.answer (h.ackAll ht) _ _
      · split
        · exact h.answer ht _ _
        · split
          · exact h.answer ht _ _
          · exact h.answer (h.ackOne ht _) _ _
  | alertMask =>
    show ∃ t, execAlertMask _ _ = .next t ∧ P t; unfold execAlertMask
    exact h.takeDirective hs _ _ fun p t ht => h.answer (h.relayUnmasked (h.intakeMask ht _) _) _ _
  | unknownDirective =>
    show ∃ t, execUnknownDirective _ _ = .next t ∧ P t; unfold execUnknownDirective
    exact h.takeDirective hs _ _ fun p t ht => h.answer ht _ _
  | noticeSend =>
    show ∃ t, execNoticeSend _ = .next t ∧ P t; unfold execNoticeSend
    exact h.event hs fun t ht => h.sendHead ht
  | hello =>
    show ∃ t, execHello _ _ _ _ _ _ = .next t ∧ P t; unfold execHello
    exact h.receive hs _ _ fun t ht => by
      split
      · exact h.enterIdle (h.modLane (h.modLane ht _ _) _ _) _
      · exact h.modLane ht _ _
  | proceed =>
    show ∃ t, execProceed _ _ _ = .next t ∧ P t; unfold execProceed
    exact h.answerFrame hs _ _ fun t i o ht =>
      h.offerStep (h.settleOver (h.sendChunks (h.modLane ht _ _) _ _ _) _ _) _
  | wait =>
    show ∃ t, execWait _ _ _ = .next t ∧ P t; unfold execWait
    exact h.answerFrame hs _ _ fun t i o ht => by
      split
      · exact h.modLane (h.modLane (h.dropOffer ht _) _ _) _ _
      · exact h.settleHolding (h.modLane (h.dropOffer ht _) _ _) _
  | media =>
    show ∃ t, execMedia _ _ _ = .next t ∧ P t; unfold execMedia
    exact h.answerFrame hs _ _ fun t i o ht =>
      h.settleHolding (h.alert (h.modLane (h.dropOffer ht _) _ _) _) _
  | refuse =>
    show ∃ t, execRefuse _ _ _ = .next t ∧ P t; unfold execRefuse
    exact h.answerFrame hs _ _ fun t i o ht => h.refuseSheet (h.dropOffer ht _) _ _ _ _
  | out =>
    show ∃ t, execOut _ _ _ = .next t ∧ P t; unfold execOut
    exact h.receive hs _ _ fun t ht => h.afterOut (h.confirmMany _ ht _) _
  | jam =>
    show ∃ t, execJam _ _ _ _ = .next t ∧ P t; unfold execJam
    exact h.receive hs _ _ fun t ht => h.takeJam ht _ _ _
  | stopped =>
    show ∃ t, execStopped _ _ _ = .next t ∧ P t; unfold execStopped
    exact h.receive hs _ _ fun t ht => h.takeStopped ht _ _
  | clear =>
    show ∃ t, execClear _ _ = .next t ∧ P t; unfold execClear
    exact h.receive hs _ _ fun t ht => h.takeClear ht _
  | status =>
    show ∃ t, execStatus _ _ _ _ _ = .next t ∧ P t; unfold execStatus
    exact h.receive hs _ _ fun t ht => h.takeStatus ht _ _
  | linkFrameDiscarded lane why =>
    show ∃ t, execLinkFrameDiscarded _ _ _ = .next t ∧ P t
    cases why with
    | crc =>
      unfold execLinkFrameDiscarded
      refine ⟨_, rfl, ?_⟩
      split
      · exact hs
      · exact h.finish (h.modLane (h.begin hs) _ _)
    | kindOrLength =>
      unfold execLinkFrameDiscarded
      exact h.receive hs _ _ fun t ht => ht
  | carrierLost =>
    show ∃ t, execCarrierLost _ _ = .next t ∧ P t; unfold execCarrierLost
    exact h.carrierEvent hs _ _ fun t ht => h.loseCarrier ht _
  | carrierPresent =>
    show ∃ t, execCarrierPresent _ _ = .next t ∧ P t; unfold execCarrierPresent
    exact h.carrierEvent hs _ _ fun t ht => by
      split
      · exact h.enterTraining ht _
      · exact ht
  | hailTimerExpiry =>
    show ∃ t, execHailTimerExpiry _ _ = .next t ∧ P t; unfold execHailTimerExpiry
    exact h.expiry hs _ _ fun t ht => h.transmit (h.modLane ht _ _) _ _
  | silenceTimerExpiry =>
    show ∃ t, execSilenceTimerExpiry _ _ = .next t ∧ P t; unfold execSilenceTimerExpiry
    exact h.expiry hs _ _ fun t ht => h.fallSilent ht _
  | answerTimeout =>
    show ∃ t, execAnswerTimeout _ _ = .next t ∧ P t; unfold execAnswerTimeout
    exact h.expiry hs _ _ fun t ht => by
      split
      · exact h.repeatOffer (h.modLane ht _ _) _
      · exact h.laneLoss ht _
  | abortTimeout =>
    show ∃ t, execAbortTimeout _ _ = .next t ∧ P t; unfold execAbortTimeout
    exact h.expiry hs _ _ fun t ht => h.laneLoss ht _
  | reofferTimerExpiry =>
    show ∃ t, execReofferTimerExpiry _ _ = .next t ∧ P t; unfold execReofferTimerExpiry
    exact h.expiry hs _ _ fun t ht => h.offerStep (h.modLane ht _ _) _
  | escalationTimerExpiry =>
    show ∃ t, execEscalationTimerExpiry _ _ = .next t ∧ P t; unfold execEscalationTimerExpiry
    exact h.expiry hs _ _ fun t ht => h.alert (h.modLane ht _ _) _
  | resetPinLow =>
    show ∃ t, execResetPinLow _ = .next t ∧ P t; unfold execResetPinLow
    exact ⟨_, rfl, h.resetLow hs _⟩
  | resetPinRise straps =>
    show ∃ t, execResetPinRise _ _ = .next t ∧ P t; unfold execResetPinRise
    exact ⟨_, rfl, h.restart hs _ _⟩

theorem tickOne (h : Steady P) (hs : P s) : P s.tickOne := by
  unfold State.tickOne; split
  · exact hs
  · exact h.tick hs _

end Steady

namespace Stable

/-- Every command answers a next state and keeps the predicate. -/
theorem exec (h : Stable P) (hs : P s) (c : Instr) : ∃ t, Machine.exec c s = .next t ∧ P t := by
  by_cases hc : ∀ tag seq p, c ≠ .data tag seq p
  · exact h.toSteady.exec hs c hc
  · simp only [not_forall, ne_eq, not_not] at hc
    obtain ⟨tag, seq, p, rfl⟩ := hc
    show ∃ t, execData _ _ _ _ = .next t ∧ P t; unfold execData
    exact h.toSteady.event hs fun t ht => h.toSteady.spoolFrame ht _ _ fun u i hu =>
      h.toSteady.sheetData (fun ht j k => h.mem ht j k p) hu i

/-- Every step answers a next state and keeps the predicate. -/
theorem step (h : Stable P) (hs : P s) : ∃ t, Machine.step s = .next t ∧ P t := by
  unfold Machine.step; split
  · exact h.exec (h.pending hs _) _
  · split
    · exact h.exec hs _
    · exact ⟨_, rfl, h.toSteady.tickOne hs⟩

end Stable

end Sys2Proof.Machine
end

