-- ==== Sys2Proof/Laws/Events.lean ====
section
/-! SUPPORT. What the end of an event can do: nothing, when nothing was noted; and, when one directive completes, nothing but to the
directive queue and the notice queue. -/

namespace Sys2Proof.Machine

/-! ## Events that note no completion -/

/-- A pool in which nothing can be dispatched: no lane is ready, or no job is queued. -/
def State.idle (s : State) (p : PoolNo) : Prop := (s.pool p).ready = [] ∨ (s.pool p).queueOrder = []

/-- A dispatch opportunity of a pool with no lane ready or no job queued does nothing (R55). -/
theorem dispatchPool_idle (s : State) (p : PoolNo) (h : s.idle p) :
    State.dispatchPool (s.pool p).queueOrder.length s p = s := by
  rcases h with h | h
  · cases (s.pool p).queueOrder.length with
    | zero => rfl
    | succ n => simp [State.dispatchPool, h]
  · rw [h]; rfl

/-- Dispatch opportunities of idle pools do nothing. -/
theorem dispatchNoted_idle (s : State) (h : ∀ p ∈ s.todo.pools, s.idle p) :
    s.dispatchNoted = { s with todo := { s.todo with pools := [] } } := by
  have : ∀ l : List PoolNo, (∀ p ∈ l, s.idle p) →
      l.foldl (fun t p => State.dispatchPool ((t.pool p).queueOrder.length) t p) s = s := by
    intro l
    induction l with
    | nil => intro _; rfl
    | cons p rest ih =>
      intro hl
      rw [List.foldl_cons, dispatchPool_idle _ _ (hl p (by simp))]
      exact ih fun q hq => hl q (by simp [hq])
  unfold State.dispatchNoted
  rw [this _ h]

/-- A funds rise of an account that no held job names changes nothing (R148). -/
theorem fundsRise_of_no_hold (s : State) (a : AccountNo) (h : ∀ i, (s.job i).fundsHeld a = false) : s.fundsRise a = s := by
  have h1 : ∀ l : List Slot, l.foldl (fun t i => State.liftFunds t a i) s = s := by
    intro l
    induction l with
    | nil => rfl
    | cons i rest ih =>
      rw [List.foldl_cons, show s.liftFunds a i = s by unfold State.liftFunds; rw [if_neg (by simp [h i])]]; exact ih
  have h2 : s.returnedBy a = [] := by
    unfold State.returnedBy; rw [List.filter_eq_nil_iff]; intro i _; simp [h i]
  unfold State.fundsRise; dsimp only; rw [h1, h2]; rfl

/-- Funds rises of accounts that no held job names change nothing. -/
theorem risesNoted_of_no_hold (s : State) (h : ∀ a ∈ s.todo.risen, ∀ i, (s.job i).fundsHeld a = false) :
    s.risesNoted = { s with todo := { s.todo with risen := [] } } := by
  have : ∀ l : List AccountNo, (∀ a ∈ l, ∀ i, (s.job i).fundsHeld a = false) → l.foldl State.fundsRise s = s := by
    intro l
    induction l with
    | nil => intro _; rfl
    | cons a rest ih =>
      intro hl
      rw [List.foldl_cons, fundsRise_of_no_hold s a (hl a (by simp))]
      exact ih fun b hb => hl b (by simp [hb])
  unfold State.risesNoted; rw [this _ h]

/-- The part of an event's end before its completions does nothing when the noted pools are idle and no job holds FUNDS for an account that rose. -/
theorem before_completions (s : State) (hp : ∀ p ∈ s.todo.pools, s.idle p) (hr : ∀ a ∈ s.todo.risen, ∀ i, (s.job i).fundsHeld a = false) :
    s.dispatchNoted.risesNoted.dispatchNoted = { s with todo := { s.todo with pools := [], risen := [] } } := by
  have h1 := dispatchNoted_idle s hp
  have h2 := risesNoted_of_no_hold { s with todo := { s.todo with pools := [] } } hr
  have h3 := dispatchNoted_idle { s with todo := { s.todo with pools := [], risen := [] } } (fun _ h => by cases h)
  rw [h1, h2]; exact h3

/-- An event ends without further consequences when the noted pools are idle and nothing else was noted. -/
theorem finish_quiet (s : State) (hp : ∀ p ∈ s.todo.pools, s.idle p) (hr : ∀ a ∈ s.todo.risen, ∀ i, (s.job i).fundsHeld a = false)
    (hd : s.todo.done = []) (hx : s.todo.reset = false) : s.finish = s.settled := by
  unfold State.finish
  rw [before_completions s hp hr]
  have : ∀ t : State, t.todo.done = [] → t.completionsNoted = t := by
    intro t ht; unfold State.completionsNoted; rw [ht]; rfl
  dsimp only
  rw [this { s with todo := { s.todo with pools := [], risen := [] } } hd]
  exact if_neg (by simp [hx])

/-- An event that notes nothing ends as it stands. -/
theorem finish_nothing (s : State) (h : s.todo = Todo.nothing) : s.finish = s.settled :=
  finish_quiet s (by simp [h, Todo.nothing]) (by simp [h, Todo.nothing]) (by simp [h, Todo.nothing]) (by simp [h, Todo.nothing])

/-! ## Completions -/

namespace Concludes

theorem refl (s : State) (h : s.todo = Todo.nothing) : Concludes s s [] where
  tables := by unfold State.withReplies; rw [← h]
  results _ h := by cases h
  others _ _ _ := rfl
  directives _ := rfl
  take := rfl
  tail := rfl
  ext := rfl
  going := rfl
  notices := ⟨[], by simp⟩
  folded := by show s = s.settled; unfold State.settled; rw [← h]

end Concludes

/-! ### Completions read nothing of what is left to carry out -/

theorem notice_settled (s : State) (n : Notice) : (s.notice n).settled = s.settled.notice n := by
  unfold State.notice State.noticeRoom State.settled; dsimp only; split <;> rfl

theorem completeReset_settled (s : State) (p : QueuePtr) : (s.completeReset p).settled = s.settled.completeReset p := by
  have h : (s.completeReset p).todo = s.todo := by
    unfold State.completeReset; dsimp only; split
    · split <;> rfl
    · rfl
  unfold State.completeReset; dsimp only
  rw [show (s.settled.entry (s.settled.frameLast p)).cond = (s.entry (s.frameLast p)).cond from rfl]
  cases hc : (s.entry (s.frameLast p)).cond <;> try rfl
  dsimp only
  rw [show (s.settled.queue.resetTaken && (s.settled.entry (s.settled.frameLast p)).isCode 3
      && ((s.settled.frameOf p).filter (· != s.settled.frameLast p)).all fun x => (s.settled.entry x).cond.isComplete)
    = (s.queue.resetTaken && (s.entry (s.frameLast p)).isCode 3
      && ((s.frameOf p).filter (· != s.frameLast p)).all fun x => (s.entry x).cond.isComplete) from rfl]
  split <;> rfl

theorem retireBy_settled (n : Nat) (s : State) : (State.retireBy n s).settled = State.retireBy n s.settled := by
  induction n generalizing s with
  | zero => rfl
  | succ n ih =>
    unfold State.retireBy
    rw [show (s.settled.queue.retire != s.settled.queue.take && s.settled.frameComplete s.settled.queue.retire)
      = (s.queue.retire != s.queue.take && s.frameComplete s.queue.retire) from rfl]
    split
    · exact ih _
    · rfl

theorem replyFrame_settled (s : State) (p : QueuePtr) : (s.replyFrame p).settled = (s.settled.replyFrame p).settled := by
  unfold State.replyFrame
  rw [show s.settled.frameComplete p = s.frameComplete p from rfl]
  split
  · dsimp only
    rw [show (s.settled.queue.resetTaken && (s.settled.entry (s.settled.frameLast p)).isCode 3)
        = (s.queue.resetTaken && (s.entry (s.frameLast p)).isCode 3) from rfl, show s.settled.noticeRoom = s.noticeRoom from rfl,
      show ((s.settled.frameOf p).map fun q => (s.settled.entry q).reply) = ((s.frameOf p).map fun q => (s.entry q).reply) from rfl,
      retireBy_settled, retireBy_settled]
    have h : ∀ n, (s.notice n).settled = (s.settled.notice n).settled := fun n => by rw [← notice_settled]; rfl
    split
    · exact congrArg _ (h _)
    · exact congrArg _ (h _)
  · rfl

theorem finishEntry_settled (s : State) (p : QueuePtr) (r : Result) (v1 v2 : Word32) :
    (s.finishEntry p r v1 v2).settled = (s.settled.finishEntry p r v1 v2).settled := by
  unfold State.finishEntry
  rw [replyFrame_settled, completeReset_settled]; rfl

theorem fenceNotice_settled (s : State) (p : QueuePtr) : (s.fenceNotice p).settled = s.settled.fenceNotice p := by
  unfold State.fenceNotice
  rw [show s.settled.entry p = s.entry p from rfl]
  split
  · exact notice_settled _ _
  · rfl

theorem completeFences_settled (n : Nat) (s : State) :
    (State.completeFences n s).settled = (State.completeFences n s.settled).settled := by
  induction n generalizing s with
  | zero => rfl
  | succ n ih =>
    unfold State.completeFences
    rw [show s.settled.readyFence = s.readyFence from rfl]
    split
    · rw [ih, finishEntry_settled, fenceNotice_settled, ← ih]
    · rfl

theorem carryOut_settled (s : State) (c : Completion) : (s.carryOut c).settled = (s.settled.carryOut c).settled := by
  unfold State.carryOut
  rw [completeFences_settled, finishEntry_settled, ← completeFences_settled]

theorem carryAll_settled (cs : List Completion) (s : State) :
    (cs.foldl State.carryOut s).settled = (cs.foldl State.carryOut s.settled).settled := by
  induction cs generalizing s with
  | nil => rfl
  | cons c rest ih =>
    rw [List.foldl_cons, List.foldl_cons, ih, carryOut_settled, ← ih]

/-- `t` is `s` but for conditions, those of the places in `x` and of pending FENCEs, the retire pointer, and reports queued or
dropped. -/
structure Replied (x : List (Fin 64)) (s t : State) : Prop where
  frame : t = { s with queue := t.queue, notices := t.notices, noticeDrops := t.noticeDrops }
  others : ∀ q, ringPlace q ∉ x → (s.entry q).isPendingFence = false → (t.entry q).cond = (s.entry q).cond
  directives : ∀ q, (t.entry q).directive = (s.entry q).directive
  take : t.queue.take = s.queue.take
  tail : t.queue.tail = s.queue.tail
  ext : t.queue.ext = s.queue.ext
  going : t.queue.resetTaken = s.queue.resetTaken
  notices : ∃ l, t.notices = s.notices ++ l ∧ ∀ n ∈ l, n.reports = true

/-- An entry whose directive and condition stay is a pending FENCE or not as before. -/
theorem isPendingFence_congr {d e : QueueEntry} (h : d.directive = e.directive) (k : d.cond = e.cond) :
    d.isPendingFence = e.isPendingFence := by
  unfold QueueEntry.isPendingFence QueueEntry.isCode; rw [h, k]

/-- A complete entry is no pending FENCE. -/
theorem isPendingFence_of_complete {e : QueueEntry} {r : Result} {v1 v2 : Word32} (h : e.cond = .complete r v1 v2) :
    e.isPendingFence = false := by
  unfold QueueEntry.isPendingFence; rw [h]; simp

namespace Replied

theorem refl (s : State) : Replied [] s s :=
  ⟨rfl, fun _ _ _ => rfl, fun _ => rfl, rfl, rfl, rfl, rfl, [], by simp⟩

theorem trans {x y : List (Fin 64)} {s t u : State} (h : Replied x s t) (k : Replied y t u) : Replied (x ++ y) s u where
  frame := by rw [k.frame]; conv_lhs => rw [h.frame]
  others q hq hf := by
    simp only [List.mem_append, not_or] at hq
    have e := h.others q hq.1 hf
    rw [k.others q hq.2 ((isPendingFence_congr (h.directives q) e).trans hf), e]
  directives q := (k.directives q).trans (h.directives q)
  take := k.take.trans h.take
  tail := k.tail.trans h.tail
  ext := k.ext.trans h.ext
  going := k.going.trans h.going
  notices := by
    obtain ⟨l, e, hl⟩ := h.notices
    obtain ⟨m, f, hm⟩ := k.notices
    exact ⟨l ++ m, by rw [f, e, List.append_assoc], fun n hn => (List.mem_append.mp hn).elim (hl n) (hm n)⟩

/-- The condition of a complete entry outside the places stays. -/
theorem kept {x : List (Fin 64)} {s t : State} (h : Replied x s t) {q : QueuePtr} (hq : ringPlace q ∉ x) {r : Result}
    {v1 v2 : Word32} (e : (s.entry q).cond = .complete r v1 v2) : (t.entry q).cond = .complete r v1 v2 := by
  rw [h.others q hq (isPendingFence_of_complete e), e]

end Replied

/-- Reading an entry after another has been replaced. -/
theorem entry_setEntry (s : State) (p q : QueuePtr) (e : QueueEntry) :
    (s.setEntry p e).entry q = if ringPlace p = ringPlace q then e else s.entry q := by
  simp only [State.entry, State.setEntry, Fin.getElem_fin, Vector.getElem_set, Fin.ext_iff]

/-- Reading an entry after a condition has been replaced. -/
theorem entry_setCond (s : State) (p q : QueuePtr) (c : Condition) :
    (s.setCond p c).entry q = if ringPlace p = ringPlace q then { s.entry p with cond := c } else s.entry q :=
  entry_setEntry s p q _

theorem entry_setCond_self (s : State) (p : QueuePtr) (c : Condition) :
    (s.setCond p c).entry p = { s.entry p with cond := c } := by simp [entry_setCond]

/-- Entries at one ring place are one entry. -/
theorem entry_congr (s : State) {p q : QueuePtr} (h : ringPlace p = ringPlace q) : s.entry p = s.entry q := by
  unfold State.entry; simp only [h]

/-- A new condition leaves every directive as it is. -/
theorem directive_setCond (s : State) (p q : QueuePtr) (c : Condition) :
    ((s.setCond p c).entry q).directive = (s.entry q).directive := by
  rw [entry_setCond]; split
  · rename_i h; rw [entry_congr s h]
  · rfl

/-- An entry gets a condition. -/
theorem replied_setCond (s : State) (p : QueuePtr) (c : Condition) : Replied [ringPlace p] s (s.setCond p c) where
  frame := rfl
  others q hq _ := by rw [entry_setCond, if_neg (fun h => hq (by simp [h]))]
  directives q := directive_setCond s p q c
  take := rfl
  tail := rfl
  ext := rfl
  going := rfl
  notices := ⟨[], (List.append_nil _).symm, by simp⟩

/-- A report is queued or dropped. -/
theorem replied_notice (s : State) (n : Notice) (h : n.reports = true) : Replied [] s (s.notice n) where
  frame := by unfold State.notice; split <;> rfl
  others q _ _ := by unfold State.entry; simp
  directives q := by unfold State.entry; simp
  take := by simp
  tail := by simp
  ext := by simp
  going := by simp
  notices := by
    unfold State.notice; split
    · exact ⟨[n], rfl, by simp [h]⟩
    · exact ⟨[], by simp⟩

/-- Retirement moves the retire pointer alone. -/
theorem replied_retireBy (n : Nat) (s : State) : Replied [] s (State.retireBy n s) := by
  induction n generalizing s with
  | zero => exact Replied.refl s
  | succ n ih =>
    unfold State.retireBy; split
    · have h : Replied [] s { s with queue := { s.queue with retire := s.queue.retire + 1 } } :=
        ⟨rfl, fun _ _ _ => rfl, fun _ => rfl, rfl, rfl, rfl, rfl, [], by simp⟩
      exact h.trans (ih _)
    · exact Replied.refl s

/-- While no RESET has been taken, a reply and its retirement touch only the queues (R165). -/
theorem replied_replyFrame (s : State) (p : QueuePtr) (h : s.queue.resetTaken = false) : Replied [] s (s.replyFrame p) := by
  unfold State.replyFrame; split
  · simp only [h, Bool.false_and]
    exact (replied_notice s _ rfl).trans (replied_retireBy _ _)
  · exact Replied.refl s

/-- While no RESET has been taken, no RESET completes (R168). -/
theorem completeReset_of_not_taken (s : State) (p : QueuePtr) (h : s.queue.resetTaken = false) : s.completeReset p = s := by
  unfold State.completeReset
  dsimp only
  split
  · rw [if_neg (by simp [h])]
  · rfl

/-- While no RESET has been taken, the completion of an entry touches only the queues (R164, R165). -/
theorem replied_finishEntry (s : State) (p : QueuePtr) (r : Result) (v1 v2 : Word32) (h : s.queue.resetTaken = false) :
    Replied [ringPlace p] s (s.finishEntry p r v1 v2) := by
  unfold State.finishEntry
  have h1 := replied_setCond s p (.complete r v1 v2)
  have hg : (s.setCond p (.complete r v1 v2)).queue.resetTaken = false := h1.going.trans h
  rw [completeReset_of_not_taken _ _ hg]
  exact h1.trans (replied_replyFrame _ _ hg)

/-- The entry that completes holds its result. -/
theorem finishEntry_cond (s : State) (p : QueuePtr) (r : Result) (v1 v2 : Word32) (h : s.queue.resetTaken = false) :
    ((s.finishEntry p r v1 v2).entry p).cond = .complete r v1 v2 := by
  unfold State.finishEntry
  have hg : (s.setCond p (.complete r v1 v2)).queue.resetTaken = false := h
  rw [completeReset_of_not_taken _ _ hg]
  refine (replied_replyFrame _ p hg).kept (by simp) ?_
  rw [entry_setCond_self]

/-- A FENCE that is ready is a pending FENCE (R167). -/
theorem readyFence_pending {s : State} {p : QueuePtr} {k : Nat} (h : s.readyFence = some (p, k)) :
    (s.entry p).isPendingFence = true := by
  unfold State.readyFence at h
  obtain ⟨q, _, hq⟩ := List.exists_of_findSome?_eq_some h
  split at hq
  · rename_i n e
    split at hq
    · rename_i h2
      cases hq
      unfold QueueEntry.isPendingFence
      rw [e]; simp only [Bool.and_eq_true] at h2; simp [h2.1]
    · cases hq
  · cases hq

/-- The completion of a pending FENCE touches only the queues (R167). -/
theorem replied_fence (s : State) (p : QueuePtr) (k : Nat) (h : s.queue.resetTaken = false)
    (hp : (s.entry p).isPendingFence = true) : Replied [] s ((s.fenceNotice p).finishEntry p .done (val32 k) 0) := by
  have h1 : Replied [] s (s.fenceNotice p) := by
    unfold State.fenceNotice; split
    · exact replied_notice s _ rfl
    · exact Replied.refl s
  have h2 := h1.trans (replied_finishEntry _ p .done (val32 k) 0 (h1.going.trans h))
  refine ⟨h2.frame, fun q _ hf => h2.others q ?_ hf, h2.directives, h2.take, h2.tail, h2.ext, h2.going, h2.notices⟩
  intro hq
  simp only [List.nil_append, List.mem_singleton] at hq
  rw [entry_congr s hq, hp] at hf; cases hf

/-- While no RESET has been taken, the completion of FENCEs touches only the queues (R167). -/
theorem replied_completeFences (n : Nat) (s : State) (h : s.queue.resetTaken = false) :
    Replied [] s (State.completeFences n s) := by
  induction n generalizing s with
  | zero => exact Replied.refl s
  | succ n ih =>
    unfold State.completeFences; split
    · rename_i p k e
      have h1 := replied_fence s p k h (readyFence_pending e)
      exact h1.trans (ih _ (h1.going.trans h))
    · exact Replied.refl s

/-- While no RESET has been taken, one completion touches only the queues, and its entry holds its result (R164, R165, R167). -/
theorem replied_carryOut (s : State) (c : Completion) (h : s.queue.resetTaken = false) :
    Replied [ringPlace c.ptr] s (s.carryOut c) ∧ ((s.carryOut c).entry c.ptr).cond = .complete c.result c.value1 c.value2 := by
  have h1 := replied_finishEntry s c.ptr c.result c.value1 c.value2 h
  have h2 := replied_completeFences Config.directivePlaces (s.finishEntry c.ptr c.result c.value1 c.value2) (h1.going.trans h)
  exact ⟨h1.trans h2, h2.kept (by simp) (finishEntry_cond s _ _ _ _ h)⟩

/-- The completions of one event at different places touch only the queues, and their entries hold their results. -/
theorem replied_carryAll (cs : List Completion) (hc : (cs.map fun c => ringPlace c.ptr).Nodup) (s : State)
    (h : s.queue.resetTaken = false) :
    Replied (cs.map fun c => ringPlace c.ptr) s (cs.foldl State.carryOut s) ∧
      ∀ c ∈ cs, ((cs.foldl State.carryOut s).entry c.ptr).cond = .complete c.result c.value1 c.value2 := by
  induction cs generalizing s with
  | nil => exact ⟨Replied.refl s, by simp⟩
  | cons c rest ih =>
    simp only [List.map_cons, List.nodup_cons] at hc
    obtain ⟨h1, e⟩ := replied_carryOut s c h
    obtain ⟨h2, k⟩ := ih hc.2 (s.carryOut c) (h1.going.trans h)
    rw [List.foldl_cons]
    refine ⟨h1.trans h2, fun d hd => ?_⟩
    rcases List.mem_cons.mp hd with rfl | hd
    · exact h2.kept hc.1 e
    · exact k d hd

/-- Completions in queue order are the same completions (R164). -/
theorem insertCompletion_perm (p : QueuePtr) (c : Completion) (cs : List Completion) :
    (insertCompletion p c cs).Perm (c :: cs) := by
  induction cs with
  | nil => exact List.Perm.refl _
  | cons d rest ih =>
    unfold insertCompletion; split
    · exact List.Perm.refl _
    · exact (ih.cons d).trans (List.Perm.swap c d rest)

theorem inQueueOrder_perm (p : QueuePtr) (cs : List Completion) : (inQueueOrder p cs).Perm cs := by
  unfold inQueueOrder
  induction cs with
  | nil => exact List.Perm.refl _
  | cons c rest ih => exact (insertCompletion_perm p c _).trans (ih.cons c)

/-- An event whose dispatch opportunities find their pools idle, and that lifts no FUNDS hold, ends with its completions. -/
theorem finish_concludes (s : State) (hp : ∀ p ∈ s.todo.pools, s.idle p) (hr : ∀ a ∈ s.todo.risen, ∀ i, (s.job i).fundsHeld a = false)
    (hx : s.todo.reset = false) (hg : s.queue.resetTaken = false) (hd : (s.todo.done.map fun c => ringPlace c.ptr).Nodup) :
    Concludes s s.finish s.todo.done := by
  have hperm := inQueueOrder_perm s.queue.retire s.todo.done
  obtain ⟨h1, h2⟩ := replied_carryAll (inQueueOrder s.queue.retire s.todo.done)
    (((hperm.map fun c => ringPlace c.ptr).nodup_iff).mpr hd) { s with todo := { s.todo with pools := [], risen := [] } } hg
  have e : State.completionsNoted { s with todo := { s.todo with pools := [], risen := [] } } =
      (inQueueOrder s.queue.retire s.todo.done).foldl State.carryOut { s with todo := { s.todo with pools := [], risen := [] } } := rfl
  unfold State.finish
  rw [before_completions s hp hr]
  dsimp only
  rw [e]
  generalize hu : (inQueueOrder s.queue.retire s.todo.done).foldl State.carryOut
    { s with todo := { s.todo with pools := [], risen := [] } } = u at h1 h2 ⊢
  have ht : u.todo.reset = false := by rw [h1.frame]; exact hx
  rw [if_neg (by simp [ht])]
  exact
    { tables := by conv_lhs => rw [h1.frame]
                   rfl
      results := fun c hc => h2 c (hperm.mem_iff.mpr hc)
      others := fun q hq hf => h1.others q (by
        rw [List.mem_map]; rintro ⟨c, hc, e⟩; exact hq c (hperm.mem_iff.mp hc) e) hf
      directives := h1.directives
      take := h1.take
      tail := h1.tail
      ext := h1.ext
      going := h1.going
      notices := h1.notices
      folded := by
        show u.settled = _
        rw [← hu, carryAll_settled, carryAll_settled _ s]; rfl }

/-! ## The taking of a directive -/

/-- A directive that can be taken is taken. -/
theorem takeDirective_of_takeable {c : Instr} {w : Bool} {s : State} {f : QueuePtr → State → State} (h : s.takeable c = true) :
    takeDirective c w s f = .next (f s.queue.take (s.taken w)).finish := by
  unfold takeDirective; rw [if_pos h]

/-- A directive that is not the one at the take pointer changes nothing. -/
theorem takeDirective_of_not_takeable {c : Instr} {w : Bool} {s : State} {f : QueuePtr → State → State}
    (h : s.takeable c = false) : takeDirective c w s f = .next s := by
  unfold takeDirective; rw [if_neg (by simp [h])]

theorem takeable_going {c : Instr} {s : State} (h : s.takeable c = true) : s.queue.resetTaken = false := by
  simp only [State.takeable, Bool.and_eq_true, Bool.not_eq_true'] at h; exact h.1.1.2

/-- Two pointers one apart name two entries. -/
theorem ringPlace_pred (p : QueuePtr) : ringPlace (p - 1) ≠ ringPlace p := by
  simp only [ringPlace, ne_eq, Fin.mk.injEq, BitVec.toNat_sub]
  have h : (1 : QueuePtr).toNat = 1 := rfl
  rw [h]
  omega

/-- What taking leaves in the state: the queue has moved on, nothing is noted, and all else is as it was. -/
theorem taken_frame (s : State) (w : Bool) : s.taken w = { s with queue := (s.taken w).queue, todo := Todo.nothing } := by
  unfold State.taken State.advanceTake State.closeExtend; split <;> rfl

@[simp] theorem taken_todo (s : State) (w : Bool) : (s.taken w).todo = Todo.nothing := by rw [taken_frame]

/-! Every table is as it was when a directive is carried out. -/

@[simp] theorem taken_resetLow (s : State) (w : Bool) : (s.taken w).resetLow = s.resetLow := by rw [taken_frame]
@[simp] theorem taken_straps (s : State) (w : Bool) : (s.taken w).straps = s.straps := by rw [taken_frame]
@[simp] theorem taken_strapChanges (s : State) (w : Bool) : (s.taken w).strapChanges = s.strapChanges := by rw [taken_frame]
@[simp] theorem taken_station (s : State) (w : Bool) : (s.taken w).station = s.station := by rw [taken_frame]
@[simp] theorem taken_cache (s : State) (w : Bool) : (s.taken w).cache = s.cache := by rw [taken_frame]
@[simp] theorem taken_unknownStream (s : State) (w : Bool) : (s.taken w).unknownStream = s.unknownStream := by rw [taken_frame]
@[simp] theorem taken_closedStream (s : State) (w : Bool) : (s.taken w).closedStream = s.closedStream := by rw [taken_frame]
@[simp] theorem taken_duplicates (s : State) (w : Bool) : (s.taken w).duplicates = s.duplicates := by rw [taken_frame]
@[simp] theorem taken_badHeaders (s : State) (w : Bool) : (s.taken w).badHeaders = s.badHeaders := by rw [taken_frame]
@[simp] theorem taken_overruns (s : State) (w : Bool) : (s.taken w).overruns = s.overruns := by rw [taken_frame]
@[simp] theorem taken_mem (s : State) (w : Bool) : (s.taken w).mem = s.mem := by rw [taken_frame]
@[simp] theorem taken_sharedFree (s : State) (w : Bool) : (s.taken w).sharedFree = s.sharedFree := by rw [taken_frame]
@[simp] theorem taken_waitList (s : State) (w : Bool) : (s.taken w).waitList = s.waitList := by rw [taken_frame]
@[simp] theorem taken_jobs (s : State) (w : Bool) : (s.taken w).jobs = s.jobs := by rw [taken_frame]
@[simp] theorem taken_pools (s : State) (w : Bool) : (s.taken w).pools = s.pools := by rw [taken_frame]
@[simp] theorem taken_lanes (s : State) (w : Bool) : (s.taken w).lanes = s.lanes := by rw [taken_frame]
@[simp] theorem taken_rates (s : State) (w : Bool) : (s.taken w).rates = s.rates := by rw [taken_frame]
@[simp] theorem taken_tiers (s : State) (w : Bool) : (s.taken w).tiers = s.tiers := by rw [taken_frame]
@[simp] theorem taken_accounts (s : State) (w : Bool) : (s.taken w).accounts = s.accounts := by rw [taken_frame]
@[simp] theorem taken_alerts (s : State) (w : Bool) : (s.taken w).alerts = s.alerts := by rw [taken_frame]
@[simp] theorem taken_overflow (s : State) (w : Bool) : (s.taken w).overflow = s.overflow := by rw [taken_frame]
@[simp] theorem taken_overflowCount (s : State) (w : Bool) : (s.taken w).overflowCount = s.overflowCount := by rw [taken_frame]
@[simp] theorem taken_intakeMask (s : State) (w : Bool) : (s.taken w).intakeMask = s.intakeMask := by rw [taken_frame]
@[simp] theorem taken_tick (s : State) (w : Bool) : (s.taken w).tick = s.tick := by rw [taken_frame]
@[simp] theorem taken_notices (s : State) (w : Bool) : (s.taken w).notices = s.notices := by rw [taken_frame]
@[simp] theorem taken_noticeDrops (s : State) (w : Bool) : (s.taken w).noticeDrops = s.noticeDrops := by rw [taken_frame]
@[simp] theorem taken_noticeAddr (s : State) (w : Bool) : (s.taken w).noticeAddr = s.noticeAddr := by rw [taken_frame]
@[simp] theorem taken_sent (s : State) (w : Bool) : (s.taken w).sent = s.sent := by rw [taken_frame]
@[simp] theorem taken_pending (s : State) (w : Bool) : (s.taken w).pending = s.pending := by rw [taken_frame]
@[simp] theorem taken_job (s : State) (w : Bool) (x : Slot) : (s.taken w).job x = s.job x := by unfold State.job; simp
@[simp] theorem taken_lane (s : State) (w : Bool) (x : LaneNo) : (s.taken w).lane x = s.lane x := by unfold State.lane; simp
@[simp] theorem taken_pool (s : State) (w : Bool) (x : PoolNo) : (s.taken w).pool x = s.pool x := by unfold State.pool; simp
@[simp] theorem taken_account (s : State) (w : Bool) (x : AccountNo) : (s.taken w).account x = s.account x := by unfold State.account; simp

theorem taken_going (s : State) (w : Bool) : (s.taken w).queue.resetTaken = s.queue.resetTaken := by
  unfold State.taken State.advanceTake State.closeExtend; split <;> rfl

/-- A directive whose effect notes its own completion, and whose other opportunities lead to nothing, ends with that. -/
theorem takeDirective_concludes {c : Instr} {w : Bool} {s : State} {f : QueuePtr → State → State} (h : s.takeable c = true)
    {u : State} {done : List Completion} (hf : f s.queue.take (s.taken w) = u) (hd : u.todo.done = done)
    (hn : (done.map fun c => ringPlace c.ptr).Nodup)
    (hg : u.queue.resetTaken = false) (hr : ∀ a ∈ u.todo.risen, ∀ i, (u.job i).fundsHeld a = false) (hx : u.todo.reset = false)
    (hp : ∀ p ∈ u.todo.pools, u.idle p) :
    ∃ t, takeDirective c w s f = .next t ∧ Concludes u t done := by
  subst hd
  exact ⟨_, takeDirective_of_takeable h, hf ▸ finish_concludes u hp hr hx hg hn⟩

/-- What is left to carry out does not matter to how an event ends. -/
theorem Concludes.of_todo {u v t : State} {done : List Completion} (h : Concludes u t done)
    (e : v = { u with todo := v.todo }) : Concludes v t done := by
  have hq : v.queue = u.queue := by rw [e]
  have he : ∀ q, v.entry q = u.entry q := fun q => by unfold State.entry; rw [hq]
  have hn : v.notices = u.notices := by rw [e]
  exact
    { tables := by rw [e]; exact h.tables
      results := h.results
      others := fun q hq hf => by rw [he] at hf ⊢; exact h.others q hq hf
      directives := fun q => by rw [he]; exact h.directives q
      take := by rw [hq]; exact h.take
      tail := by rw [hq]; exact h.tail
      ext := by rw [hq]; exact h.ext
      going := by rw [hq]; exact h.going
      notices := by rw [hn]; exact h.notices
      folded := by
        rw [h.folded, hq, carryAll_settled, carryAll_settled _ v]
        exact congrArg (fun x : State => ((inQueueOrder u.queue.retire done).foldl State.carryOut x).settled) (by rw [e]; rfl) }

/-- A quick directive that changes the tables into those of `u` and completes ends with that. -/
theorem takeDirective_answers {c : Instr} {w : Bool} {s : State} {f : QueuePtr → State → State} (h : s.takeable c = true)
    {u : State} {a : Result × Word32 × Word32} (hf : f s.queue.take (s.taken w) = u.answer s.queue.take a)
    (hg : u.queue.resetTaken = s.queue.resetTaken) (ht : u.todo = Todo.nothing) :
    ∃ t, takeDirective c w s f = .next t ∧ Concludes u t [⟨s.queue.take, a.1, a.2.1, a.2.2⟩] := by
  obtain ⟨t, h1, h2⟩ := takeDirective_concludes (u := u.answer s.queue.take a)
    (done := [⟨s.queue.take, a.1, a.2.1, a.2.2⟩]) h hf
    (by show u.todo.done ++ [_] = [_]; rw [ht]; rfl) (by simp) (hg.trans (takeable_going h))
    (by show ∀ a ∈ u.todo.risen, _; rw [ht]; simp [Todo.nothing]) (by show u.todo.reset = false; rw [ht]; rfl)
    (by show ∀ p ∈ u.todo.pools, _; rw [ht]; simp [Todo.nothing])
  exact ⟨t, h1, h2.of_todo rfl⟩

/-- A directive that changes nothing, and completes with a result and two values. -/
theorem takeDirective_reports {c : Instr} {w : Bool} {s : State} {f : QueuePtr → State → State} (h : s.takeable c = true)
    {r : Result} {v1 v2 : Word32} (hf : f s.queue.take (s.taken w) = (s.taken w).answer s.queue.take (r, v1, v2)) :
    ∃ t, takeDirective c w s f = .next t ∧ Concludes (s.taken w) t [⟨s.queue.take, r, v1, v2⟩] :=
  takeDirective_answers (a := (r, v1, v2)) h hf (taken_going s w) (taken_todo s w)

/-- A directive that changes the tables into those of `u`, and completes with a result and two values. -/
theorem takeDirective_changes {c : Instr} {w : Bool} {s : State} {f : QueuePtr → State → State} (h : s.takeable c = true)
    (u : State) {r : Result} {v1 v2 : Word32} (hf : f s.queue.take (s.taken w) = u.answer s.queue.take (r, v1, v2))
    (hq : u.queue = (s.taken w).queue) (ht : u.todo = Todo.nothing) :
    ∃ t, takeDirective c w s f = .next t ∧ Concludes u t [⟨s.queue.take, r, v1, v2⟩] :=
  takeDirective_answers (a := (r, v1, v2)) h hf (by rw [hq, taken_going]) ht

/-- A directive that changes the tables into those of `u`, leads to nothing more, and completes. -/
theorem takeDirective_ends {c : Instr} {w : Bool} {s : State} {f : QueuePtr → State → State} (h : s.takeable c = true)
    (u v : State) {r : Result} {v1 v2 : Word32} (hf : f s.queue.take (s.taken w) = v.answer s.queue.take (r, v1, v2))
    (hu : u = { v with todo := u.todo }) (hq : v.queue = (s.taken w).queue) (hd : v.todo.done = [])
    (hr : ∀ a ∈ v.todo.risen, ∀ i, (v.job i).fundsHeld a = false) (hx : v.todo.reset = false)
    (hp : ∀ p ∈ v.todo.pools, v.idle p) :
    ∃ t, takeDirective c w s f = .next t ∧ Concludes u t [⟨s.queue.take, r, v1, v2⟩] := by
  obtain ⟨t, h1, h2⟩ := takeDirective_concludes (u := v.answer s.queue.take (r, v1, v2))
    (done := [⟨s.queue.take, r, v1, v2⟩]) h hf (by show v.todo.done ++ [_] = [_]; rw [hd]; rfl) (by simp)
    (by show v.queue.resetTaken = false; rw [hq, taken_going]; exact takeable_going h) hr hx hp
  exact ⟨t, h1, h2.of_todo hu⟩

/-- A noted rise of the headroom leaves all but the notes as it was. -/
theorem noteHeadroom_frame (s : State) (a : AccountNo) (b : Int) :
    s.noteHeadroom a b = { s with todo := (s.noteHeadroom a b).todo } := by
  unfold State.noteHeadroom State.noteRise; split
  · split <;> rfl
  · rfl

/-- What a change of the headroom can note: this account, and only if the headroom rose. -/
theorem noteHeadroom_todo (s : State) (a : AccountNo) (b : Int) : (s.noteHeadroom a b).todo.pools = s.todo.pools ∧
    (s.noteHeadroom a b).todo.done = s.todo.done ∧ (s.noteHeadroom a b).todo.reset = s.todo.reset ∧
    ∀ x ∈ (s.noteHeadroom a b).todo.risen, x ∈ s.todo.risen ∨ x = a ∧ b < (s.account a).headroom := by
  unfold State.noteHeadroom; split
  · rename_i h
    simp only [Bool.and_eq_true, decide_eq_true_eq] at h
    unfold State.noteRise; split
    · exact ⟨rfl, rfl, rfl, fun x hx => .inl hx⟩
    · refine ⟨rfl, rfl, rfl, fun x hx => ?_⟩
      rcases List.mem_append.mp hx with hx | hx
      · exact .inl hx
      · exact .inr ⟨by simpa using hx, h.2⟩
  · exact ⟨rfl, rfl, rfl, fun x hx => .inl hx⟩

/-! ## Operands -/

theorem toIndex_of_lt {n k : Nat} (h : k < n) : toIndex n k = some ⟨k, h⟩ := dif_pos h

theorem toIndex_of_ge {n k : Nat} (h : n ≤ k) : toIndex n k = none := dif_neg (by omega)

theorem toIndex_of_eq {n k : Nat} (i : Fin n) (h : k = i) : toIndex n k = some i := by subst h; exact toIndex_of_lt i.2

/-- Two fields in one value (R177). -/
theorem pack16_eq_append (a b : Nat) : pack16 a b = BitVec.ofNat 16 a ++ BitVec.ofNat 16 b := by
  unfold pack16 val32
  apply BitVec.eq_of_toNat_eq
  simp only [BitVec.toNat_append, BitVec.toNat_ofNat]
  rw [← Nat.shiftLeft_add_eq_or_of_lt (by omega), Nat.shiftLeft_eq]; omega

/-- Four fields in one value (R177). -/
theorem pack8_eq_append (a b c d : Nat) :
    pack8 a b c d = BitVec.ofNat 8 a ++ BitVec.ofNat 8 b ++ BitVec.ofNat 8 c ++ BitVec.ofNat 8 d := by
  unfold pack8 val32
  apply BitVec.eq_of_toNat_eq
  simp only [BitVec.toNat_append, BitVec.toNat_ofNat]
  rw [← Nat.shiftLeft_add_eq_or_of_lt (by omega), ← Nat.shiftLeft_add_eq_or_of_lt (by omega),
    ← Nat.shiftLeft_add_eq_or_of_lt (by omega)]
  simp only [Nat.shiftLeft_eq]; omega

end Sys2Proof.Machine
end

