-- ==== Sys2Proof/Laws/PerInstr.lean ====
section
/-! SUPPORT. A law of every command as syntax, one lemma per constructor: which commands a directive of 16 bytes spells. -/

namespace Sys2Proof.Laws.Spelled

open Sys2Proof.Machine

/-- The directive code of a command that takes a directive (Table 11.3); none for a frame, a lane event or a pin. -/
def codeOf : Instr → Option Word16
  | .openJob _ _ _ _ _ _ _ => none
  | .sheet _ _ _ _ _ _ _ _ => none
  | .data _ _ _ => none
  | .close _ _ => none
  | .cancel _ _ => none
  | .upstreamFrameDiscarded => none
  | .managementFrame _ _ _ _ => none
  | .extend _ _ => some 1
  | .fence _ => some 2
  | .reset => some 3
  | .countersRead _ => some 4
  | .rateSet _ _ _ _ _ => some 5
  | .tierSet _ _ _ _ => some 6
  | .accountOpen _ _ _ => some 7
  | .accountClose _ => some 8
  | .accountLimit _ _ => some 9
  | .accountSwap _ _ _ => some 10
  | .accountRead _ _ => some 11
  | .accountRoll _ => some 12
  | .laneSet _ _ _ _ _ _ _ _ => some 13
  | .laneRead _ _ => some 14
  | .poolSet _ _ => some 15
  | .poolReserve _ _ _ => some 16
  | .jobRead _ _ => some 17
  | .jobHold _ _ => some 18
  | .jobRelease _ _ => some 19
  | .jobCancel _ _ => some 20
  | .jobMove _ _ => some 21
  | .purge _ _ => some 22
  | .alertRead _ _ => some 23
  | .alertAck _ => some 24
  | .alertMask _ => some 25
  | .unknownDirective code => some code
  | .noticeSend => none
  | .hello _ _ _ _ _ => none
  | .proceed _ _ => none
  | .wait _ _ => none
  | .media _ _ => none
  | .refuse _ _ => none
  | .out _ _ => none
  | .jam _ _ _ => none
  | .stopped _ _ => none
  | .clear _ => none
  | .status _ _ _ _ => none
  | .linkFrameDiscarded _ _ => none
  | .carrierLost _ => none
  | .carrierPresent _ => none
  | .hailTimerExpiry _ => none
  | .silenceTimerExpiry _ => none
  | .answerTimeout _ => none
  | .abortTimeout _ => none
  | .reofferTimerExpiry _ => none
  | .escalationTimerExpiry _ => none
  | .resetPinLow => none
  | .resetPinRise _ => none

/-- A well-formed command that takes a directive is spelled by a directive of its code, whatever its operands; no directive spells
any other command (R163, R175, Table 11.3). -/
def Statement (i : Instr) : Prop :=
  i.wellFormed = true → match codeOf i with
    | some code => ∃ d : Directive, d.code = code ∧ commandOf d = i
    | none => ∀ d, commandOf d ≠ i

/-- What a directive spells takes a directive. -/
theorem codeOf_commandOf (d : Directive) : (codeOf (commandOf d)).isSome = true := by
  unfold commandOf
  split <;> rfl

/-- A command with no directive code is spelled by none. -/
theorem not_spelled {i : Instr} (h : codeOf i = none) (d : Directive) : commandOf d ≠ i := by
  rintro rfl
  simpa [h] using codeOf_commandOf d

/-- A field of an operand that is given as a number. -/
theorem field_ofNat (m low n : Nat) : field (BitVec.ofNat 32 m) low n = BitVec.ofNat n (m % 4294967296 / 2 ^ low) := by
  apply BitVec.eq_of_toNat_eq
  simp [field, Nat.shiftRight_eq_div_pow]

/-- A byte or half as the field that its value is. -/
theorem ofNat_of_toNat {n : Nat} (x : BitVec n) (m : Nat) (h : m % 2 ^ n = x.toNat) : BitVec.ofNat n m = x := by
  apply BitVec.eq_of_toNat_eq
  simpa using h

/-- A byte in bits 0 to 7 with a flag in bit 16 (RATE-SET and TIER-SET). -/
theorem byte_and_flag (b : Byte) (f : Bool) : field (BitVec.ofNat 32 (b.toNat + 65536 * f.toNat)) 0 8 = b ∧
    (BitVec.ofNat 32 (b.toNat + 65536 * f.toNat)).getLsbD 16 = f := by
  have hb := b.isLt
  constructor
  · rw [field_ofNat]
    apply ofNat_of_toNat
    cases f <;> simp <;> omega
  · rw [BitVec.getLsbD_ofNat, Nat.testBit_eq_decide_div_mod_eq]
    cases f <;> simp <;> omega

theorem openJob (tag account : Word16) (pool prio : Byte) (copies winFirst winLast : Word16) :
    Statement (.openJob tag account pool prio copies winFirst winLast) := fun _ => not_spelled rfl

theorem sheet (tag seq number : Word16) (cls sides : Byte) (covA covB : Word16) (length : BitVec 24) :
    Statement (.sheet tag seq number cls sides covA covB length) := fun _ => not_spelled rfl

theorem data (tag seq : Word16) (payload : List Byte) :
    Statement (.data tag seq payload) := fun _ => not_spelled rfl

theorem close (tag seq : Word16) :
    Statement (.close tag seq) := fun _ => not_spelled rfl

theorem cancel (tag seq : Word16) :
    Statement (.cancel tag seq) := fun _ => not_spelled rfl

theorem upstreamFrameDiscarded :
    Statement .upstreamFrameDiscarded := fun _ => not_spelled rfl

theorem managementFrame (source : MacAddress) (station count : Byte) (directives : List Directive) :
    Statement (.managementFrame source station count directives) := fun _ => not_spelled rfl

theorem extend (high1 high2 : Word32) :
    Statement (.extend high1 high2) := fun _ => ⟨⟨1, 0, 0, high1, high2⟩, rfl, rfl⟩

theorem fence (notify : Bool) :
    Statement (.fence notify) := fun _ => ⟨⟨2, 0, if notify = true then 1 else 0, 0, 0⟩, rfl, by cases notify <;> rfl⟩

theorem reset :
    Statement .reset := fun _ => ⟨⟨3, 0, 0, 0, 0⟩, rfl, rfl⟩

theorem countersRead (item : Word32) :
    Statement (.countersRead item) := fun _ => ⟨⟨4, 0, item, 0, 0⟩, rfl, rfl⟩

theorem rateSet (cls : Byte) (valid : Bool) (bm bc : Word16) (slope : Word32) :
    Statement (.rateSet cls valid bm bc slope) := fun _ =>
  ⟨⟨5, 0, BitVec.ofNat 32 (cls.toNat + 65536 * valid.toNat), BitVec.ofNat 32 (bc.toNat + 65536 * bm.toNat), slope⟩, rfl, by
    have h1 := bm.isLt
    have h2 := bc.isLt
    change Instr.rateSet (field _ 0 8) (BitVec.getLsbD _ 16) (field _ 16 16) (field _ 0 16) slope = _
    rw [byte_and_flag cls valid |>.1, byte_and_flag cls valid |>.2, field_ofNat, field_ofNat]
    congr 1 <;> (apply ofNat_of_toNat; simp; omega)⟩

theorem tierSet (tier : Byte) (valid : Bool) (threshold percentage : Word32) :
    Statement (.tierSet tier valid threshold percentage) := fun _ =>
  ⟨⟨6, 0, BitVec.ofNat 32 (tier.toNat + 65536 * valid.toNat), threshold, percentage⟩, rfl, by
    unfold commandOf
    simp only [byte_and_flag]
    rfl⟩

theorem accountOpen (account limit balance : Word32) :
    Statement (.accountOpen account limit balance) := fun _ => ⟨⟨7, 0, account, limit, balance⟩, rfl, rfl⟩

theorem accountClose (account : Word32) :
    Statement (.accountClose account) := fun _ => ⟨⟨8, 0, account, 0, 0⟩, rfl, rfl⟩

theorem accountLimit (account limit : Word32) :
    Statement (.accountLimit account limit) := fun _ => ⟨⟨9, 0, account, limit, 0⟩, rfl, rfl⟩

theorem accountSwap (account expected new : Word32) :
    Statement (.accountSwap account expected new) := fun _ => ⟨⟨10, 0, account, expected, new⟩, rfl, rfl⟩

theorem accountRead (account item : Word32) :
    Statement (.accountRead account item) := fun _ => ⟨⟨11, 0, account, item, 0⟩, rfl, rfl⟩

theorem accountRoll (account : Word32) :
    Statement (.accountRoll account) := fun _ => ⟨⟨12, 0, account, 0, 0⟩, rfl, rfl⟩

theorem laneSet (lane silence escalation pool enable : Byte) (mask reoffer : Word16) (answer : Byte) :
    Statement (.laneSet lane silence escalation pool enable mask reoffer answer) := fun _ =>
  ⟨⟨13, 0, BitVec.ofNat 32 (lane.toNat + 256 * silence.toNat + 65536 * escalation.toNat),
      BitVec.ofNat 32 (mask.toNat + 65536 * enable.toNat + 16777216 * pool.toNat),
      BitVec.ofNat 32 (256 * answer.toNat + 65536 * reoffer.toNat)⟩, rfl, by
    have h1 := lane.isLt
    have h2 := silence.isLt
    have h3 := escalation.isLt
    have h4 := pool.isLt
    have h5 := enable.isLt
    have h6 := mask.isLt
    have h7 := reoffer.isLt
    have h8 := answer.isLt
    change Instr.laneSet (field _ 0 8) (field _ 8 8) (field _ 16 8) (field _ 24 8) (field _ 16 8) (field _ 0 16) (field _ 16 16)
      (field _ 8 8) = _
    simp only [field_ofNat]
    congr 1 <;> (apply ofNat_of_toNat; simp; omega)⟩

theorem laneRead (lane item : Word32) :
    Statement (.laneRead lane item) := fun _ => ⟨⟨14, 0, lane, item, 0⟩, rfl, rfl⟩

theorem poolSet (pool allowance : Word32) :
    Statement (.poolSet pool allowance) := fun _ => ⟨⟨15, 0, pool, allowance, 0⟩, rfl, rfl⟩

theorem poolReserve (pool base limit : Word32) :
    Statement (.poolReserve pool base limit) := fun _ => ⟨⟨16, 0, pool, base, limit⟩, rfl, rfl⟩

theorem jobRead (slot item : Word32) :
    Statement (.jobRead slot item) := fun _ => ⟨⟨17, 0, slot, item, 0⟩, rfl, rfl⟩

theorem jobHold (slot tag : Word32) :
    Statement (.jobHold slot tag) := fun _ => ⟨⟨18, 0, slot, tag, 0⟩, rfl, rfl⟩

theorem jobRelease (slot tag : Word32) :
    Statement (.jobRelease slot tag) := fun _ => ⟨⟨19, 0, slot, tag, 0⟩, rfl, rfl⟩

theorem jobCancel (slot tag : Word32) :
    Statement (.jobCancel slot tag) := fun _ => ⟨⟨20, 0, slot, tag, 0⟩, rfl, rfl⟩

theorem jobMove (slot tag : Word32) :
    Statement (.jobMove slot tag) := fun _ => ⟨⟨21, 0, slot, tag, 0⟩, rfl, rfl⟩

theorem purge (scope target : Word32) :
    Statement (.purge scope target) := fun _ => ⟨⟨22, 0, scope, target, 0⟩, rfl, rfl⟩

theorem alertRead (record item : Word32) :
    Statement (.alertRead record item) := fun _ => ⟨⟨23, 0, record, item, 0⟩, rfl, rfl⟩

theorem alertAck (record : Word32) :
    Statement (.alertAck record) := fun _ => ⟨⟨24, 0, record, 0, 0⟩, rfl, rfl⟩

theorem alertMask (mask : Word32) :
    Statement (.alertMask mask) := fun _ => ⟨⟨25, 0, mask, 0, 0⟩, rfl, rfl⟩

theorem unknownDirective (code : Word16) :
    Statement (.unknownDirective code) := fun h => ⟨⟨code, 0, 0, 0, 0⟩, rfl, by
  have h' : code = 0 ∨ 25 < code.toNat := by simpa [Instr.wellFormed] using h
  unfold commandOf
  split <;> first
    | rfl
    | (rename_i e
       simp only at e
       rcases h' with rfl | h'
       · simp at e
       · omega)⟩

theorem noticeSend :
    Statement .noticeSend := fun _ => not_spelled rfl

theorem hello (lane : LaneNo) (chunk media : Word16) (duplex : Bool) (depth : Byte) :
    Statement (.hello lane chunk media duplex depth) := fun _ => not_spelled rfl

theorem proceed (lane : LaneNo) (seq : Word16) :
    Statement (.proceed lane seq) := fun _ => not_spelled rfl

theorem wait (lane : LaneNo) (seq : Word16) :
    Statement (.wait lane seq) := fun _ => not_spelled rfl

theorem media (lane : LaneNo) (seq : Word16) :
    Statement (.media lane seq) := fun _ => not_spelled rfl

theorem refuse (lane : LaneNo) (seq : Word16) :
    Statement (.refuse lane seq) := fun _ => not_spelled rfl

theorem out (lane : LaneNo) (seq : Word16) :
    Statement (.out lane seq) := fun _ => not_spelled rfl

theorem jam (lane : LaneNo) (lastOut : Option Word16) (location : BitVec 4) :
    Statement (.jam lane lastOut location) := fun _ => not_spelled rfl

theorem stopped (lane : LaneNo) (lastOut : Option Word16) :
    Statement (.stopped lane lastOut) := fun _ => not_spelled rfl

theorem clear (lane : LaneNo) :
    Statement (.clear lane) := fun _ => not_spelled rfl

theorem status (lane : LaneNo) (tonerLow trayLow doorOpen : Bool) :
    Statement (.status lane tonerLow trayLow doorOpen) := fun _ => not_spelled rfl

theorem linkFrameDiscarded (lane : LaneNo) (why : LinkDiscard) :
    Statement (.linkFrameDiscarded lane why) := fun _ => not_spelled rfl

theorem carrierLost (lane : LaneNo) :
    Statement (.carrierLost lane) := fun _ => not_spelled rfl

theorem carrierPresent (lane : LaneNo) :
    Statement (.carrierPresent lane) := fun _ => not_spelled rfl

theorem hailTimerExpiry (lane : LaneNo) :
    Statement (.hailTimerExpiry lane) := fun _ => not_spelled rfl

theorem silenceTimerExpiry (lane : LaneNo) :
    Statement (.silenceTimerExpiry lane) := fun _ => not_spelled rfl

theorem answerTimeout (lane : LaneNo) :
    Statement (.answerTimeout lane) := fun _ => not_spelled rfl

theorem abortTimeout (lane : LaneNo) :
    Statement (.abortTimeout lane) := fun _ => not_spelled rfl

theorem reofferTimerExpiry (lane : LaneNo) :
    Statement (.reofferTimerExpiry lane) := fun _ => not_spelled rfl

theorem escalationTimerExpiry (lane : LaneNo) :
    Statement (.escalationTimerExpiry lane) := fun _ => not_spelled rfl

theorem resetPinLow :
    Statement .resetPinLow := fun _ => not_spelled rfl

theorem resetPinRise (straps : Byte) :
    Statement (.resetPinRise straps) := fun _ => not_spelled rfl

end Sys2Proof.Laws.Spelled
end

