-- ==== Sys2Proof/Laws/Quiet.lean ====
section
/-! SUPPORT. The shared operations where they lead to nothing more: walks with nobody waiting, cursors that stand still, lanes that
cannot offer; and what raising an alert reads and changes. -/

namespace Sys2Proof.Machine

/-! ## Putting back what was there -/

theorem setJob_job (s : State) (i : Slot) : s.setJob i (s.job i) = s := by
  unfold State.setJob State.job
  have : s.jobs.set i s.jobs[i] = s.jobs := by simp [Vector.set_getElem_self]
  rw [this]

theorem setLane_lane (s : State) (l : LaneNo) : s.setLane l (s.lane l) = s := by
  unfold State.setLane State.lane
  have : s.lanes.set l s.lanes[l] = s.lanes := by simp [Vector.set_getElem_self]
  rw [this]

theorem setPool_pool (s : State) (p : PoolNo) : s.setPool p (s.pool p) = s := by
  unfold State.setPool State.pool
  have : s.pools.set p s.pools[p] = s.pools := by simp [Vector.set_getElem_self]
  rw [this]

theorem setLane_setLane (s : State) (l : LaneNo) (q r : Lane) : (s.setLane l q).setLane l r = s.setLane l r := by
  unfold State.setLane; simp

theorem setPool_setPool (s : State) (p : PoolNo) (q r : Pool) : (s.setPool p q).setPool p r = s.setPool p r := by
  unfold State.setPool; simp

theorem modJob_modJob (s : State) (i : Slot) (f g : Job → Job) : (s.modJob i f).modJob i g = s.modJob i fun j => g (f j) := by
  unfold State.modJob; rw [setJob_setJob, State.job_setJob_self]

theorem modLane_modLane (s : State) (l : LaneNo) (f g : Lane → Lane) :
    (s.modLane l f).modLane l g = s.modLane l fun r => g (f r) := by
  unfold State.modLane; rw [setLane_setLane, State.lane_setLane_self]

/-! ## Nobody waits -/

/-- A walk of an empty wait list grants nothing (R39). -/
theorem walk_of_none (s : State) (h : s.waitList = []) : s.walk = s := by unfold State.walk; rw [h]; rfl

/-- An event at an unbound job leaves its cursors (R102). -/
theorem settleBound_of_unbound (s : State) (i : Slot) (h : (s.job i).lane = none) : s.settleBound i = s := by
  unfold State.settleBound; rw [h]; rfl

/-- An event at an unbound job is no offer opportunity (R102). -/
theorem offerBound_of_unbound (s : State) (i : Slot) (h : (s.job i).lane = none) : s.offerBound i = s := by
  unfold State.offerBound; rw [h]

/-- An unbound job leaves no lane (R56). -/
theorem leaveLane_of_unbound (s : State) (i : Slot) (h : (s.job i).lane = none) : s.leaveLane i = s := by
  unfold State.leaveLane; rw [h]

/-- An offer step whose conditions do not hold does nothing (R94). -/
theorem offerStep_of_none (s : State) (l : LaneNo) (h : s.offerable l = none) : s.offerStep l = s := by
  unfold State.offerStep; rw [h]

/-- A cursor that cannot move is settled (R90). -/
theorem settleBy_of_none (j : Job) (n : Nat) (c : Cursor) (h : j.cursorMove c = none) : j.settleBy n c = c := by
  cases n with
  | zero => rfl
  | succ n => unfold Job.settleBy; rw [h]

/-- A cursor that cannot move is settled behind the send cursor (R91). -/
theorem settleBehind_of_none (j : Job) (n : Nat) (c : Cursor) (h : j.cursorMove c = none) : j.settleBehind n c = c := by
  cases n with
  | zero => rfl
  | succ n => unfold Job.settleBehind; rw [h]; split <;> rfl

/-- A cursor that is not behind the send cursor is settled (R91). -/
theorem settleBehind_of_not_behind (j : Job) (n : Nat) (c : Cursor) (h : c.behind j.send = false) : j.settleBehind n c = c := by
  cases n with
  | zero => rfl
  | succ n => unfold Job.settleBehind; rw [if_neg (by simp [h])]

/-- Cursors that stand still leave a job that has passed nothing, and is not complete, as it is. -/
theorem settle_of_still (s : State) (i : Slot) (hs : (s.job i).cursorMove (s.job i).send = none)
    (hc : (s.job i).cursorMove (s.job i).confirm = none ∨ (s.job i).confirm.behind (s.job i).send = false)
    (hp : (s.job i).hasPassed = false) (hd : (s.job i).completed = false) : s.settle i = s := by
  have h1 : (s.job i).settleSend = s.job i := by unfold Job.settleSend; rw [settleBy_of_none _ _ _ hs]
  have h2 : (s.job i).settleConfirm = s.job i := by
    unfold Job.settleConfirm
    rcases hc with hc | hc
    · rw [settleBehind_of_none _ _ _ hc]
    · rw [settleBehind_of_not_behind _ _ _ hc]
  unfold State.settle State.modJob
  dsimp only
  rw [h1, h2, setJob_job]
  unfold State.releasePass; rw [if_neg (by simp [hp])]
  unfold State.testCompletion; rw [if_neg (by simp [hd])]

/-! ## Bindings -/

/-- A notice and a lane record are written apart. -/
theorem notice_setLane (s : State) (l : LaneNo) (r : Lane) (n : Notice) : (s.setLane l r).notice n = (s.notice n).setLane l r := by
  unfold State.notice State.noticeRoom
  by_cases h : s.notices.length < Config.noticePlaces <;> simp [h, State.setLane]

/-- A job whose send cursor stands on a SPOOLED record is sendable (R53). -/
theorem sendable_of_spooled (j : Job) (rec : SheetRecord) (h : j.recordAt j.send = some rec) (hc : rec.cond = .spooled) :
    j.sendable = true := by
  unfold Job.recordAt at h
  obtain ⟨hn, h⟩ := List.getElem?_eq_some_iff.mp h
  unfold Job.sendable
  rw [List.drop_eq_getElem_cons hn, h, List.find?_cons_of_pos (by simp [SheetCond.passable, hc])]
  simp [hc]

/-- A cursor on a SPOOLED record cannot move (R90). -/
theorem cursorMove_of_spooled (j : Job) (c : Cursor) (rec : SheetRecord) (h : j.recordAt c = some rec) (hc : rec.cond = .spooled) :
    j.cursorMove c = none := by
  unfold Job.recordAt at h; unfold Job.cursorMove; rw [h]; simp [SheetCond.passable, hc]

/-- A job that has records, and has passed none that is still in its list, is not complete (R67). -/
theorem completed_of_records (j : Job) (hr : j.records ≠ []) (hp : j.hasPassed = false) : j.completed = false := by
  have hl : 0 < j.records.length := List.length_pos_iff.mpr hr
  unfold Job.hasPassed at hp; unfold Job.completed
  simp only [Bool.and_eq_false_imp, beq_iff_eq, decide_eq_false_iff_not] at hp
  simp only [Bool.and_eq_false_imp, Bool.or_eq_false_iff, beq_iff_eq, decide_eq_false_iff_not]
  exact fun _ => ⟨by simpa using hr, fun e => by have := hp e; omega⟩

/-- What a binding sets before the lane's offer step (R55, R106). -/
def State.boundTo (s : State) (l : LaneNo) (i : Slot) : State :=
  (((s.leaveQueue i).leaveReady l).setJob i { s.job i with state := .printing, lane := some l }).setLane l
    { s.lane l with state := .bound, job := some i, inflight := [], offer := none, retained := none, timeouts := 0 }
      |>.notice (.dispatched i l)

@[simp] theorem State.boundTo_job (s : State) (l : LaneNo) (i : Slot) :
    (s.boundTo l i).job i = { s.job i with state := .printing, lane := some l } := by simp [State.boundTo]
@[simp] theorem State.boundTo_lane (s : State) (l : LaneNo) (i : Slot) : (s.boundTo l i).lane l =
    { s.lane l with state := .bound, job := some i, inflight := [], offer := none, retained := none, timeouts := 0 } := by
  simp [State.boundTo]
@[simp] theorem State.boundTo_account (s : State) (l : LaneNo) (i : Slot) (a : AccountNo) : (s.boundTo l i).account a = s.account a := by
  simp [State.boundTo, State.leaveReady, State.leaveQueue]
theorem State.boundTo_scaled (s : State) (l : LaneNo) (i : Slot) (rec : SheetRecord) (a : AccountNo) :
    (s.boundTo l i).scaled rec a = s.scaled rec a := by
  unfold State.scaled State.rateOf State.tierFor; rw [State.boundTo_account]
  simp [State.boundTo, State.leaveReady, State.leaveQueue]

/-- A binding where the job's cursors stand still and it has records left: the binding and then the offer step (R106). -/
theorem bindJob_of_still (s : State) (l : LaneNo) (i : Slot) (hm : (s.job i).cursorMove (s.job i).send = none)
    (hcur : (s.job i).cursorMove (s.job i).confirm = none ∨ (s.job i).confirm.behind (s.job i).send = false)
    (hp : (s.job i).hasPassed = false) (hr : (s.job i).records ≠ []) : s.bindJob l i = (s.boundTo l i).offerStep l := by
  have hu : s.bindJob l i = ((s.boundTo l i).settle i).offerStep l := by
    simp only [State.boundTo, State.bindJob, State.modJob, State.modLane, State.leaveReady, State.leaveQueue, State.modPool,
      State.job_setPool, State.lane_setPool, State.lane_setJob]
  rw [hu, settle_of_still _ _ (by rw [State.boundTo_job]; exact hm) (by rw [State.boundTo_job]; exact hcur)
    (by rw [State.boundTo_job]; exact hp) (by rw [State.boundTo_job]; exact completed_of_records _ hr hp)]

/-- An offer of a lane with nothing in flight and nothing retained takes the lane's next sequence (R93, R95). -/
theorem sendOffer_of_empty (s : State) (l : LaneNo) (i : Slot) (rec : SheetRecord) (hr : (s.lane l).retained = none)
    (hi : (s.lane l).inflight = []) :
    s.sendOffer l i rec =
      let a := (s.job i).account
      let x := s.scaled rec a
      ((s.raisePending a (estimateOf x)).setLane l { (s.lane l).startAnswer with
        offer := some ⟨(s.job i).send.copy, rec.number, (s.lane l).seq, a, x, estimateOf x⟩
        seq := (s.lane l).seq + 1, timeouts := 0 }).transmit l
          (offerFrame (s.lane l) i rec (s.lane l).seq (s.job i).send.copy) := by
  unfold State.sendOffer
  dsimp only
  have : (s.lane l).offerSeq (s.job i).send.copy rec.number = ((s.lane l).seq, (s.lane l).seq + 1) := by
    unfold Lane.offerSeq; rw [hr, hi]; rfl
  rw [this]
  unfold State.modLane State.raisePending
  rw [State.lane_modAccount]

/-- The offer step of a lane just bound to a job whose send cursor stands on a SPOOLED record, that the lane takes and the account
covers (R95). -/
theorem offerStep_boundTo (s : State) (l : LaneNo) (i : Slot) (rec : SheetRecord)
    (hj : (s.job i).recordAt (s.job i).send = some rec) (hc : rec.cond = .spooled) (ha : (s.lane l).abort = false)
    (hr : (s.lane l).reoffer = none) (hd : 0 < (s.lane l).cap.depth) (ht : (s.lane l).cap.takes rec = true)
    (hf : (s.account (s.job i).account).covers (estimateOf (s.scaled rec (s.job i).account)) = true) :
    (s.boundTo l i).offerStep l = (s.boundTo l i).sendOffer l i rec := by
  have ho : (s.boundTo l i).offerable l = some (i, rec) := by
    unfold Job.recordAt at hj
    unfold State.offerable; rw [State.boundTo_lane]; dsimp only; rw [State.boundTo_job]; simp [hr, ha, hd, Job.recordAt, hj, hc]
  unfold State.offerStep; rw [ho]; dsimp only
  rw [State.boundTo_lane, State.boundTo_job, State.boundTo_account, State.boundTo_scaled]
  simp [ht, hf]

/-- A dispatch opportunity with one binding to make (R55): the head lane is bound to the first sendable job, and no lane, or no sendable
job, is left. -/
theorem dispatchPool_one (s : State) (p : PoolNo) (l : LaneNo) (i : Slot) (n : Nat) (hr : (s.pool p).ready.head? = some l)
    (hf : s.firstSendable p = some i) (he : ((s.bindJob l i).pool p).ready = [] ∨ (s.bindJob l i).firstSendable p = none) :
    State.dispatchPool (n + 1) s p = s.bindJob l i := by
  unfold State.dispatchPool
  rw [hr, hf]; dsimp only
  cases n with
  | zero => rfl
  | succ n =>
    unfold State.dispatchPool
    rcases he with he | he
    · rw [he]; rfl
    · rw [he]; cases ((s.bindJob l i).pool p).ready.head? <;> rfl

/-- An event whose dispatch leaves nothing to carry out ends as the dispatch leaves it. -/
theorem finish_of_dispatched (s : State) (h : s.dispatchNoted.todo = Todo.nothing) : s.finish = s.dispatchNoted := by
  have h2 := dispatchNoted_idle s.dispatchNoted (by rw [h]; intro p hp; cases hp)
  have h3 : ({ s.dispatchNoted with todo := { s.dispatchNoted.todo with pools := [] } } : State) = s.dispatchNoted := by
    rw [h]; show { s.dispatchNoted with todo := Todo.nothing } = _; rw [← h]
  rw [h3] at h2
  have h1 : s.finish = s.dispatchNoted.finish := by unfold State.finish; rw [h2]
  rw [h1, finish_nothing _ h]
  show { s.dispatchNoted with todo := Todo.nothing } = _; rw [← h]

/-! ## Requeueing -/

/-- The first job that an event requeues in a class stands at its front (R51). -/
@[simp] theorem insertRequeued_nil (i : Slot) (l : List Slot) : insertRequeued [] i l = i :: l := by
  cases l <;> simp [insertRequeued]

/-- A job is requeued behind those of the jobs requeued before it that are lower and stand at the front, and before every other
(R51). -/
theorem insertRequeued_split (requeued : List Slot) (i : Slot) (front l : List Slot)
    (hf : ∀ k ∈ front, k ∈ requeued ∧ k < i) (hl : ∀ k ∈ l.head?, k ∈ requeued → ¬k < i) :
    insertRequeued requeued i (front ++ l) = front ++ i :: l := by
  induction front with
  | nil =>
    cases l with
    | nil => rfl
    | cons k rest =>
      have := hl k rfl
      unfold insertRequeued; rw [List.nil_append]; simp only
      rw [if_neg]; · rfl
      simp only [Bool.and_eq_true, List.contains_iff_mem, decide_eq_true_eq, not_and]; exact this
  | cons k rest ih =>
    have hk := hf k (by simp)
    rw [List.cons_append, insertRequeued, if_pos (by simp [hk.1, hk.2]), ih fun m hm => hf m (by simp [hm])]; rfl

/-! ## Raising an alert -/

/-- `t` with the alert log and the notice queue of `u`. -/
def State.withAlerts (t u : State) : State :=
  { t with alerts := u.alerts, overflow := u.overflow, overflowCount := u.overflowCount, notices := u.notices,
           noticeDrops := u.noticeDrops }

/-- What raising an alert reads: the masks, the alert log, the clock and the notice queue; and it changes the alert log and the notice
queue alone. -/
theorem raiseAlert_congr (s t : State) (e : AlertEvent) (hl : ∀ l, (t.lane l).current.mask = (s.lane l).current.mask)
    (hi : t.intakeMask = s.intakeMask) (ht : t.tick = s.tick) (ha : t = t.withAlerts s) :
    t.raiseAlert e = t.withAlerts (s.raiseAlert e) := by
  have hm : ∀ k l, t.masked k l = s.masked k l := by
    intro k l; unfold State.masked
    rw [hi]; split
    · rfl
    · split
      · rw [hl]
      · rfl
  have hf : t.findAlert e = s.findAlert e := by unfold State.findAlert; rw [ha]; rfl
  have hg : t.freeAlert = s.freeAlert := by unfold State.freeAlert; rw [ha]; rfl
  have hn : ∀ n : Notice, t.notice n = t.withAlerts (s.notice n) := by
    intro n; unfold State.notice State.noticeRoom; rw [ha]; dsimp only [State.withAlerts]
    by_cases h : s.notices.length < Config.noticePlaces
    · simp only [h, decide_true, if_true]
    · simp only [h, decide_false, Bool.false_eq_true, if_false]
  have hr : ∀ i r, t.relayInto i r = t.withAlerts (s.relayInto i r) := by
    intro i r
    unfold State.relayInto
    rw [hm]; split
    · rw [ha]; rfl
    · rw [hn]; rw [ha]; rfl
  have ho : ∀ n : Notice, ({ t with overflow := true, overflowCount := bump t.overflowCount } : State).notice n =
      t.withAlerts (({ s with overflow := true, overflowCount := bump s.overflowCount } : State).notice n) := by
    intro n; unfold State.notice State.noticeRoom; rw [ha]; dsimp only [State.withAlerts]
    by_cases h : s.notices.length < Config.noticePlaces
    · simp only [h, decide_true, if_true]
    · simp only [h, decide_false, Bool.false_eq_true, if_false]
  unfold State.raiseAlert
  rw [hf, hg]
  split
  · have hx : t.alerts = s.alerts := by rw [ha]; rfl
    rw [hx]
    split
    · rw [ht]; exact hr _ _
    · exact ha
  · split
    · rw [ht]; exact hr _ _
    · dsimp only
      have h1 : ∀ k l, ({ t with overflow := true, overflowCount := bump t.overflowCount } : State).masked k l = s.masked k l := hm
      have h2 : ∀ k l, ({ s with overflow := true, overflowCount := bump s.overflowCount } : State).masked k l = s.masked k l :=
        fun _ _ => rfl
      rw [h1, h2]
      split
      · rw [ha]; rfl
      · have h3 : e.record t.tick = e.record s.tick := by rw [ht]
        rw [h3]; exact ho _

/-- Raising an alert changes the alert log and the notice queue alone. -/
theorem raiseAlert_frame (s : State) (e : AlertEvent) : s.raiseAlert e = s.withAlerts (s.raiseAlert e) :=
  raiseAlert_congr s s e (fun _ => rfl) rfl rfl rfl

end Sys2Proof.Machine
end

