-- ==== Sys2Proof/Machine/Receive.lean ====
section
/-! DEFINITION. The receivers: the command that an Ethernet frame on the upstream port, or a frame on a lane link, spells (R70, R160,
R174, R175, R178, Tables 11.1 to 11.3 and 11.7). They are what stands between the wires and the queue of commands. -/

namespace Sys2Proof.Machine

/-! ## Upstream (R174, R175) -/

/-- An Ethernet frame as the upstream port receives it: whether its frame check sequence is right, its addresses, its type and its
data field. -/
structure EthernetFrame where
  fcsOk : Bool
  dest : MacAddress
  source : MacAddress
  type : Word16
  data : List Byte
  deriving DecidableEq, Repr

/-- The length of a frame: two addresses, type, data field and frame check sequence. -/
def EthernetFrame.length (f : EthernetFrame) : Nat := 14 + f.data.length + 4

/-- The bytes of a data field from an offset on, `n` of them, as a number (R173). -/
def fieldAt (data : List Byte) (offset n : Nat) : Nat := beNat ((data.drop offset).take n)

/-- A directive of 16 bytes at an offset (R175). -/
def directiveAt (data : List Byte) (offset : Nat) : Directive where
  code := BitVec.ofNat 16 (fieldAt data offset 2)
  tag := BitVec.ofNat 16 (fieldAt data (offset + 2) 2)
  op0 := BitVec.ofNat 32 (fieldAt data (offset + 4) 4)
  op1 := BitVec.ofNat 32 (fieldAt data (offset + 8) 4)
  op2 := BitVec.ofNat 32 (fieldAt data (offset + 12) 4)

/-- Whether a management frame's data field holds exactly `d` directives, padded to the Ethernet minimum where it is shorter
(R175). -/
def holdsDirectives (data : List Byte) (d : Nat) : Bool :=
  data.length == max (4 + 16 * d) Config.minData

/-- The directives of a management frame; none when its length does not hold as many as it counts, so that it fails the tests of
R160 (log entry 16). -/
def directivesOf (data : List Byte) : List Directive :=
  if holdsDirectives data (fieldAt data 2 1) then
    (List.range (fieldAt data 2 1)).map fun k => directiveAt data (4 + 16 * k)
  else []

/-- The bytes that each kind of spool frame needs: header and body (R174, Tables 11.1 and 11.2). -/
def spoolBytes (data : List Byte) : Option Nat :=
  match fieldAt data 0 1 with
  | 0x01 => some 16
  | 0x02 => some 17
  | 0x03 => some (8 + fieldAt data 6 2)
  | 0x04 => some 6
  | 0x05 => some 6
  | _ => none

/-- The command of a spool frame of sufficient length (Table 11.2). -/
def spoolCommand (data : List Byte) : Instr :=
  let tag := BitVec.ofNat 16 (fieldAt data 2 2)
  let seq := BitVec.ofNat 16 (fieldAt data 4 2)
  match fieldAt data 0 1 with
  | 0x01 => .openJob tag (BitVec.ofNat 16 (fieldAt data 6 2)) (BitVec.ofNat 8 (fieldAt data 8 1))
      (BitVec.ofNat 8 (fieldAt data 9 1)) (BitVec.ofNat 16 (fieldAt data 10 2)) (BitVec.ofNat 16 (fieldAt data 12 2))
      (BitVec.ofNat 16 (fieldAt data 14 2))
  | 0x02 => .sheet tag seq (BitVec.ofNat 16 (fieldAt data 6 2)) (BitVec.ofNat 8 (fieldAt data 8 1))
      (BitVec.ofNat 8 (fieldAt data 9 1)) (BitVec.ofNat 16 (fieldAt data 10 2)) (BitVec.ofNat 16 (fieldAt data 12 2))
      (BitVec.ofNat 24 (fieldAt data 14 3))
  | 0x03 => .data tag seq ((data.drop 8).take (fieldAt data 6 2))
  | 0x04 => .close tag seq
  | 0x05 => .cancel tag seq
  | _ => .upstreamFrameDiscarded

/-- The command of a frame that the upstream port receives (R1, R160, R174). The destination address is not looked at. -/
def upstreamCommand (f : EthernetFrame) : Instr :=
  if !f.fcsOk || f.length < 64 || 1518 < f.length || f.type != Config.frameType then .upstreamFrameDiscarded
  else if fieldAt f.data 0 1 = 0x10 then
    .managementFrame f.source (BitVec.ofNat 8 (fieldAt f.data 1 1)) (BitVec.ofNat 8 (fieldAt f.data 2 1))
      (directivesOf f.data)
  else match spoolBytes f.data with
    | some n => if n ≤ f.data.length then spoolCommand f.data else .upstreamFrameDiscarded
    | none => .upstreamFrameDiscarded

/-! ## Lane links (R70, R178) -/

/-- A last-out field: read only when bit 0 of the flags byte is set (R178). -/
def lastOutOf (flags hi lo : Byte) : Option Word16 := if flags.getLsbD 0 then some (hi ++ lo) else none

/-- The command of a link frame whose CRC matches, from its kind and its body (R178, Table 11.7). -/
def linkBody (lane : LaneNo) (kind : Nat) (body : List Byte) : Instr :=
  match kind, body with
  | 0x81, [c1, c0, m1, m0, duplex, depth] => .hello lane (c1 ++ c0) (m1 ++ m0) (duplex != 0) depth
  | 0x82, [code, q1, q0] =>
      match code.toNat with
      | 1 => .proceed lane (q1 ++ q0)
      | 2 => .wait lane (q1 ++ q0)
      | 3 => .media lane (q1 ++ q0)
      | 4 => .refuse lane (q1 ++ q0)
      | _ => .linkFrameDiscarded lane .kindOrLength
  | 0x83, [q1, q0] => .out lane (q1 ++ q0)
  | 0x84, [flags, q1, q0, location] => .jam lane (lastOutOf flags q1 q0) (location.setWidth 4)
  | 0x85, [flags, q1, q0] => .stopped lane (lastOutOf flags q1 q0)
  | 0x86, [] => .clear lane
  | 0x87, [flags] => .status lane (flags.getLsbD 0) (flags.getLsbD 1) (flags.getLsbD 2)
  | _, _ => .linkFrameDiscarded lane .kindOrLength

/-- The command of a frame that a lane link delivers: a kind byte, a body and a CRC over both, high byte first (R70, R178). A frame
too short for a kind and a CRC counts as one whose CRC does not match (log entry 16). -/
def linkCommand (lane : LaneNo) (bytes : List Byte) : Instr :=
  match bytes.take (bytes.length - 2) with
  | [] => .linkFrameDiscarded lane .crc
  | kind :: body =>
      if beNat (bytes.drop (bytes.length - 2)) = (crc16 (kind :: body)).toNat then linkBody lane kind.toNat body
      else .linkFrameDiscarded lane .crc

end Sys2Proof.Machine
end

