-- ==== Sys2Proof/Tests/Slice0.lean ====
section
/-! SUPPORT. Small tests. The first part checks WellFormed and the receivers on bytes written out from the spec; the second shows, for
each statement that has hypotheses, states and operands that meet them, clause by clause. -/

namespace Sys2Proof.Tests

open Sys2Proof.Machine

-- One theorem after another: the kernel evaluates most of these, and the evaluations would otherwise pile up threads.
set_option Elab.async false

/-! ## WellFormed: an ill-formed term for each check -/

theorem test_wellFormed_data : (Instr.data 1 2 (List.replicate 1493 0)).wellFormed = false ∧
    (Instr.data 1 2 (List.replicate 1492 0)).wellFormed = true := by decide +kernel

theorem test_wellFormed_managementFrame : (Instr.managementFrame 0 0 1 (List.replicate 94 ⟨4, 0, 0, 0, 0⟩)).wellFormed = false ∧
    (Instr.managementFrame 0 0 1 (List.replicate 93 ⟨4, 0, 0, 0, 0⟩)).wellFormed = true := by decide +kernel

theorem test_wellFormed_unknownDirective : (Instr.unknownDirective 1).wellFormed = false ∧ (Instr.unknownDirective 25).wellFormed = false ∧
    (Instr.unknownDirective 26).wellFormed = true ∧ (Instr.unknownDirective 0).wellFormed = true := by decide +kernel

/-! ## The receivers: bytes written out from Tables 11.1 to 11.3 and 11.7 -/

/-- A frame of type 0x9A6C with a right frame check sequence, its data field padded with bytes that are not zero. -/
def wire (data : List Byte) : EthernetFrame :=
  ⟨true, 0x010203040506, 0x0A0B0C0D0E0F, 0x9A6C, data ++ List.replicate (46 - data.length) 0xEE⟩

/-- OPEN: kind, 0, tag, sequence; account, pool, priority, copies, window. -/
theorem test_receive_open : upstreamCommand (wire [0x01, 0, 0x12, 0x34, 0, 0, 0x03, 0xFF, 7, 3, 0x03, 0xE7, 0, 2, 0, 9]) =
    .openJob 0x1234 0x03FF 7 3 999 2 9 := by decide +kernel

/-- SHEET: number, class, sides, coverages, three bytes of length. -/
theorem test_receive_sheet : upstreamCommand (wire
    [0x02, 0, 0x12, 0x34, 0xAB, 0xCD, 0, 5, 15, 2, 0x03, 0xE8, 0, 1, 0x01, 0x02, 0x03]) =
    .sheet 0x1234 0xABCD 5 15 2 1000 1 0x010203 := by decide +kernel

/-- DATA with three payload bytes; the bytes behind them are padding. -/
theorem test_receive_data : upstreamCommand (wire [0x03, 0, 0, 1, 0, 2, 0, 3, 7, 8, 9]) = .data 1 2 [7, 8, 9] := by decide +kernel

/-- A payload length above the bytes that follow discards the frame; so do a wrong type, check sequence, length and kind. -/
theorem test_receive_discarded : upstreamCommand (wire [0x03, 0, 0, 1, 0, 2, 0, 39]) = .upstreamFrameDiscarded ∧
    upstreamCommand { wire [0x04, 0, 0, 1, 0, 2] with type := 0x9A6D } = .upstreamFrameDiscarded ∧
    upstreamCommand { wire [0x04, 0, 0, 1, 0, 2] with fcsOk := false } = .upstreamFrameDiscarded ∧
    upstreamCommand { wire [] with data := 0x04 :: List.replicate 44 0 } = .upstreamFrameDiscarded ∧
    upstreamCommand { wire [] with data := 0x04 :: List.replicate 1500 0 } = .upstreamFrameDiscarded ∧
    upstreamCommand (wire [0x20, 0, 0, 1]) = .upstreamFrameDiscarded := by decide +kernel

theorem test_receive_close_cancel : upstreamCommand (wire [0x04, 0, 0, 1, 0, 2]) = .close 1 2 ∧
    upstreamCommand (wire [0x05, 0, 0, 1, 0, 2]) = .cancel 1 2 := by decide +kernel

/-- One directive is padded to 46 bytes; three are 52 bytes, exactly. -/
theorem test_receive_management : upstreamCommand (wire [0x10, 0x40, 1, 0, 0, 10, 0xAA, 0xBB, 0, 0, 0, 52, 0, 0, 1, 0, 0x65, 0xA0, 0xBC, 0]) =
      .managementFrame 0x0A0B0C0D0E0F 0x40 1 [⟨10, 0xAABB, 52, 256, 0x65A0BC00⟩] ∧
    upstreamCommand (wire (0x10 :: 0x40 :: 3 :: List.replicate 49 0)) =
      .managementFrame 0x0A0B0C0D0E0F 0x40 3 (List.replicate 3 ⟨0, 0, 0, 0, 0⟩) ∧
    upstreamCommand (wire (0x10 :: 0x40 :: 3 :: List.replicate 50 0)) = .managementFrame 0x0A0B0C0D0E0F 0x40 3 [] := by decide +kernel

/-- The packed operands of RATE-SET, TIER-SET and LANE-SET, with every other bit set. -/
theorem test_directive_fields :
    commandOf ⟨5, 1, 0xFFFFFF05, 0x00280078, 900⟩ = .rateSet 5 true 40 120 900 ∧
    commandOf ⟨6, 1, 0xFFFEFF03, 2000, 70⟩ = .tierSet 3 false 2000 70 ∧
    commandOf ⟨13, 1, 0xFF050A06, 0x04018123, 0x00C8020F⟩ = .laneSet 6 10 5 4 1 0x8123 200 2 := by decide +kernel

/-- The other directive codes, each with its operands in place. -/
theorem test_directive_codes : [1, 2, 3, 4, 7, 8, 9, 10, 11, 12, 14, 15, 16].map (fun c => commandOf ⟨c, 9, 1, 2, 3⟩) =
      [.extend 2 3, .fence true, .reset, .countersRead 1, .accountOpen 1 2 3, .accountClose 1, .accountLimit 1 2, .accountSwap 1 2 3,
        .accountRead 1 2, .accountRoll 1, .laneRead 1 2, .poolSet 1 2, .poolReserve 1 2 3] ∧
    [17, 18, 19, 20, 21, 22, 23, 24, 25, 26].map (fun c => commandOf ⟨c, 9, 1, 2, 3⟩) =
      [.jobRead 1 2, .jobHold 1 2, .jobRelease 1 2, .jobCancel 1 2, .jobMove 1 2, .purge 1 2, .alertRead 1 2, .alertAck 1, .alertMask 1,
        .unknownDirective 26] ∧ commandOf ⟨2, 9, 0, 2, 3⟩ = .fence false := by decide +kernel

/-- The CRC of R178 on its customary check string, "123456789". -/
theorem test_crc : crc16 [0x31, 0x32, 0x33, 0x34, 0x35, 0x36, 0x37, 0x38, 0x39] = 0x29B1 := by decide +kernel

/-- Link frames with the CRC that another program computed from R178. -/
theorem test_receive_link :
    linkCommand 3 [0x81, 0x04, 0x00, 0x12, 0x34, 0x01, 0x05, 0x68, 0xC9] = .hello 3 0x0400 0x1234 true 5 ∧
    linkCommand 3 [0x82, 0x01, 0x01, 0x02, 0x90, 0xD3] = .proceed 3 0x0102 ∧ linkCommand 3 [0x82, 0x02, 0xAB, 0xCD, 0x13, 0x95] = .wait 3 0xABCD ∧
    linkCommand 3 [0x82, 0x03, 0x00, 0x09, 0x7C, 0xE9] = .media 3 9 ∧ linkCommand 3 [0x82, 0x04, 0xFF, 0xFF, 0x75, 0x5F] = .refuse 3 0xFFFF ∧
    linkCommand 3 [0x83, 0x12, 0x34, 0xBD, 0x50] = .out 3 0x1234 ∧
    linkCommand 3 [0x84, 0x01, 0x00, 0x07, 0xF9, 0x2B, 0xCF] = .jam 3 (some 7) 9 ∧
    linkCommand 3 [0x84, 0xFE, 0x00, 0x07, 0x13, 0x3C, 0x08] = .jam 3 none 3 ∧
    linkCommand 3 [0x85, 0x00, 0x00, 0x07, 0x95, 0x5A] = .stopped 3 none ∧ linkCommand 3 [0x86, 0x10, 0xBE] = .clear 3 ∧
    linkCommand 3 [0x87, 0x05, 0xCF, 0xA5] = .status 3 true false true := by decide +kernel

/-- A wrong CRC, a wrong answer code, a wrong length and a frame of one byte. -/
theorem test_receive_link_discarded : linkCommand 3 [0x86, 0x10, 0xBF] = .linkFrameDiscarded 3 .crc ∧
    linkCommand 3 [0x82, 0x05, 0x00, 0x01, 0x4F, 0x41] = .linkFrameDiscarded 3 .kindOrLength ∧
    linkCommand 3 [0x83, 0x12, 0x61, 0xB7] = .linkFrameDiscarded 3 .kindOrLength ∧ linkCommand 3 [0x86] = .linkFrameDiscarded 3 .crc := by
  decide +kernel

/-- The frames to a printer: HAIL, OFFER and ABORT (Table 11.7). -/
theorem test_send_link : (LinkFrame.hail 15 0xA5).bytes = [0x01, 0x0F, 0xA5, 0x0E, 0xDD] ∧
    (LinkFrame.offer 0x0102 255 3 4 5 2 5000 20).bytes =
      [0x02, 0x01, 0x02, 0xFF, 0x00, 0x03, 0x00, 0x04, 0x05, 0x02, 0x00, 0x13, 0x88, 0x00, 0x00, 0x14, 0x4B, 0x2D] ∧
    LinkFrame.abort.bytes = [0x04, 0xA1, 0x74] := by decide +kernel

/-- A CREDIT notice of station 0x40 to the notice address after reset: 60 bytes, to the end of the data field (R171, R176). -/
theorem test_send_notice : noticeFrame 0xFFFFFFFFFFFF 0x40 (.credit 7 0x0064 4) =
    [0xFF, 0xFF, 0xFF, 0xFF, 0xFF, 0xFF, 0x02, 0x5C, 0x16, 0x40, 0x00, 0x40, 0x9A, 0x6C, 0x20, 0x40, 4, 0, 0, 7, 0, 0x64, 0, 0, 0, 4] ++
      List.replicate 34 0 := by decide +kernel

/-! ## The spec's worked figures -/

/-- Worked case 1 of Chapter 7: X, the estimate, and the charge and residue from both residues. -/
theorem test_worked_case_1 :
    let s := { State.reset with
      rates := State.reset.rates.set 3 ⟨40, 120, 900, true⟩
      tiers := #v[⟨0, 90, true⟩, ⟨0, 100, false⟩, ⟨0, 100, false⟩, ⟨0, 100, false⟩] }
    s.scaled ⟨1, 3, 2, 250, 0, 1, none, 0, .spooled⟩ 0 = 34650000 ∧ estimateOf 34650000 = 347 ∧ divide (34650000 + 73500) = (347, 23500) ∧
      divide (34650000 + 10000) = (346, 60000) := by decide +kernel

/-- The chunk size of Chapter 4's HELLO, 3000, is taken as 2048 and its path depth, 20, as 15. -/
theorem test_worked_hello : helloCapability 3000 0x000B true 20 = ⟨2048, 0x000B, true, 15⟩ := by decide +kernel

/-- The tags of Chapter 1's example: indexes 36 and 44, high parts 1 and 4. -/
theorem test_worked_tags : cacheIndex 100 = 36 ∧ cacheIndex 300 = 44 ∧ (100 : Word16).toNat / 64 = 1 ∧ (300 : Word16).toNat / 64 = 4 := by
  decide +kernel

/-- Chapter 10's wide operand: high part 1 with 1,705,032,704 is 6,000,000,000. -/
theorem test_worked_wide : wideOperand 1 1705032704 = 6000000000 := by decide +kernel

/-! ## States to test on -/

/-- `s` with one directive waiting at the take pointer, in a frame of its own. -/
def waiting (code : Word16) (op0 op1 op2 : Word32) (s : State) : State :=
  { s with queue := { s.queue with ring := s.queue.ring.set 0 ⟨⟨code, 7, op0, op1, op2⟩, 0, 1, 0, .waiting⟩, tail := 1 } }

/-- A spooled duplex sheet of 5000 bytes. -/
def sheet1 : SheetRecord := ⟨1, 4, 2, 250, 0, 5000, some (7, 0), 5000, .spooled⟩

/-- A sheet in progress: 100 of its 600 bytes have come. -/
def sheet2 : SheetRecord := ⟨2, 4, 1, 10, 0, 600, some (8, 904), 100, .arriving⟩

/-- A QUEUED job of two copies with one spooled sheet and open intake. -/
def job1 : Job :=
  { Job.vacant with
    state := .queued, tag := 0x1234, account := 9, pool := 1, prio := 2, copies := 2, winFirst := 1, intakeOpen := true, expected := 3,
    lastSheet := 1, records := [sheet1], granted := 64, spooled := 5000, allocated := 2, promisedShared := 62, chain := [7, 8] }

/-- The state after reset with an OPEN account 9, a valid rate for class 4 and a short shared free queue. -/
def base : State :=
  { State.reset with
    accounts := State.reset.accounts.set 9 ⟨true, 1000, 50, 5, 99999, 2, 3, 4, 5⟩
    rates := State.reset.rates.set 4 ⟨100, 200, 3, true⟩
    sharedFree := [20, 21, 22], notices := [.fenceDone 4], unknownStream := 4294967295, duplicates := 6, closedStream := 2, noticeDrops := 9 }

/-- The jobs of `base` are all FREE. -/
theorem base_job (i : Slot) : base.job i = Job.vacant := by simp [base, State.job, State.reset, State.startUp]

/-- A job record after one is replaced. -/
theorem job_after_setJob (s : State) (i k : Slot) (j : Job) : (s.setJob i j).job k = if i = k then j else s.job k := by
  unfold State.job State.setJob
  simp only [Fin.getElem_fin, Vector.getElem_set, Fin.ext_iff]

/-- A job record after a pool is changed. -/
theorem job_modPool (s : State) (p : PoolNo) (f : Pool → Pool) (k : Slot) : (s.modPool p f).job k = s.job k := rfl

/-- A lane with a job bound, depth 2 and media class 4. -/
def lane1 (i : Slot) : Lane :=
  { Lane.afterReset true with
    state := .bound, job := some i, cap := ⟨256, 0x10, true, 2⟩, hail := none, silence := some 77, seq := 0x0102 }

/-! ## Hypotheses that can be met: what every step keeps, and the meter unit -/

theorem reset_job (i : Slot) : State.reset.job i = Job.vacant := by simp [State.job, State.reset, State.startUp]
theorem reset_pool (p : PoolNo) : State.reset.pool p = Pool.afterReset := by simp [State.pool, State.reset, State.startUp]
theorem reset_account (a : AccountNo) : State.reset.account a = Account.afterReset := by simp [State.account, State.reset, State.startUp]
theorem reset_lane (l : LaneNo) : State.reset.lane l = Lane.afterReset true := by
  revert l; decide +kernel

theorem reset_countersInRange : State.reset.countersInRange := by
  refine ⟨by decide, by decide, by decide, by decide, by decide, by decide, by decide, fun i => ?_, fun l => ?_⟩
  · rw [reset_job]; unfold Job.totalsInRange; decide
  · rw [reset_lane]; unfold Lane.metersInRange; decide

theorem reset_lanesMatchJobs : State.reset.lanesMatchJobs where
  pairs l i := by rw [reset_lane, reset_job]; exact ⟨nofun, nofun⟩
  bound i := by rw [reset_job]; decide
  working l := by rw [reset_lane]; decide
  serving l := by rw [reset_lane]; decide
  empty l := by rw [reset_lane]; decide
  depth l := by rw [reset_lane]; decide
  holding i h := by rw [reset_job] at h; cases h
  aborting l := by rw [reset_lane]; simp [Lane.afterReset]
  reasons i := by rw [reset_job]; decide
  queued p c := by
    rw [reset_pool]
    refine ⟨by simp [Pool.afterReset], fun i => ?_⟩
    rw [reset_job]; simp [Pool.afterReset, Job.vacant]
  ready p := by
    rw [reset_pool]
    refine ⟨by simp [Pool.afterReset], fun l => ?_⟩
    rw [reset_lane]; simp [Pool.afterReset, Lane.afterReset]
  opened i := by rw [reset_job]; decide
  own l i := by rw [reset_lane]; simp [Lane.afterReset]
  pending a := by
    simp only [reset_lane, reset_account]
    rw [show (fun _ : LaneNo => (Lane.afterReset true).heldOf a) = fun _ => 0 from funext fun _ => rfl]
    decide

theorem reset_region (b : Nat) : State.reset.regionOf b = none := by
  unfold State.regionOf
  rw [List.find?_eq_none]
  intro p _
  rw [reset_pool]
  unfold inExtents Pool.afterReset
  simp only [Bool.and_eq_true, decide_eq_true_eq, not_and]; omega

theorem reset_sharedFree : State.reset.sharedFree = List.range 65536 := by simp only [State.reset, State.startUp, Config.blocks]

theorem reset_no_job (f : Job → Bool) (h : f Job.vacant = false) : State.reset.jobs.toList.filter f = [] := by
  rw [List.filter_eq_nil_iff]
  intro j hj
  rw [show State.reset.jobs = Vector.replicate 256 Job.vacant from rfl, Vector.toList_replicate] at hj
  rw [List.eq_of_mem_replicate hj]; simp [h]

theorem reset_blocksApart : State.reset.blocksApart where
  once := by
    simp only [reset_pool, reset_job]
    rw [show ((List.finRange 8).flatMap fun _ => Pool.afterReset.free) = [] by decide,
      show ((List.finRange 256).flatMap fun _ => Job.vacant.chain) = [] by simp [Job.vacant], List.append_nil, List.append_nil, reset_sharedFree]
  shared b _ := reset_region b
  pools p b h := by rw [reset_pool] at h; cases h
  chains i b h := .inl (reset_region b)
  extents p h := by rw [reset_pool] at h; cases h
  distinct p q _ h := by rw [reset_pool] at h; cases h
  vacant i _ := by rw [reset_job]; decide

theorem reset_creditBacked : State.reset.creditBacked where
  granted i := by rw [reset_job]; decide
  closed i _ := by rw [reset_job]; decide
  stored i := by rw [reset_job]; decide
  chain i := by rw [reset_job]; decide
  pools p := by unfold State.promiseTotal; rw [reset_no_job _ (by rfl)]; exact Nat.zero_le _
  shared := by unfold State.sharedTotal; rw [reset_no_job _ (by rfl)]; exact Nat.zero_le _
  waiting := by
    refine ⟨List.nodup_nil, fun i => ?_⟩
    unfold State.due
    rw [reset_job]; simp [State.reset, State.startUp, Job.vacant]

/-- The hypotheses of the statements StepKeeps… hold at reset, which has a next state. -/
theorem test_meets_StepKeeps : Memory.wf State.reset.mem = true ∧ State.reset.noticesBounded ∧ State.reset.alertsDistinct ∧
    State.reset.tiersOrdered ∧ State.reset.accountsInRange ∧ State.reset.countersInRange ∧ State.reset.directivesBounded ∧
    State.reset.passedReleased ∧ State.reset.lanesMatchJobs ∧ State.reset.blocksApart ∧ State.reset.creditBacked ∧
    ∃ t, step State.reset = .next t := by
  refine ⟨by decide, by unfold State.noticesBounded; decide, fun i j r q hi => ?_, ?_, ?_, reset_countersInRange,
    by unfold State.directivesBounded; decide, fun i => ?_, reset_lanesMatchJobs, reset_blocksApart, reset_creditBacked, _, rfl⟩
  · simp [State.reset, State.startUp] at hi
  · unfold State.tiersOrdered; decide
  · intro a; simp [Account.inRange, State.account, State.reset, State.startUp, Account.afterReset]
  · simp [State.job, State.reset, State.startUp, Job.vacant]

/-- What an idle step finds: RESET low; a directive waiting; a notice; the first timer run out, one of two on lane 2 before one on lane 4;
nothing but running timers. -/
theorem test_meets_IdleSteps :
    let timed : State := { (State.reset.modLane 2 fun r => { r with hail := some 0, silence := some 0 }).modLane 4 fun r =>
      { r with silence := some 0 } with notices := [] }
    base.pending = [] ∧ ({ base with resetLow := true } : State).pending = [] ∧
    ((waiting 4 0 0 0 base).queue.resetTaken = false ∧ (waiting 4 0 0 0 base).queue.take ≠ (waiting 4 0 0 0 base).queue.tail) ∧
    (base.queue.take = base.queue.tail ∧ base.notices ≠ []) ∧ timed.notices = [] ∧
    ((timed.lane 2).dueExpiry 2 = some (.hailTimerExpiry 2) ∧ (timed.lane 4).dueExpiry 4 = some (.silenceTimerExpiry 4) ∧
      ∀ m : LaneNo, m < 2 → (timed.lane m).dueExpiry m = none) ∧
    State.reset.notices = [] ∧ ∀ m : LaneNo, (State.reset.lane m).dueExpiry m = none := by decide +kernel

theorem test_meets_ChargeIsWithinOneOfTheEstimate :
    68719476735 < 2 ^ 36 ∧ 52428000000 ≤ 52428000000 ∧ (base.account 9).residue < 100000 := by decide +kernel

theorem test_meets_ConfirmationsLoseNoFraction : (base.account 9).residue < 100000 ∧
    ∀ e ∈ [(52428000000, 524280), (0, 0), (99999, 1)], e.1 ≤ 52428000000 := by decide +kernel

theorem test_meets_TierChosen : base.tiersOrdered := by unfold State.tiersOrdered; decide +kernel

theorem test_meets_SheetIsPriced : base.tiersOrdered ∧ ({ sheet1 with cls := 15, covA := 1000, covB := 1000 } : SheetRecord).cls = (15 : Fin 16) ∧
    sheet1.sides = 2 ∧ sheet2.sides = 1 := by unfold State.tiersOrdered; decide +kernel

/-- Class 16 and slope 65536 are out of range, class 15 and slope 65535 are not. -/
theorem test_meets_RateSet : (waiting 5 0x10010 0 0 base).takeable (.rateSet 16 true 0 0 0) = true ∧
    (waiting 5 4 0 65536 base).takeable (.rateSet 4 false 0 0 65536) = true ∧
    (waiting 5 0x1000F 0x00010002 65535 base).takeable (.rateSet 15 true 1 2 65535) = true := by decide +kernel

/-- Tier 4; tier 0; tier 3 not valid; tier 3 valid with no conflict, and with one with tier 0. -/
theorem test_meets_TierSet : (waiting 6 4 0 0 base).takeable (.tierSet 4 false 0 0) = true ∧
    (waiting 6 0x10000 9 49 base).takeable (.tierSet 0 true 9 49) = true ∧
    (waiting 6 3 0 201 base).takeable (.tierSet 3 false 0 201) = true ∧
    (waiting 6 0x10003 1 100 base).takeable (.tierSet 3 true 1 100) = true ∧
    (∀ j : Fin 4, ¬(base.tiers[j].valid = true ∧ ((j < 3 ∧ 1 ≤ base.tiers[j].threshold) ∨ (3 < j ∧ base.tiers[j].threshold ≤ 1)))) ∧
    (waiting 6 0x10003 0 100 base).takeable (.tierSet 3 true 0 100) = true ∧
    base.tiers[(0 : Fin 4)].valid = true ∧ 0 ≤ base.tiers[(0 : Fin 4)].threshold := by decide +kernel

/-- `s` with an EXTEND taken and its wide directive waiting behind it, in one frame. -/
def extended (code : Word16) (op0 op1 op2 high1 high2 : Word32) (s : State) : State :=
  { s with queue := { s.queue with
      ring := (s.queue.ring.set 0 ⟨⟨1, 6, 0, high1, high2⟩, 0, 2, 0, .pending 0⟩).set 1 ⟨⟨code, 7, op0, op1, op2⟩, 1, 2, 0, .waiting⟩
      tail := 2, take := 1, ext := some (high1, high2) } }

/-- Account 1024; a balance one above the range; the highest balance, at an OPEN account and at one that is not. -/
theorem test_meets_AccountOpen : (waiting 7 1024 0 0 base).takeable (.accountOpen 1024 0 0) = true ∧
    (extended 7 8 5 0 0 0x80 base).takeable (.accountOpen 8 5 0) = true ∧
    549755813887 < ((0x80#32 ++ 0#32 : BitVec 64)).toInt ∧
    (extended 7 9 5 0xFFFFFFFF 0 0x7F base).takeable (.accountOpen 9 5 0xFFFFFFFF) = true ∧
    (extended 7 8 0xFFFFFFFF 0xFFFFFFFF 0 0x7F base).takeable (.accountOpen 8 0xFFFFFFFF 0xFFFFFFFF) = true ∧
    ((0x7F#32 ++ 0xFFFFFFFF#32 : BitVec 64)).toInt = 549755813887 ∧
    (base.account 9).isOpen = true ∧ (base.account 8).isOpen = false := by decide +kernel

/-- `base` with two jobs of account 9. -/
def jobs2 : State := (base.setJob 4 job1).setJob 200 job1

theorem jobs2_no_funds (i : Slot) : (jobs2.job i).account = 9 → (jobs2.job i).reasons.funds = false := by
  rw [jobs2, job_after_setJob, job_after_setJob, base_job]
  split_ifs <;> decide

theorem test_meets_AccountClose : (waiting 8 1024 0 0 base).takeable (.accountClose 1024) = true ∧
    (waiting 8 1023 0 0 base).takeable (.accountClose 1023) = true ∧ (base.account 1023).isOpen = false ∧
    (waiting 8 9 0 0 jobs2).takeable (.accountClose 9) = true ∧ (jobs2.account 9).isOpen = true ∧
    (jobs2.job 4).state ≠ .free ∧ (jobs2.job 4).account = 9 ∧ (∀ k : Slot, k < 4 → (jobs2.job k).state = .free) ∧
    (waiting 8 9 0 0 base).takeable (.accountClose 9) = true ∧ (∀ i, (base.job i).state = .free) := by
  refine ⟨by decide +kernel, by decide +kernel, by decide +kernel, by decide +kernel, by decide +kernel, by decide +kernel,
    by decide +kernel, fun k hk => ?_, by decide +kernel, fun i => by rw [base_job]; rfl⟩
  rw [jobs2, job_after_setJob, job_after_setJob, base_job, if_neg (by rintro rfl; exact absurd hk (by decide)),
    if_neg (by rintro rfl; exact absurd hk (by decide))]
  rfl

/-- Jobs of account 9 that hold FUNDS: 3 and 11 HELD by it alone, 5 with OPERATOR too, and 7 HOLDING on lane 6, which is JAMMED; job
200 waits in the class of them all. -/
def fundsHeld : State :=
  (((((base.setJob 11 { job1 with state := .held, reasons := ⟨false, true, false⟩ }).setJob 7
    { job1 with state := .holding, reasons := ⟨false, true, false⟩, lane := some 6 }).setJob 200 job1).setJob 3
    { job1 with state := .held, reasons := ⟨false, true, false⟩ }).setJob 5
    { job1 with state := .held, reasons := ⟨true, true, false⟩ }).modPool 1 fun p => { p with classes := p.classes.set 2 [200] }

theorem test_meets_AccountLimit : (waiting 9 1024 0 0 base).takeable (.accountLimit 1024 0) = true ∧
    (waiting 9 1023 0 0 base).takeable (.accountLimit 1023 0) = true ∧
    (waiting 9 9 0xFFFFFFFF 0 jobs2).takeable (.accountLimit 9 0xFFFFFFFF) = true ∧
    (waiting 9 9 50 0 fundsHeld).takeable (.accountLimit 9 50) = true ∧ 50 ≤ (fundsHeld.account 9).limit ∧
    (∀ i, (jobs2.job i).account = 9 → (jobs2.job i).reasons.funds = false) := by
  refine ⟨by decide +kernel, by decide +kernel, by decide +kernel, by decide +kernel, by decide +kernel, jobs2_no_funds⟩

theorem test_meets_AccountSwap : (waiting 10 1024 0 0 base).takeable (.accountSwap 1024 0 0) = true ∧
    (extended 10 9 1000 0 0 0x80 base).takeable (.accountSwap 9 1000 0) = true ∧
    (extended 10 8 0 0 0 0xFFFFFF80 base).takeable (.accountSwap 8 0 0) = true ∧
    ((0xFFFFFF80#32 ++ 0#32 : BitVec 64)).toInt = -549755813888 ∧
    (waiting 10 9 999 5 base).takeable (.accountSwap 9 999 5) = true ∧
    (waiting 10 9 1000 5000 jobs2).takeable (.accountSwap 9 1000 5000) = true ∧
    (waiting 10 9 1000 1000 fundsHeld).takeable (.accountSwap 9 1000 1000) = true ∧
    (∀ i, (jobs2.job i).account = 9 → (jobs2.job i).reasons.funds = false) := by
  refine ⟨by decide +kernel, by decide +kernel, by decide +kernel, by decide +kernel, by decide +kernel, by decide +kernel,
    by decide +kernel, jobs2_no_funds⟩

theorem test_meets_FundsRise : (waiting 10 9 1000 1001 fundsHeld).takeable (.accountSwap (BitVec.ofNat 32 (9 : AccountNo)) 1000 1001) = true ∧
    (fundsHeld.account 9).isOpen = true ∧ (fundsHeld.account 9).balance = ((0 : Word32) ++ (1000 : Word32)).toInt ∧
    fundsHeld.queue.ext = none ∧ ((0 : Word32) ++ (1000 : Word32)).toInt < ((0 : Word32) ++ (1001 : Word32)).toInt ∧
    (extended 10 9 1000 0xFFFFFFFF 0 0x7F fundsHeld).takeable (.accountSwap (BitVec.ofNat 32 (9 : AccountNo)) 1000 0xFFFFFFFF) = true ∧
    (extended 10 9 1000 0xFFFFFFFF 0 0x7F fundsHeld).queue.ext = some (0, 0x7F) ∧
    ((0x7F : Word32) ++ (0xFFFFFFFF : Word32)).toInt = 549755813887 ∧
    (waiting 9 9 51 0 fundsHeld).takeable (.accountLimit (BitVec.ofNat 32 (9 : AccountNo)) 51) = true ∧ (fundsHeld.account 9).limit < 51 ∧
    (waiting 9 9 0xFFFFFFFF 0 fundsHeld).takeable (.accountLimit (BitVec.ofNat 32 (9 : AccountNo)) 0xFFFFFFFF) = true ∧
    fundsHeld.noLaneReady ∧ (∀ i, (fundsHeld.job i).reasons.funds = true → (fundsHeld.job i).state = .held ∨
      ∃ l, (fundsHeld.job i).state = .holding ∧ (fundsHeld.job i).lane = some l ∧
        ((fundsHeld.lane l).state ≠ .bound ∨ (fundsHeld.lane l).offer ≠ none)) ∧
    (∀ p, ∀ c : Fin 4, ∀ k ∈ (fundsHeld.pool p).classes[c], (fundsHeld.job k).state ≠ .held) := by
  refine ⟨by decide +kernel, by decide +kernel, by decide +kernel, by decide +kernel, by decide, by decide +kernel, by decide +kernel,
    by decide, by decide +kernel, by decide +kernel, by decide +kernel, by unfold State.noLaneReady; decide +kernel, fun i => ?_,
    by decide +kernel⟩
  rw [fundsHeld, job_modPool, job_after_setJob, job_after_setJob, job_after_setJob, job_after_setJob, job_after_setJob, base_job]
  split_ifs
  case pos => exact fun _ => .inl rfl
  all_goals first | exact fun _ => .inl rfl | exact fun h => absurd h (by decide) |
    exact fun _ => .inr ⟨6, rfl, rfl, .inl (by decide +kernel)⟩

theorem test_meets_AccountRead : (waiting 11 1024 0 0 base).takeable (.accountRead 1024 0) = true ∧
    (waiting 11 9 7 0 base).takeable (.accountRead 9 7) = true ∧ (waiting 11 9 3 0 jobs2).takeable (.accountRead 9 3) = true ∧
    (waiting 11 1023 6 0 base).takeable (.accountRead 1023 6) = true := by decide +kernel

theorem test_meets_AccountRoll : (waiting 12 1024 0 0 base).takeable (.accountRoll 1024) = true ∧
    (waiting 12 8 0 0 base).takeable (.accountRoll 8) = true ∧ (base.account 8).isOpen = false ∧
    (waiting 12 9 0 0 base).takeable (.accountRoll 9) = true ∧ (base.account 9).isOpen = true := by decide +kernel

/-! ## Hypotheses that can be met: the management unit -/

/-- `s` with the notice queue full. -/
def full (s : State) : State := { s with notices := List.replicate 128 (.fenceDone 0) }

/-- `s` with one directive of a frame of two in the condition `cond` and the other waiting at the take pointer. -/
def behind (d0 : Directive) (cond : Condition) (d1 : Directive) (s : State) : State :=
  { s with queue := { s.queue with
      ring := (s.queue.ring.set 0 ⟨d0, 0, 2, 0, cond⟩).set 1 ⟨d1, 1, 2, 0, .waiting⟩, tail := 2, take := 1 } }

/-- A directive with a tag. -/
def plain (code tag : Word16) : Directive := ⟨code, tag, 0, 0, 0⟩

/-- Counts 0, 17 and 16 at station 0; with 49 entries held there is room for 15. -/
theorem test_meets_ManagementFrame : base.resetLow = false ∧ base.station = 0 ∧ ¬1 ≤ (0 : Byte).toNat ∧ ¬(17 : Byte).toNat ≤ 16 ∧
    1 ≤ (16 : Byte).toNat ∧ (16 : Byte).toNat ≤ 16 ∧ (List.replicate 16 (plain 4 1)).length = (16 : Byte).toNat ∧
    64 - (base.queue.tail - base.queue.retire).toNat = 64 ∧ 64 - ((49 : QueuePtr) - 0).toNat < 16 := by decide +kernel

/-- An empty queue lets nothing be taken; code 26 is in no table. -/
theorem test_meets_DirectivesAreTaken : base.takeable (commandOf (plain 4 1)) = false ∧ base.takeable (commandOf (plain 26 1)) = false ∧
    (waiting 26 0 0 0 base).takeable (.unknownDirective 26) = true ∧ (waiting 0 0 0 0 base).takeable (.unknownDirective 0) = true := by
  decide +kernel

/-- A frame of two: its first entry complete or not as the second completes, with and without room. -/
theorem test_meets_ReplyIsQueued :
    let done := behind (plain 4 1) (.complete .range 0 0) (plain 4 2) base
    let unfinished := behind (plain 4 1) (.pending 0) (plain 4 2) base
    (∀ q ∈ done.frameOf 1, ringPlace q ≠ ringPlace 1 → (done.entry q).cond.isComplete = true) ∧ done.notices.length < 128 ∧
    128 ≤ (full done).notices.length ∧ done.queue.resetTaken = false ∧ done.directivesBounded ∧
    ¬(∀ q ∈ unfinished.frameOf 1, ringPlace q ≠ ringPlace 1 → (unfinished.entry q).cond.isComplete = true) := by
  unfold State.directivesBounded; decide +kernel

theorem test_meets_Extend : (waiting 1 0 5 6 base).takeable (.extend 5 6) = true ∧
    ((waiting 1 0 5 6 base).entry 0).place + 1 = ((waiting 1 0 5 6 base).entry 0).size ∧
    (base.enqueue 2 0 [⟨1, 6, 0, 5, 6⟩, plain 10 7] 0).takeable (.extend 5 6) = true ∧
    ((base.enqueue 2 0 [⟨1, 6, 0, 5, 6⟩, plain 10 7] 0).entry 0).place + 1 ≠ 2 := by decide +kernel

/-- `base` with a FENCE of notify flag set and count 1 pending behind an entry of its frame. -/
def fencePending (cond : Condition) : State :=
  { base with queue := { base.queue with
      ring := (base.queue.ring.set 0 ⟨plain 18 1, 0, 2, 0, cond⟩).set 1 ⟨⟨2, 2, 1, 0, 0⟩, 1, 2, 0, .pending 1⟩, tail := 2, take := 2 } }

/-- A FENCE is ready behind a complete entry, and none is ready where no entry is taken or an earlier entry is pending. -/
theorem test_meets_Fence_later : (fencePending (.complete .done 0 0)).fenceReady 1 1 ∧ (∀ p n, ¬base.fenceReady p n) ∧
    ∀ p n, ¬(fencePending (.pending 0)).fenceReady p n := by
  refine ⟨⟨1, by decide +kernel, by decide, by decide +kernel, by decide +kernel, by decide +kernel⟩, ?_, ?_⟩
  · rintro p n ⟨k, hk, -⟩
    rw [show (base.queue.take - base.queue.retire).toNat = 0 by decide +kernel] at hk
    cases hk
  · rintro p n ⟨k, hk, hp, hc, -, h⟩
    rw [show ((fencePending (.pending 0)).queue.take - (fencePending (.pending 0)).queue.retire).toNat = 2 by decide +kernel] at hk
    subst hp
    match k, hk with
    | 0, _ => exact absurd hc (by decide +kernel)
    | 1, _ => exact absurd (h 0 (by decide)) (by decide +kernel)

theorem test_meets_Fence : (waiting 2 1 0 0 base).takeable (.fence true) = true ∧
    ((waiting 2 1 0 0 base).taken false).incompleteBefore 0 = 0 ∧
    (behind (plain 18 1) (.pending 0) (plain 2 2) base).takeable (.fence false) = true ∧
    ((behind (plain 18 1) (.pending 0) (plain 2 2) base).taken false).incompleteBefore 1 = 1 ∧
    (waiting 2 1 0 0 base).directivesBounded ∧ (behind (plain 18 1) (.pending 0) (plain 2 2) base).directivesBounded := by
  unfold State.directivesBounded; decide +kernel

/-- `base` with a RESET behind an entry of its frame. -/
def resetBehind (cond : Condition) : State := behind (plain 18 1) cond (plain 3 2) base

theorem test_meets_ResetDirective : (base.enqueue 2 0 [plain 3 6, plain 10 7] 0).takeable .reset = true ∧
    ((base.enqueue 2 0 [plain 3 6, plain 10 7] 0).entry 0).place + 1 ≠ ((base.enqueue 2 0 [plain 3 6, plain 10 7] 0).entry 0).size ∧
    (resetBehind (.pending 0)).takeable .reset = true ∧
    ¬(∀ q ∈ (resetBehind (.pending 0)).frameOf 1, q ≠ 1 → (((resetBehind (.pending 0)).taken false).entry q).cond.isComplete = true) ∧
    (resetBehind (.complete .done 1 0)).takeable .reset = true ∧
    ((resetBehind (.complete .done 1 0)).entry 1).place + 1 = ((resetBehind (.complete .done 1 0)).entry 1).size ∧
    (∀ q ∈ (resetBehind (.complete .done 1 0)).frameOf 1, q ≠ 1 →
      (((resetBehind (.complete .done 1 0)).taken false).entry q).cond.isComplete = true) ∧
    (∀ q, ((resetBehind (.complete .done 1 0)).entry q).isPendingFence = false) ∧
    (resetBehind (.complete .done 1 0)).notices.length < 128 ∧
    (full (resetBehind (.complete .done 1 0))).takeable .reset = true ∧
    128 ≤ (full (resetBehind (.complete .done 1 0))).notices.length := by decide +kernel

theorem test_meets_CountersRead : (waiting 4 0 0 0 base).takeable (.countersRead 0) = true ∧
    (waiting 4 1 0 0 base).takeable (.countersRead 1) = true ∧ (waiting 4 2 0 0 base).takeable (.countersRead 2) = true ∧
    (waiting 4 3 0 0 base).takeable (.countersRead 3) = true := by decide +kernel

theorem test_meets_NoticeSend : base.resetLow = false ∧ base.notices = [.fenceDone 4] ∧ (Notice.fenceDone 4).resets = false ∧
    ({ base with notices := [.reply [] true] } : State).notices = .reply [] true :: [] ∧ (Notice.reply [] true).resets = true := by
  decide +kernel

/-! ## Hypotheses that can be met: lane settings and pools -/

theorem base_has_no_alert (k : Fin 32) (r : AlertRecord) (h : base.alerts[k] = some r) : r.relayed = true := by
  rw [show base.alerts[k] = none from (by decide +kernel : ∀ k : Fin 32, base.alerts[k] = none) k] at h
  cases h

/-- A LANE-SET of lane 2 with every operand above its range, enabled into pool `pool` or not enabled, waiting in `s`. -/
def setWaiting (pool enable : Byte) (s : State) : State :=
  waiting 13 0x003D0102 (pool ++ enable ++ 0x0110#16) 0x09FF1F00 s

/-- The command that it takes. -/
def setTaken (pool enable : Byte) : Instr := .laneSet 2 1 0x3D pool enable 0x0110 0x09FF 0x1F

/-- `base` with lane 2 in a state, with no job. -/
def idleLane (state : LaneState) (ready : Bool) : State :=
  let s := base.modLane 2 fun r => { r with state := state, hail := none, silence := some 5000 }
  if ready then s.modPool 0 fun p => { p with ready := [7, 2] } else s

/-- `base` with lane 2 bound to job 3. -/
def boundLane (pendingSet : Option (Settings × QueuePtr)) : State :=
  (base.setJob 3 { job1 with state := .printing, lane := some 2 }).setLane 2 { lane1 3 with pendingSet := pendingSet }

theorem test_meets_LaneSet : (waiting 13 16 0 0 base).takeable (.laneSet 16 0 0 0 0 0 0 0) = true ∧
    (∀ p, (base.pool p).queueOrder = []) ∧
    (let set : Settings := ⟨7, true, 0x10, 2550, 30, 2, 60⟩;
      set.pool.val = min (9 : Byte).toNat 7 ∧ (set.enable = true ↔ (1 : Byte) ≠ 0) ∧ set.mask = (0x0110 : Word16).extractLsb' 0 8 ∧
      set.reoffer = max 10 (min 2550 (0x09FF : Word16).toNat) / 10 * 10 ∧ set.answer = max 1 (min 30 (0x1F : Byte).toNat) ∧
      set.silence = max 2 (min 60 (1 : Byte).toNat) ∧ set.escalation = min 60 (0x3D : Byte).toNat) ∧
    (setWaiting 9 1 (boundLane none)).takeable (setTaken 9 1) = true ∧ ((boundLane none).lane 2).job ≠ none ∧
    (setWaiting 9 1 (boundLane (some (Settings.afterReset, 40)))).takeable (setTaken 9 1) = true ∧ ringPlace 40 ≠ ringPlace 0 ∧
    (∀ st ∈ [LaneState.training, .down, .mediaWait, .jammed], (setWaiting 9 1 (idleLane st false)).takeable (setTaken 9 1) = true) ∧
    (setWaiting 0 1 (idleLane .ready true)).takeable (setTaken 0 1) = true ∧ ((idleLane .ready true).lane 2).job = none ∧
    (setWaiting 9 1 (idleLane .ready true)).takeable (setTaken 9 1) = true ∧ ((idleLane .ready true).lane 2).current.pool = 0 ∧
    (setWaiting 9 0 (idleLane .ready true)).takeable (setTaken 9 0) = true ∧
    (setWaiting 9 1 (idleLane .offline false)).takeable (setTaken 9 1) = true ∧
    (setWaiting 9 0 (idleLane .offline false)).takeable (setTaken 9 0) = true := by decide +kernel

/-- `base` with every field of lane 15 filled. -/
def fullLane : State :=
  base.setLane 15 { lane1 255 with
    state := .jammed, flags := ⟨true, false, true⟩, pendingSet := some (⟨3, false, 0xA5, 2550, 30, 60, 0⟩, 9), abort := true,
    inflight := List.replicate 15 ⟨1, 1, 1, 9, 0, 0⟩, sheetsOut := 11, sheetsSpoiled := 12, colourSides := 13, monoSides := 14,
    jams := 15, crcErrors := 16, ignored := 17, lastJam := some ⟨15, some (255, 1023)⟩ }

theorem test_meets_LaneRead : (waiting 14 16 0 0 base).takeable (.laneRead 16 0) = true ∧
    (waiting 14 15 8 0 base).takeable (.laneRead 15 8) = true ∧ (waiting 14 15 0 0 fullLane).takeable (.laneRead 15 0) = true ∧
    (fullLane.lane 15).inflight.length < 256 ∧ (waiting 14 15 1 0 fullLane).takeable (.laneRead 15 1) = true ∧
    (fullLane.lane 15).cap.chunk < 65536 ∧ (fullLane.lane 15).cap.depth < 256 ∧
    (∀ k : Fin 6, (waiting 14 15 (BitVec.ofNat 32 (k + 2)) 0 fullLane).takeable (.laneRead 15 (BitVec.ofNat 32 (k + 2))) = true) ∧
    (fullLane.lane 15).lastJam = some ⟨15, some (255, 1023)⟩ ∧ (waiting 14 2 7 0 base).takeable (.laneRead 2 7) = true ∧
    (base.lane 2).lastJam = none := by decide +kernel

theorem test_meets_PoolSet : (waiting 15 8 0 0 base).takeable (.poolSet 8 0) = true ∧
    (waiting 15 7 4097 0 base).takeable (.poolSet 7 4097) = true ∧ (waiting 15 7 0 0 base).takeable (.poolSet 7 0) = true ∧
    base.waitList = [] ∧ (∀ i, (base.job i).intakeOpen = true → (base.job i).pool ≠ 7) := by
  refine ⟨by decide +kernel, by decide +kernel, by decide +kernel, by decide +kernel, fun i => ?_⟩
  rw [base_job]
  decide

/-- `base` with extents 254 and 255 reserved by pool 1. -/
def reserved : State := base.modPool 1 fun p => { p with base := 254, limit := 255 }

/-- `base` with block 65280, the first of extent 255, in a chain. -/
def chained : State := base.setJob 3 { job1 with chain := [65280] }

theorem test_meets_PoolReserve : (waiting 16 8 0 0 base).takeable (.poolReserve 8 0 0) = true ∧
    (waiting 16 0 256 0 base).takeable (.poolReserve 0 256 0) = true ∧ (waiting 16 0 0 256 base).takeable (.poolReserve 0 0 256) = true ∧
    (waiting 16 0 0 254 reserved).takeable (.poolReserve 0 0 254) = true ∧
    (∃ q, q ≠ 0 ∧ 0 ≤ 254 ∧ (reserved.pool q).base ≤ (reserved.pool q).limit ∧ 0 ≤ (reserved.pool q).limit ∧ (reserved.pool q).base ≤ 254) ∧
    (waiting 16 0 255 255 chained).takeable (.poolReserve 0 255 255) = true ∧
    0 < (chained.jobs.toList.map fun j => j.chain.countP fun k => decide (255 * 256 ≤ k ∧ k < (255 + 1) * 256)).sum ∧
    (∀ q, ¬(chained.pool q).base ≤ (chained.pool q).limit) ∧
    (waiting 16 0 255 255 base).takeable (.poolReserve 0 255 255) = true ∧ base.promiseTotal 0 = 0 ∧ base.sharedTotal = 0 ∧
    (base.jobs.toList.map fun j => j.chain.length).sum = 0 ∧ (∀ q, ¬(base.pool q).base ≤ (base.pool q).limit) ∧ base.waitList = [] ∧
    (base.pool 0).base ≤ 255 ∧ (base.pool 0).limit ≤ 255 := by decide +kernel

/-! ## Hypotheses that can be met: jobs -/

/-- A directive on slot 3 with the job's tag, waiting in `s`. -/
def onJob (code : Word16) (s : State) : State := waiting code 3 0x1234 0 s

/-- `base` with job 3 as `job1` changed by `f`. -/
def withJob (f : Job → Job) : State := base.setJob 3 (f job1)

/-- `base` with job 3 in a state, bound to lane 2, which has `r`. -/
def withLane (state : JobState) (reasons : Reasons) (hold : Option QueuePtr) (f : Lane → Lane) : State :=
  (withJob fun j => { j with state := state, reasons := reasons, lane := some 2, pendingHold := hold }).setLane 2 (f (lane1 3))

/-- An offer of the job's sheet. -/
def offer1 : Offer := ⟨1, 1, 0x0101, 9, 312499, 4⟩

/-- An in-flight entry of it. -/
def entry1 : InFlight := ⟨0x0100, 1, 1, 9, 312499, 4⟩

/-- A lane with the offer outstanding and one entry in flight. -/
def busyLane (r : Lane) : Lane := { r with offer := some offer1, inflight := [entry1], answer := some 9, timeouts := 1 }

/-- The set of OPERATOR alone, of FUNDS alone, and of both OPERATOR and REFUSED. -/
def byOperator : Reasons := ⟨true, false, false⟩
/-- The set of FUNDS alone. -/
def byFunds : Reasons := ⟨false, true, false⟩

theorem test_meets_JobRead : (waiting 17 256 0 0 base).takeable (.jobRead 256 0) = true ∧
    (waiting 17 255 12 0 base).takeable (.jobRead 255 12) = true ∧ (waiting 17 255 11 0 base).takeable (.jobRead 255 11) = true ∧
    (base.job 255).state = .free ∧ ((withJob id).job 3).state ≠ .free ∧ ((withJob id).job 3).copies < 65536 ∧
    (∀ k : Fin 12, (waiting 17 3 (BitVec.ofNat 32 k) 0 (withJob id)).takeable (.jobRead 3 (BitVec.ofNat 32 k)) = true) := by decide +kernel

theorem test_meets_JobHold : (waiting 18 256 0 0 base).takeable (.jobHold 256 0) = true ∧
    (waiting 18 255 65536 0 base).takeable (.jobHold 255 65536) = true ∧ (waiting 18 255 65535 0 base).takeable (.jobHold 255 65535) = true ∧
    (waiting 18 3 0x1235 0 (withJob id)).takeable (.jobHold 3 0x1235) = true ∧
    (∀ st ∈ [JobState.cancelling, .held, .queued], (onJob 18 (withJob fun j => { j with state := st })).takeable (.jobHold 3 0x1234) = true) ∧
    job1.pendingHold = none ∧ job1.lane = none ∧ (0x1234 : Word32) = 0#16 ++ job1.tag ∧
    (onJob 18 (withLane .printing ⟨false, false, false⟩ none busyLane)).takeable (.jobHold 3 0x1234) = true ∧
    (onJob 18 (withLane .printing ⟨false, false, false⟩ none id)).takeable (.jobHold 3 0x1234) = true ∧
    (lane1 3).state = .bound ∧ (lane1 3).offer = none ∧ (lane1 3).inflight = [] ∧ (lane1 3).pendingSet = none ∧
    (∀ p, ((withLane .printing ⟨false, false, false⟩ none id).pool p).queueOrder = []) ∧
    (onJob 18 (withLane .holding byFunds none busyLane)).takeable (.jobHold 3 0x1234) = true ∧
    (onJob 18 (withLane .holding byFunds (some 40) busyLane)).takeable (.jobHold 3 0x1234) = true := by decide +kernel

/-- A set of pool 3 that is held for the LANE-SET in entry 5. -/
def heldSet : Settings × QueuePtr := ({ Settings.afterReset with pool := 3, silence := 9 }, 5)

/-- A held set at the lane that the job leaves, with no record waiting for its relay. -/
theorem test_meets_JobHold_with_a_held_set :
    let s := onJob 18 (withLane .printing ⟨false, false, false⟩ none fun r => { r with pendingSet := some heldSet })
    s.takeable (.jobHold 3 0x1234) = true ∧ (s.lane 2).pendingSet = some heldSet ∧ (s.lane 2).state = .bound ∧ (s.job 3).lane = some 2 ∧
    (s.lane 2).offer = none ∧ (s.lane 2).inflight = [] ∧ ringPlace heldSet.2 ≠ ringPlace s.queue.take ∧
    (∀ k : Fin 32, s.alerts[k] = none) ∧ ∀ p, (s.pool p).queueOrder = [] := by decide +kernel

theorem test_meets_JobRelease : (waiting 19 256 0 0 base).takeable (.jobRelease 256 0) = true ∧
    (waiting 19 255 65536 0 base).takeable (.jobRelease 255 65536) = true ∧
    (waiting 19 255 65535 0 base).takeable (.jobRelease 255 65535) = true ∧
    (waiting 19 3 0 0 (withJob fun j => { j with state := .cancelling })).takeable (.jobRelease 3 0) = true ∧
    (waiting 19 3 0x1235 0 (withJob id)).takeable (.jobRelease 3 0x1235) = true ∧ (onJob 19 (withJob id)).takeable (.jobRelease 3 0x1234) = true ∧
    (onJob 19 (withJob fun j => { j with state := .held, reasons := ⟨true, true, true⟩ })).takeable (.jobRelease 3 0x1234) = true ∧
    (onJob 19 (withJob fun j => { j with state := .held, reasons := ⟨true, false, true⟩ })).takeable (.jobRelease 3 0x1234) = true ∧
    ((withJob id).pool 1).ready = [] ∧
    (onJob 19 (withLane .holding byOperator none busyLane)).takeable (.jobRelease 3 0x1234) = true ∧
    ((withLane .holding byOperator none busyLane).lane 2).offer ≠ none ∧
    (onJob 19 (withLane .holding byOperator (some 40) busyLane)).takeable (.jobRelease 3 0x1234) = true ∧ ringPlace 40 ≠ ringPlace 0 := by
  decide +kernel

theorem test_meets_JobCancel : (waiting 20 256 0 0 base).takeable (.jobCancel 256 0) = true ∧
    (waiting 20 255 65536 0 base).takeable (.jobCancel 255 65536) = true ∧ (waiting 20 255 65535 0 base).takeable (.jobCancel 255 65535) = true ∧
    (waiting 20 3 0x1235 0 (withJob id)).takeable (.jobCancel 3 0x1235) = true ∧
    (onJob 20 (withJob fun j => { j with state := .cancelling })).takeable (.jobCancel 3 0x1234) = true ∧
    (∀ st ∈ [JobState.queued, .held], (onJob 20 (withJob fun j => { j with state := st })).takeable (.jobCancel 3 0x1234) = true) ∧
    job1.inProgress = none ∧ job1.records ≠ [] ∧ job1.confirm.copy ≠ job1.copies ∧ job1.pendingCancel = none ∧
    (∀ p, ((withJob id).pool p).reserved = false) ∧ (∀ k ∈ (withJob id).waitList, k = 3) ∧ (withJob id).noLaneReady ∧
    (∀ hold ∈ [none, some 40], (onJob 20 ((withLane .printing ⟨false, false, false⟩ hold busyLane).modJob 3 fun j =>
      { j with intakeOpen := false })).takeable (.jobCancel 3 0x1234) = true) := by unfold State.noLaneReady; decide +kernel

/-- `base` with job 3 open on one tag and job 200 on another. -/
def twoOpen : State := (withJob id).setJob 200 { job1 with tag := 0x5555 }

/-- `base` with three valid cache entries. -/
def cached : State :=
  { base with cache := ((base.cache.set 63 ⟨true, 1023, 255⟩).set 0 ⟨true, 3, 255⟩).set 1 ⟨true, 0, 7⟩ }

theorem test_meets_MoveAndPurge : (waiting 21 256 0 0 base).takeable (.jobMove 256 0) = true ∧
    (waiting 21 3 65536 0 base).takeable (.jobMove 3 65536) = true ∧ (waiting 21 3 65535 0 base).takeable (.jobMove 3 65535) = true ∧
    (waiting 21 3 0x5555 0 twoOpen).takeable (.jobMove 3 0x5555) = true ∧
    (waiting 21 3 0x1234 0 twoOpen).takeable (.jobMove 3 0x1234) = true ∧ (waiting 21 3 65535 0 twoOpen).takeable (.jobMove 3 65535) = true ∧
    (waiting 22 3 0 0 base).takeable (.purge 3 0) = true ∧ (waiting 22 1 65536 0 base).takeable (.purge 1 65536) = true ∧
    (waiting 22 2 256 0 base).takeable (.purge 2 256) = true ∧ (waiting 22 0 9 0 cached).takeable (.purge 0 9) = true ∧
    (waiting 22 1 65535 0 cached).takeable (.purge 1 65535) = true ∧ (waiting 22 2 255 0 cached).takeable (.purge 2 255) = true := by
  decide +kernel

/-- The tag that job 3 is moved to is carried by job 200 alone, by no other job, or by none. -/
theorem test_meets_MoveAndPurge_tags (k : Slot) : (k < 200 → k ≠ 3 → (twoOpen.job k).state = .free) ∧
    ((twoOpen.job k).state ≠ .free → 0#16 ++ (twoOpen.job k).tag ≠ 65535#32) := by
  rw [twoOpen, withJob, job_after_setJob, job_after_setJob, base_job]
  split_ifs with h g
  · exact ⟨fun hk => absurd hk (by subst h; decide), by decide⟩
  · exact ⟨fun _ hk => absurd g.symm hk, by decide⟩
  · exact ⟨fun _ _ => rfl, by decide⟩

/-! ## Hypotheses that can be met: alerts -/

/-- A record of a lane kind of lane 2. -/
def record1 (k : AlertKind) : AlertRecord := ⟨k, some 2, some 3, some 9, some 1, some 1, 10, 20, 255, 65535, false⟩

/-- `base` with an intake mask of 0101, and unrelayed records of OVERRUN, SHEET-DAMAGED and RECORD-SHORT. -/
def alerted : State :=
  { base with
    intakeMask := 5
    alerts := ((base.alerts.set 0 (some (record1 .recordShort))).set 2 (some (record1 .sheetDamaged))).set 31 (some (record1 .overrun)) }

/-- A log with every record occupied by another key. -/
def crowded : State :=
  { base with alerts := Vector.ofFn fun i => some { record1 .jam with slot := some ⟨i + 100, by omega⟩ } }

theorem alerted_distinct : alerted.alertsDistinct := by
  intro i j r q hi hj hk hl hs
  refine (by decide +kernel : ∀ i j : Fin 32, (alerted.alerts[i].bind fun r => alerted.alerts[j].map fun q =>
    decide (r.kind = q.kind ∧ r.lane = q.lane ∧ r.slot = q.slot)) = some true → i = j) i j ?_
  rw [hi, hj]
  simp [hk, hl, hs]

theorem test_meets_AlertEvents : alerted.alertsDistinct ∧ (∃ r, alerted.alerts[(2 : Fin 32)] = some r ∧ r.kind = .sheetDamaged ∧ r.lane = some 2 ∧ r.slot = some 3) ∧
    alerted.alerts[(1 : Fin 32)] = none ∧ (∀ k : Fin 32, k < 1 → alerted.alerts[k] ≠ none) ∧ alerted.notices.length < 128 ∧
    alerted.masked .sheetDamaged (some 2) = false ∧ alerted.masked .overrun none = true ∧ 128 ≤ (full alerted).notices.length ∧
    (∀ k : Fin 32, crowded.alerts[k] ≠ none) ∧ (crowded.findAlert ⟨.overrun, none, some 3, some 9, none, some 2, 0⟩) = none := by
  refine ⟨alerted_distinct, ⟨_, rfl, rfl, rfl, rfl⟩, ?_⟩
  decide +kernel

theorem test_meets_AlertRead : (waiting 23 32 0 0 base).takeable (.alertRead 32 0) = true ∧
    (waiting 23 0xFFFFFFFF 2 0 base).takeable (.alertRead 0xFFFFFFFF 2) = true ∧
    (waiting 23 0xFFFFFFFF 0 0 alerted).takeable (.alertRead 0xFFFFFFFF 0) = true ∧
    (waiting 23 0xFFFFFFFF 1 0 alerted).takeable (.alertRead 0xFFFFFFFF 1) = true ∧
    (waiting 23 31 3 0 alerted).takeable (.alertRead 31 3) = true ∧ (waiting 23 30 2 0 alerted).takeable (.alertRead 30 2) = true ∧
    (∀ k : Fin 3, (waiting 23 31 (BitVec.ofNat 32 k) 0 alerted).takeable (.alertRead 31 (BitVec.ofNat 32 k)) = true) ∧
    alerted.alerts[(30 : Fin 32)] = none ∧ alerted.alerts[(31 : Fin 32)] = some (record1 .overrun) ∧ (record1 .overrun).count < 256 := by
  decide +kernel

theorem test_meets_AlertAck : (waiting 24 32 0 0 base).takeable (.alertAck 32) = true ∧
    (waiting 24 0xFFFFFFFF 0 0 alerted).takeable (.alertAck 0xFFFFFFFF) = true ∧
    (waiting 24 30 0 0 alerted).takeable (.alertAck 30) = true ∧ (waiting 24 31 0 0 alerted).takeable (.alertAck 31) = true := by decide +kernel

theorem test_meets_AlertMask : (waiting 25 1 0 0 alerted).takeable (.alertMask 1) = true ∧ alerted.notices.length + 32 ≤ 128 ∧
    (waiting 25 0xFFFFFFF0 0 0 alerted).takeable (.alertMask 0xFFFFFFF0) = true := by decide +kernel

/-! ## Hypotheses that can be met: intake -/

/-- `base` with every slot taken by a closed job. -/
def noSlots : State := { base with jobs := Vector.replicate 256 { job1 with intakeOpen := false } }

theorem test_meets_OpenIsRefused : base.resetLow = false ∧
    ((withJob id).job 3).state ≠ .free ∧ ((withJob id).job 3).tag = 0x1234 ∧ ((withJob id).job 3).intakeOpen = true ∧
    (base.account 1023).isOpen = false ∧ 1024 ≤ (1024 : Word16).toNat ∧ (base.account 9).isOpen = true ∧ 7 < (8 : Byte).toNat ∧
    ∀ i, (noSlots.job i).state ≠ .free ∧ (noSlots.job i).intakeOpen = false ∧ (base.job i).state = .free := by
  refine ⟨by decide +kernel, by decide +kernel, by decide +kernel, by decide +kernel, by decide +kernel, by decide +kernel,
    by decide +kernel, by decide +kernel, fun i => ?_⟩
  rw [base_job, show noSlots.job i = { job1 with intakeOpen := false } by simp [noSlots, State.job]]
  decide

/-- An OPEN takes slot 4, with slots 0 to 3 in use. -/
def firstFree4 : State := (((withJob id).setJob 0 job1).setJob 1 job1).setJob 2 { job1 with intakeOpen := false, tag := 0x4321 }

theorem test_meets_OpenFills : firstFree4.resetLow = false ∧ (firstFree4.job 4).state = .free ∧ (firstFree4.account 9).isOpen = true ∧
    firstFree4.waitList = [] ∧ (firstFree4.pool 7).ready = [] ∧ firstFree4.notices.length + 2 ≤ 128 ∧
    (7 : Byte).toNat = (7 : PoolNo) ∧ ((3 : Fin 4) : Nat) = min (255 : Byte).toNat 3 ∧ (9 : Word16).toNat = (9 : AccountNo) ∧
    (∀ k : Slot, ((firstFree4.job k).state ≠ .free → (firstFree4.job k).intakeOpen = true → (firstFree4.job k).tag ≠ 0x4321) ∧
      (k < 4 → (firstFree4.job k).state ≠ .free)) := by
  refine ⟨by decide +kernel, by decide +kernel, by decide +kernel, by decide +kernel, by decide +kernel, by decide +kernel,
    by decide, by decide, by decide, fun k => ?_⟩
  simp only [firstFree4, withJob, job_after_setJob, base_job]
  split_ifs
  iterate 4 exact ⟨by decide, fun _ => by decide⟩
  refine ⟨by decide, fun _ => ?_⟩
  simp_all [Fin.ext_iff, Fin.lt_def]
  omega

/-- `s` with the cache entry of the jobs' tag naming slot 3. -/
def streamed (s : State) : State := { s with cache := s.cache.set 0x34 ⟨true, 0x48, 3⟩ }

/-- `streamed` with job 3 as `job1` changed by `f`. -/
def open3 (f : Job → Job) : State := streamed (withJob f)

/-- One job alone is open on the tag, or none is. -/
theorem test_meets_FramesFindTheirJob_search (k : Slot) :
    ((twoOpen.job k).state ≠ .free ∧ (twoOpen.job k).tag = 0x1234 ∧ (twoOpen.job k).intakeOpen = true → k = 3) ∧
    ¬((base.job k).state ≠ .free ∧ (base.job k).tag = 0x1234 ∧ (base.job k).intakeOpen = true) := by
  simp only [twoOpen, withJob, job_after_setJob, base_job]
  split_ifs with h g
  · exact ⟨fun x => absurd x.2.1 (by decide), by decide⟩
  · exact ⟨fun _ => g.symm, by decide⟩
  · exact ⟨fun x => absurd x.1 (by decide), by decide⟩

theorem test_meets_FramesFindTheirJob : (0x1234 : Word16).toNat % 64 = 0x34 ∧ (0x1234 : Word16).toNat / 64 = 0x48 ∧
    base.cache[(0x34 : Fin 64)].valid = false ∧ (twoOpen.job 3).intakeOpen = true ∧ twoOpen.cache[(0x34 : Fin 64)].valid = false ∧
    (open3 fun j => { j with intakeOpen := false }).cache[(0x34 : Fin 64)] = ⟨true, 0x48, 3⟩ ∧
    ((open3 fun j => { j with intakeOpen := false }).job 3).intakeOpen = false ∧ (2 : Word16) = ((open3 id).job 3).expected - 1 ∧
    (0xFFFF : Word16) = ((open3 fun j => { j with expected := 0 }).job 3).expected - 1 ∧ (4 : Word16) ≠ ((open3 id).job 3).expected ∧
    ((open3 id).job 3).lane = none := by decide +kernel

/-- The frame on the jobs' tag reaches job 3. -/
theorem open3_reaches : (open3 id).reaches 0x1234 3 ∧ (open3 fun j => { j with records := [sheet1, sheet2] }).reaches 0x1234 3 ∧
    (open3 fun j => { j with lastSheet := 65534 }).reaches 0x1234 3 := by unfold State.reaches; decide +kernel

/-- `open3` with the record store full. -/
def storeFull : State := streamed { base with jobs := Vector.replicate 256 { job1 with records := List.replicate 64 sheet1 } }

theorem test_meets_SheetHeader : ((open3 id).job 3).expected = 3 ∧ ((open3 id).job 3).lane = none ∧ sheet2.cond = .arriving ∧
    ((open3 id).job 3).inProgress = none ∧ (1 : Word16).toNat ≤ ((open3 id).job 3).lastSheet ∧ storeFull.reaches 0x1234 3 ∧
    storeFull.recordsInUse = 16384 ∧ ((open3 id).job 3).lastSheet < (2 : Word16).toNat ∧ (open3 id).recordsInUse = 1 ∧
    (open3 fun j => { j with winFirst := 3, winLast := 3 }).reaches 0x1234 3 ∧
    (2 : Word16).toNat < 3 ∧ ¬(job1.winFirst ≤ job1.winLast ∧ ((2 : Word16).toNat < job1.winFirst ∨ job1.winLast < (2 : Word16).toNat)) ∧
    (open3 id).rates[(4 : Fin 16)].valid = true ∧ (open3 id).rates[(15 : Fin 16)].valid = false := by
  unfold State.reaches; decide +kernel

/-- `open3` with sheet 2 in progress and 12288 bytes of credit, of which 5100 are used. -/
def filling (f : Job → Job) : State :=
  open3 fun j => f { j with records := [sheet1, sheet2], granted := 4, promisedShared := 2, spooled := 5100 }

/-- `filling` with its blocks nearly full and a pool of allowance 3, so that the next block leaves the refill mark reached. -/
def nearlyFull (reserved : Nat) (free : List Nat) : State :=
  (filling fun j => { j with spooled := 8000, promised := reserved, promisedShared := 2 - reserved }).modPool 1 fun p =>
    { p with allowance := 3, free := free }

theorem test_meets_DataIsStored : (open3 id).reaches 0x1234 3 ∧ (filling id).reaches 0x1234 3 ∧ ((filling id).job 3).records = [sheet1] ++ [sheet2] ∧
    sheet2.length - sheet2.received < 501 ∧ 500 ≤ sheet2.length - sheet2.received ∧
    4096 * ((filling fun j => { j with granted := 1 }).job 3).granted < 5100 + 500 ∧ 5100 + 500 ≤ 4096 * ((filling id).job 3).allocated ∧
    ((filling id).pool 1).ready = [] ∧ (nearlyFull 0 []).reaches 0x1234 3 ∧ 4096 * ((nearlyFull 0 []).job 3).allocated < 8000 + 500 ∧
    8000 + 500 ≤ 4096 * (((nearlyFull 0 []).job 3).allocated + 1) ∧ (nearlyFull 0 []).waitList = [] ∧
    max (((nearlyFull 0 []).pool 1).allowance / 2) 1 ≤
      ((nearlyFull 0 []).job 3).promised + ((nearlyFull 0 []).job 3).promisedShared - 1 ∧
    ((nearlyFull 0 []).job 3).promised = 0 ∧ (nearlyFull 0 []).sharedFree = 20 :: [21, 22] ∧
    (nearlyFull 1 [9]).reaches 0x1234 3 ∧ 0 < ((nearlyFull 1 [9]).job 3).promised ∧ ((nearlyFull 1 [9]).pool 1).free = 9 :: [] := by
  unfold State.reaches; decide +kernel

/-- `open3` with job 3 behind one with no sheet in a class of pool 1, and lane 2 of that pool with its capability known. -/
def queued3 (state : LaneState) (ready : List LaneNo) : State :=
  (((open3 id).setJob 200 { job1 with tag := 0x5555, records := [] }).modPool 1 fun p =>
    { p with ready := ready, classes := p.classes.set 2 [200, 3] }).setLane 2
    { Lane.afterReset true with state := state, cap := ⟨256, 0x10, true, 2⟩, current := { Settings.afterReset with pool := 1 }, seq := 7 }

theorem test_meets_CloseReturnsThePromise : (open3 id).reaches 0x1234 3 ∧ ((open3 id).job 3).inProgress = none ∧
    (∀ k ∈ ({ open3 id with waitList := [3] } : State).waitList, k = 3) ∧ ((open3 id).pool 1).ready = [] ∧
    ((open3 id).job 3).confirm.copy ≠ ((open3 id).job 3).copies ∧ (open3 fun j => { j with records := [] }).reaches 0x1234 3 ∧
    (open3 fun j => { j with records := [], state := .held }).reaches 0x1234 3 ∧ (∀ p, ((open3 id).pool p).reserved = false) := by
  unfold State.reaches; decide +kernel

theorem test_meets_CloseReturnsThePromise_dispatch :
    let s := queued3 .ready [2, 7]
    let j := s.job 3
    (s.reaches 0x1234 3 ∧ j.expected = 3 ∧ j.lane = none ∧ j.inProgress = none ∧ s.waitList = [] ∧ j.state = .queued ∧
      (s.pool j.pool).ready = 2 :: [7] ∧ (∀ c : Fin 4, 3 ∈ (s.pool j.pool).classes[c] ↔ c = j.prio) ∧
      (∀ m ∈ (s.pool j.pool).queueOrder, m ≠ 3 → (s.job m).sendable = false)) ∧
    j.recordAt j.send = some sheet1 ∧ j.confirm.behind j.send = false ∧ j.confirm.copy ≠ j.copies ∧
    (s.lane 2).current.pool = j.pool ∧ (s.lane 2).reoffer = none ∧ (s.lane 2).abort = false ∧ 0 < (s.lane 2).cap.depth ∧
    (s.lane 2).cap.takes sheet1 = true ∧ estimateOf (s.scaled sheet1 9) = 301 ∧ (s.account 9).balance = 1000 ∧
    (s.account 9).pending = 5 := by
  unfold State.reaches; decide +kernel

/-- Job 3 bound to lane 2, PRINTING, and reached by the jobs' tag. -/
def bound3 (f : Lane → Lane) (g : Job → Job) : State := streamed ((withLane .printing ⟨false, false, false⟩ none f).modJob 3 g)

/-- `bound3` with both cursors at position `n` of the list `rs`. -/
def standing (f : Lane → Lane) (copies : Nat) (rs : List SheetRecord) (n : Nat) : State :=
  bound3 f fun j => { j with copies := copies, records := rs, send := ⟨1, n⟩, confirm := ⟨1, n⟩ }

/-- A sheet in progress that has filled a block of its job's chain. -/
def sheet3 : SheetRecord := { sheet2 with length := 9000, received := 5000 }

/-- A starved lane, a busy one, and a job of one copy with an empty list: a header comes. -/
theorem test_meets_SheetHeader_bound :
    let s := standing id 2 [sheet1] 1
    let b := bound3 busyLane id
    let e := standing id 1 [] 0
    (s.reaches 0x1234 3 ∧ b.reaches 0x1234 3 ∧ e.reaches 0x1234 3) ∧ s.offerable 2 = none ∧ b.offerable 2 = none ∧ e.offerable 2 = none ∧
    (s.job 3).cursorsStand ∧ (b.job 3).cursorsStand ∧ (s.job 3).inProgress = none ∧ (e.job 3).inProgress = none ∧
    (s.job 3).confirm.copy ≠ (s.job 3).copies ∧ (b.job 3).send.pos = 0 ∧ s.recordsInUse = 1 ∧ e.recordsInUse = 0 ∧
    (e.job 3).send = ⟨(e.job 3).copies, 0⟩ ∧ (e.job 3).confirm = ⟨(e.job 3).copies, 0⟩ ∧ (e.job 3).passed / 4096 ≤ (e.job 3).released := by
  unfold State.reaches Job.cursorsStand; decide +kernel

/-- A sheet in progress at a starved lane, and one of a job of one copy: the next header damages it. -/
theorem test_meets_SheetHeader_short :
    let s := standing id 2 [sheet1, sheet2] 1
    let e := standing id 1 [sheet3] 0
    (s.reaches 0x1234 3 ∧ e.reaches 0x1234 3) ∧ (s.job 3).records = [sheet1] ++ [sheet2] ∧ (s.job 3).cursorsStand ∧
    (e.job 3).records = [] ++ [sheet3] ∧ sheet3.cond = .arriving ∧ (e.job 3).send = ⟨(e.job 3).copies, 0⟩ ∧
    (e.job 3).confirm = ⟨(e.job 3).copies, 0⟩ ∧ e.waitList = [] ∧ (∀ p, (e.pool p).reserved = false) := by
  unfold State.reaches Job.cursorsStand; decide +kernel

/-- The sheet in progress at a starved lane: too long a frame, one beyond the credit, and one that completes it, which is offered. -/
theorem test_meets_DataIsStored_bound :
    let s := standing id 2 [sheet1, sheet2] 1
    let b := standing busyLane 2 [sheet1, sheet2] 1
    let e := standing id 1 [sheet3] 0
    (s.reaches 0x1234 3 ∧ b.reaches 0x1234 3 ∧ e.reaches 0x1234 3) ∧ (s.job 3).cursorsStand ∧ (b.job 3).cursorsStand ∧
    b.offerable 2 = none ∧ (b.lane 2).offer ≠ none ∧ sheet2.length - sheet2.received < 501 ∧ sheet2.received + 500 = sheet2.length ∧
    (s.job 3).spooled + 500 ≤ 4096 * (s.job 3).granted ∧ (s.job 3).spooled + 500 ≤ 4096 * (s.job 3).allocated ∧
    sheet3.length - sheet3.received < 4001 ∧ (e.job 3).send = ⟨(e.job 3).copies, 0⟩ ∧ (e.job 3).confirm = ⟨(e.job 3).copies, 0⟩ ∧
    e.waitList = [] ∧ (∀ p, (e.pool p).reserved = false) := by
  unfold State.reaches Job.cursorsStand; decide +kernel

/-- A lane that is idle with an estimate that its job's account covers can offer. -/
theorem test_meets_mayOffer : (standing id 2 [sheet1, sheet2] 1).mayOffer 2 3 sheet2 ∧ (standing id 2 [sheet1] 1).mayOffer 2 3 sheet1 := by
  constructor <;> exact ⟨by decide +kernel, by decide +kernel, by decide +kernel, by decide +kernel, by decide +kernel, by decide +kernel,
    by decide +kernel⟩

/-- A close and a cancel at a bound job: with an offer outstanding, with nothing in its list, and starved at the end of its first copy. -/
theorem test_meets_Close_bound :
    let b := bound3 busyLane id
    let e := standing id 3 [] 0
    let s := standing id 2 [sheet1] 1
    let closed := { b.job 3 with expected := 4, intakeOpen := false, granted := 2, promised := 0, promisedShared := 0 }
    (b.reaches 0x1234 3 ∧ e.reaches 0x1234 3 ∧ s.reaches 0x1234 3) ∧ (b.job 3).inProgress = none ∧ b.offerable 2 = none ∧
    closed.cursorMove (b.job 3).send = none ∧ closed.cursorMove (b.job 3).confirm = none ∧ (b.job 3).confirm.copy ≠ (b.job 3).copies ∧
    (b.lane 2).offer ≠ none ∧ (b.modJob 3 fun j => { j with pendingHold := some 5 }).queue.resetTaken = false ∧
    (e.job 3).records = [] ∧ (e.lane 2).state = .bound ∧ (e.lane 2).offer = none ∧ (e.lane 2).inflight = [] ∧
    (e.lane 2).pendingSet = none ∧ (e.lane 2).current.enable = true ∧ (e.job 3).pendingHold = none ∧ (e.job 3).pendingCancel = none ∧
    (∀ p, (e.pool p).reserved = false) ∧ (∀ p, (e.pool p).queueOrder = []) ∧ (s.job 3).records.head? = some sheet1 ∧
    (s.job 3).send.pos = (s.job 3).records.length ∧ (s.job 3).send.copy < (s.job 3).copies ∧ (s.job 3).confirm = (s.job 3).send ∧
    (s.lane 2).offer = none ∧ (s.lane 2).inflight = [] ∧ (∀ p, (s.pool p).queueOrder = []) ∧ s.waitList = [] := by
  unfold State.reaches; decide +kernel

theorem test_meets_CancelFrame : (open3 id).reaches 0x1234 3 ∧ (open3 fun j => { j with state := .held }).reaches 0x1234 3 ∧
    ((open3 id).job 3).expected = 3 ∧ (open3 id).noLaneReady ∧ (∀ p, ((open3 id).pool p).reserved = false) ∧ (open3 id).waitList = [] ∧
    ((open3 id).job 3).confirm.pos < ((open3 id).job 3).records.length := by unfold State.reaches State.noLaneReady; decide +kernel

theorem test_meets_OnlyDataStores : Memory.wf [(5, 1), (9, 255)] = true ∧ ((filling id).begin.classify 0x1234).2 = some 3 ∧
    (((filling id).begin.classify 0x1234).1.sequence 3 3).2 = true ∧ (((filling id).begin.classify 0x1234).1.sequence 3 2).2 = false ∧
    ((filling id).begin.classify 0x1235).2 = none := by decide +kernel

/-! ## Hypotheses that can be met: lane links -/

theorem test_meets_Hello : base.resetLow = false ∧ (∀ p, (base.pool p).queueOrder = []) ∧ (255 : Word16).toNat < 2 ^ (8 + 1) ∧
    2 ^ 9 ≤ (512 : Word16).toNat ∧ (1023 : Word16).toNat < 2 ^ (9 + 1) ∧ 2 ^ 14 ≤ (0xFFFF : Word16).toNat ∧
    (base.lane 2).state = .training ∧ (base.lane 2).current.enable = true ∧
    ((base.modLane 2 fun r => { r with current := { r.current with enable := false } }).lane 2).current.enable = false ∧
    ((idleLane .ready true).lane 2).state = .ready ∧ ((idleLane .offline false).lane 2).state = .offline ∧
    (let s := queued3 .training [];
      let j := s.job 3;
      s.resetLow = false ∧ (s.lane 2).state = .training ∧ (s.lane 2).current.enable = true ∧ (s.lane 2).current.pool = 1 ∧
      (s.lane 2).reoffer = none ∧ (s.lane 2).abort = false ∧ (s.pool 1).ready = [] ∧ (s.pool 1).queueOrder = [200] ++ 3 :: [] ∧
      (s.job 200).sendable = false ∧ j.state = .queued ∧ j.pool = 1 ∧ j.recordAt j.send = some sheet1 ∧
      j.confirm.behind j.send = false ∧ j.confirm.copy ≠ j.copies ∧ (0x10 : Word16).getLsbD sheet1.cls = true ∧
      estimateOf (s.scaled sheet1 j.account) = 301 ∧ (s.account j.account).balance = 1000 ∧ (s.account j.account).pending = 5) := by
  decide +kernel

/-- Lane 2 with an offer and an entry in flight, and its job PRINTING. -/
def offering (f : Lane → Lane) (g : Job → Job) : State :=
  (withLane .printing ⟨false, false, false⟩ none fun r => f (busyLane r)).modJob 3 g

/-- No job of `base` with one job bound holds FUNDS. -/
theorem offering_no_funds (k : Slot) : ((offering id id).job k).reasons.funds = false := by
  simp only [offering, withLane, withJob, State.modJob, State.setLane, id]
  rw [job_after_setJob]
  change (if 3 = k then _ else ((base.setJob 3 _).job k)).reasons.funds = false
  rw [job_after_setJob, base_job]
  split_ifs <;> rfl

theorem test_meets_Proceed : (offering id id).resetLow = false ∧ ((offering id id).lane 2).state = .bound ∧
    ((offering id id).lane 2).abort = false ∧ ((offering id id).lane 2).offer = some offer1 ∧ ((offering id id).lane 2).job = some 3 ∧
    ((offering id id).job 3).recordOf offer1.sheet = some sheet1 ∧
    ((offering id id).lane 2).cap.depth ≤ ((offering id id).lane 2).inflight.length + 1 ∧ ((offering id id).job 3).intakeOpen = true ∧
    ((offering id id).job 3).confirm.pos = 0 ∧ ((offering id id).job 3).cursorMove ⟨1, 0 + 1⟩ = none ∧
    ((offering id id).job 3).cursorMove ((offering id id).job 3).confirm = none := by decide +kernel

theorem test_meets_Answers : ((offering id id).lane 2).offer = some offer1 ∧ ((offering id id).job 3).lane = some 2 ∧
    ((offering id id).job 3).state = .printing ∧ ((offering id id).lane 2).inflight ≠ [] ∧
    ((offering id fun j => { j with state := .holding }).job 3).state = .holding ∧
    (let s := offering (fun r => { r with inflight := [] }) fun j => { j with state := .holding, pendingHold := some 0 };
      (s.lane 2).inflight = [] ∧ (s.job 3).pendingHold = some 0 ∧ (s.lane 2).pendingSet = none ∧ (s.lane 2).current.enable = true ∧
      s.queue.resetTaken = false ∧ ∀ q, (s.pool q).queueOrder = []) ∧ (∀ k, ((offering id id).job k).reasons.funds = false) := by
  exact ⟨by decide +kernel, by decide +kernel, by decide +kernel, by decide +kernel, by decide +kernel, by decide +kernel, offering_no_funds⟩

/-- Job 3 on its last sheet-copy, with its intake closed. -/
def lastCopy : State :=
  offering (fun r => { r with offer := none }) fun j => { j with copies := 1, intakeOpen := false, send := ⟨1, 1⟩ }

/-- Lane 2 with two entries in flight, and its job of three sheets on copy `n` of two, sending the last of them. -/
def inFlight2 (n : Nat) : State :=
  offering (fun r => { r with inflight := [entry1, { entry1 with seq := 0x0107, sheet := 2 }] }) fun j =>
    { j with records := [sheet1, { sheet1 with number := 2 }, { sheet1 with number := 3 }], confirm := ⟨n, 0⟩, send := ⟨n, 2⟩ }

theorem test_meets_Out : ((offering id id).lane 2).inflight = [entry1] ∧ entry1.x ≤ 52428000000 ∧
    ((offering id id).account entry1.account).residue < 100000 ∧ ((offering id id).job 3).recordOf entry1.sheet = some sheet1 ∧
    ((offering id id).job 3).confirm.copy ≠ ((offering id id).job 3).copies ∧ ((offering id id).job 3).cursorMove ⟨1, 1⟩ = none ∧
    ((offering id id).job 3).cursorMove ((offering id id).job 3).send = none ∧ ((offering id id).lane 2).offer ≠ none ∧
    (lastCopy.job 3).state = .printing ∧ (lastCopy.job 3).intakeOpen = false ∧ (lastCopy.job 3).confirm.copy = (lastCopy.job 3).copies ∧
    (lastCopy.job 3).records.length = (lastCopy.job 3).confirm.pos + 1 ∧ (lastCopy.job 3).send = ⟨1, 1⟩ ∧ (lastCopy.lane 2).offer = none ∧
    (lastCopy.lane 2).state = .bound ∧ (lastCopy.lane 2).pendingSet = none ∧ (lastCopy.lane 2).current.enable = true ∧
    lastCopy.waitList = [] ∧ (∀ q, (lastCopy.pool q).queueOrder = []) ∧ (lastCopy.job 3).pendingHold = none ∧
    (lastCopy.job 3).pendingCancel = none := by decide +kernel

/-- Two entries confirmed by one OUT on the first copy, and the head entry on the final copy, where its record leaves the list. -/
theorem test_meets_Out_of_several :
    let s := inFlight2 1
    let entries := [(entry1, sheet1), ({ entry1 with seq := 0x0107, sheet := 2 }, { sheet1 with number := 2 })]
    ((s.lane 2).inflight = entries.map (·.1) ++ [] ∧ (∀ e ∈ (entries.map (·.1)).dropLast, e.seq ≠ 0x0107) ∧
      (∀ e ∈ entries, (s.job 3).recordOf e.1.sheet = some e.2) ∧ (s.job 3).confirm.copy ≠ (s.job 3).copies ∧
      (s.job 3).cursorMove (s.job 3).send = none ∧ (s.job 3).cursorMove ⟨1, 0 + 0 + 1⟩ = none ∧
      (s.job 3).cursorMove ⟨1, 0 + 1 + 1⟩ = none ∧ (s.job 3).state = .printing ∧ (s.lane 2).offer ≠ none) ∧
    let s := inFlight2 2
    (s.job 3).confirm = ⟨(s.job 3).copies, 0⟩ ∧ 0 < (s.job 3).send.pos ∧ (s.job 3).cursorMove ⟨2, 0 + 1⟩ = none ∧
      (s.job 3).cursorMove (s.job 3).send = none ∧ (s.job 3).records = sheet1 :: (s.job 3).records.tail ∧ (s.job 3).records.tail ≠ [] ∧
      s.waitList = [] ∧ (∀ p, (s.pool p).reserved = false) := by decide +kernel

theorem test_meets_Jam : (offering id id).noLaneReady ∧ ((offering id id).job 3).state = .printing ∧
    ((offering id id).job 3).intakeOpen = true ∧ ((offering id id).lane 2).metersInRange ∧ ((offering id id).job 3).totalsInRange ∧
    ((offering id id).job 3).cursorMove ((offering id id).job 3).confirm = none ∧
    (∃ k : Fin 32, (offering id id).alerts[k] = none) ∧ ((offering id id).job 3).confirm.pos = 0 ∧
    (∀ e ∈ ((offering id id).lane 2).inflight, e.seq ≠ 0x0101) ∧ (∀ k, ((offering id id).job k).reasons.funds = false) ∧
    ((offering (fun r => { r with state := .mediaWait }) id).lane 2).state = .mediaWait := by
  refine ⟨?_, ?_, ?_, ?_, ?_, ?_, ?_, ?_, ?_, offering_no_funds, ?_⟩ <;>
    (try unfold State.noLaneReady) <;> (try unfold Lane.metersInRange) <;> (try unfold Job.totalsInRange) <;> decide +kernel

/-- The head entry confirmed and the other spoiled, on the first copy and on the final one. -/
theorem test_meets_Jam_at_a_last_out (n : Nat) (hn : n = 1 ∨ n = 2) :
    let s := inFlight2 n
    let entries := [(entry1, sheet1)]
    let rest := [{ entry1 with seq := 0x0107, sheet := 2 }]
    (s.job 3).state = .printing ∧ (s.lane 2).inflight = entries.map (·.1) ++ rest ∧ (entries.map (·.1)).getLast? = some entry1 ∧
    (∀ e ∈ (entries.map (·.1)).dropLast, e.seq ≠ entry1.seq) ∧ (s.job 3).cursorMove ⟨n, 0 + 0 + 1⟩ = none ∧
    (∀ e ∈ entries, (s.job 3).recordOf e.1.sheet = some e.2 ∧ e.2.number = e.1.sheet) ∧ (s.job 3).confirm = ⟨n, 0⟩ ∧
    (s.job 3).copies = 2 ∧ (s.job 3).records = entries.map (·.2) ++ (s.job 3).records.tail ∧ (s.job 3).records.tail ≠ [] ∧
    s.waitList = [] ∧ ∀ p, (s.pool p).reserved = false := by
  rcases hn with rfl | rfl <;> decide +kernel

/-- A HOLDING job and a CANCELLING one on lane 2, each with its directive pending in entry 40 and a held set. -/
def leaving (state : JobState) (intake : Bool) : State :=
  offering (fun r => { r with abort := state == .cancelling, pendingSet := some heldSet }) fun j =>
    { j with
      state := state, reasons := byOperator, intakeOpen := intake, pendingHold := if state = .holding then some 40 else none
      pendingCancel := if state = .cancelling then some 40 else none }

theorem test_meets_Jam_leaving : ∀ state ∈ [JobState.holding, .cancelling], let s := leaving state true
    (s.job 3).state = state ∧ (s.job 3).lane = some 2 ∧ (s.lane 2).job = some 3 ∧ (s.lane 2).pendingSet = some heldSet ∧
    s.queue.resetTaken = false ∧ ringPlace heldSet.2 ≠ ringPlace 40 ∧ s.noLaneReady ∧
    ((s.job 3).pendingHold = some 40 ∨ (s.job 3).pendingHold = none ∧ (s.job 3).pendingCancel = some 40) ∧
    (s.job 3).cursorMove (s.job 3).confirm = none ∧ s.notices.length + 2 ≤ 128 := by unfold State.noLaneReady; decide +kernel

/-- Lane 2 with an ABORT outstanding, nothing in flight, and its job CANCELLING. -/
def stopping (state : LaneState) : State :=
  offering (fun r => { r with state := state, offer := none, inflight := [], abort := true }) fun j =>
    { j with state := .cancelling, pendingCancel := some 0 }

theorem test_meets_StoppedAndClear : (∀ q, ((stopping .bound).pool q).queueOrder = []) ∧
    (∀ st ∈ [LaneState.bound, .mediaWait], ((stopping st).lane 2).state = st ∧ ((stopping st).lane 2).abort = true ∧
      ((stopping st).job 3).state = .cancelling ∧ ((stopping st).job 3).pendingCancel = some 0 ∧
      ((stopping st).job 3).pendingHold = none ∧ ((stopping st).job 3).lane = some 2 ∧ ((stopping st).lane 2).pendingSet = none ∧
      (stopping st).waitList = [] ∧ (stopping st).queue.resetTaken = false ∧ ((stopping st).lane 2).metersInRange ∧
      ((stopping st).job 3).totalsInRange) ∧
    (let s := offering (fun r => { r with state := .jammed }) fun j => { j with state := .holding };
      (s.lane 2).state = .jammed ∧ (s.lane 2).job = some 3 ∧ (s.job 3).state ≠ .printing) ∧
    ((idleLane .jammed false).lane 2).job = none ∧ ((idleLane .mediaWait false).lane 2).current.enable = true := by
  unfold Lane.metersInRange Job.totalsInRange; decide +kernel

/-- STOPPED with entries in flight and a held set: a last-out that one entry carries, on either copy, and one that none carries. -/
theorem test_meets_Stopped_at_a_last_out (n : Nat) (hn : n = 1 ∨ n = 2) :
    let s := (inFlight2 n).modJob 3 fun j => { j with state := .cancelling, pendingCancel := some 40 }
    let s := s.modLane 2 fun r => { r with abort := true, pendingSet := some heldSet }
    let entries := [(entry1, sheet1)]
    (s.job 3).state = .cancelling ∧ (s.lane 2).abort = true ∧ (s.lane 2).pendingSet = some heldSet ∧ ringPlace heldSet.2 ≠ ringPlace 40 ∧
    (∀ k : Fin 32, s.alerts[k] = none) ∧ (s.lane 2).inflight = entries.map (·.1) ++ [{ entry1 with seq := 0x0107, sheet := 2 }] ∧
    (s.job 3).cursorMove ⟨n, 0 + 0 + 1⟩ = none ∧ (∀ e ∈ entries, (s.job 3).recordOf e.1.sheet = some e.2 ∧ e.2.number = e.1.sheet) ∧
    (s.job 3).confirm = ⟨n, 0⟩ ∧ (s.job 3).records = entries.map (·.2) ++ (s.job 3).records.tail ∧
    (∀ e ∈ (s.lane 2).inflight, e.seq ≠ 0x0108) := by
  rcases hn with rfl | rfl <;> decide +kernel

theorem test_meets_FramesNotTaken : (base.lane 2).state = .training ∧ ((offering id id).lane 2).state = .bound ∧
    (∀ o, ((offering id id).lane 2).offer = some o → o.seq ≠ 0x0100) ∧ (∀ e ∈ ((offering id id).lane 2).inflight, e.seq ≠ 0x0101) ∧
    ((idleLane .jammed false).lane 2).state = .jammed := by
  refine ⟨by decide +kernel, by decide +kernel, fun o h => ?_, by decide +kernel, by decide +kernel⟩
  rw [show ((offering id id).lane 2).offer = some offer1 by decide +kernel] at h
  cases h
  decide

theorem test_meets_CarrierAndResetPins : base.resetLow = false ∧
    (∀ st ∈ [LaneState.training, .offline, .down, .ready], ((idleLane st false).lane 2).state = st) ∧
    ({ base with resetLow := true } : State).resetLow = true ∧
    (∀ m x, Instr.noticeSend ≠ .carrierLost m ∧ Instr.noticeSend ≠ .carrierPresent m ∧ Instr.noticeSend ≠ .resetPinRise x) :=
  ⟨by decide +kernel, by decide +kernel, rfl, fun _ _ => ⟨nofun, nofun, nofun⟩⟩

/-- A HOLDING or CANCELLING job with its directive pending, a PRINTING one of closed intake on its final copy, and a held set; the log is
empty. -/
theorem test_meets_LaneLoss_leaving : (∀ state ∈ [JobState.printing, .holding, .cancelling], let s := leaving state false
      (s.job 3).state = state ∧ s.queue.resetTaken = false ∧ s.noLaneReady ∧ (s.lane 2).metersInRange ∧ (s.job 3).totalsInRange ∧
      (s.job 3).cursorMove (s.job 3).confirm = none ∧ (s.job 3).records ≠ [] ∧ (s.job 3).confirm.pos = 0 ∧
      (s.lane 2).pendingSet = some heldSet ∧ ringPlace heldSet.2 ≠ ringPlace 40 ∧ s.notices.length + 2 ≤ 128 ∧
      (∀ k : Fin 32, s.alerts[k] = none) ∧ (s.lane 2).silence ≠ none) ∧
    ∀ st ∈ [LaneState.mediaWait, .jammed], ((offering (fun r => { r with state := st }) id).lane 2).state = st := by
  unfold State.noLaneReady Lane.metersInRange Job.totalsInRange; decide +kernel

/-- A log of one record, of the key that the alert coalesces into. -/
theorem test_meets_LaneLoss_coalescing :
    let s : State := { leaving .holding true with alerts := base.alerts.set 2 (some (record1 .laneLost)) }
    s.alertsDistinct ∧ s.alerts[(2 : Fin 32)] = some (record1 .laneLost) ∧ (record1 .laneLost).kind = .laneLost ∧
      (record1 .laneLost).lane = some 2 ∧ (record1 .laneLost).slot = some 3 := by
  intro s
  have h : ∀ i : Fin 32, i ≠ 2 → s.alerts[i] = none := by decide +kernel
  refine ⟨fun i j r q hi hj _ _ _ => ?_, by decide +kernel, rfl, rfl, rfl⟩
  by_cases h1 : i = 2
  · by_cases h2 : j = 2
    · rw [h1, h2]
    · rw [h j h2] at hj; cases hj
  · rw [h i h1] at hi; cases hi

theorem test_meets_LaneLoss : (offering id id).noLaneReady ∧ ((offering id id).job 3).intakeOpen = true ∧
    ((offering id id).lane 2).silence ≠ none ∧
    (let s := offering (fun r => { r with timeouts := 2 }) id;
      (s.lane 2).answer ≠ none ∧ (s.lane 2).offer ≠ none ∧ (s.lane 2).abort = false ∧ 2 ≤ (s.lane 2).timeouts) ∧
    (let s := stopping .bound; (s.lane 2).answer ≠ none ∧ (s.lane 2).abort = true ∧ (s.job 3).pendingCancel = some 0) ∧
    (∀ k, ((offering id id).job k).reasons.funds = false) :=
  ⟨by unfold State.noLaneReady; decide +kernel, by decide +kernel, by decide +kernel, by decide +kernel, by decide +kernel, offering_no_funds⟩

/-- Lane 2 waiting to offer, with nothing in flight or with an entry. -/
def retrying (f : Lane → Lane) (g : Job → Job) : State := offering (fun r => f { r with offer := none, reoffer := some 0 }) g

theorem test_meets_Timers : (base.lane 2).state = .training ∧ (base.lane 2).hail ≠ none ∧
    ((idleLane .offline false).lane 2).silence ≠ none ∧ ((idleLane .ready true).lane 2).silence ≠ none ∧
    (let s := base.setLane 2 { lane1 3 with state := .jammed, escalation := some 0 }; (s.lane 2).escalation ≠ none) ∧
    ((offering id id).lane 2).answer ≠ none ∧ ((offering id id).lane 2).timeouts < 2 ∧
    ((offering id id).job 3).recordOf offer1.sheet = some sheet1 ∧
    ((retrying id id).lane 2).reoffer ≠ none ∧ ((retrying id id).lane 2).state = .bound ∧ ((retrying id id).lane 2).offer = none ∧
    ((retrying id id).lane 2).inflight.length < ((retrying id id).lane 2).cap.depth ∧
    ((retrying id id).job 3).recordAt ((retrying id id).job 3).send = some sheet1 ∧
    ((retrying id id).lane 2).cap.media.getLsbD sheet1.cls = true ∧ ((retrying id id).lane 2).cap.duplex = true ∧
    estimateOf ((retrying id id).scaled sheet1 9) = 301 ∧ -((50 : Nat) : Int) ≤ 1000 - ((5 : Nat) + (301 : Nat)) ∧
    ((retrying (fun r => { r with retained := some ⟨1, 1, 7⟩ }) id).lane 2).retained = some ⟨1, 1, 7⟩ ∧
    (((retrying id id).setAccount 9 ⟨true, 255, 50, 5, 0, 0, 0, 0, 0⟩).account 9).balance - (5 + 301) < -50 ∧
    ((retrying (fun r => { r with cap := { r.cap with media := 0 } }) id).lane 2).cap.media.getLsbD sheet1.cls = false := by decide +kernel

/-! ## One step of the spec's worked examples -/

/-- What is read of the state an outcome goes on with. -/
def after {α : Type} (o : Host.Outcome State Fault Refusal) (f : State → α) : Option α :=
  match o with
  | .next t => some (f t)
  | _ => none

/-- Chapter 6's example before its JAM: lane 5 with four sheet-copies in flight across a copy boundary. -/
def beforeJam : State :=
  (State.reset.setJob 9 { Job.vacant with
    state := .printing, tag := 4, account := 12, copies := 2, send := ⟨2, 2⟩, confirm := ⟨1, 1⟩, lane := some 5, confirmed := 1
    records := [1, 2, 3].map fun n => ⟨n, 0, 1, 0, 0, 4096, some (n, 0), 4096, .spooled⟩, chain := [1, 2, 3] }).modLane 5 fun r =>
    { r with state := .bound, job := some 9, cap := ⟨4096, 1, true, 4⟩, seq := 44, inflight := [⟨40, 1, 2, 12, 1000000, 10⟩,
      ⟨41, 1, 3, 12, 1000000, 10⟩, ⟨42, 2, 1, 12, 1000000, 10⟩, ⟨43, 2, 2, 12, 1000000, 10⟩] }

/-- Chapter 6, step 1: last-out 41 confirms two, spoils two and rewinds the send cursor. -/
theorem test_worked_jam : after (exec (.jam 5 (some 41) 7) beforeJam) (fun t => ((t.job 9).send, (t.job 9).confirm, (t.job 9).confirmed,
    (t.job 9).spoiled, (t.lane 5).state, (t.lane 5).sheetsSpoiled)) = some (⟨2, 0⟩, ⟨2, 0⟩, 3, 2, .jammed, 2) := by decide +kernel

/-- R51 across one event: a lane loss puts its own job 6 back, and by the pending sum that it lowers, job 11 that held FUNDS, in
ascending slots before the job that waited. -/
theorem test_requeued_by_one_event :
    let s := ((((base.setJob 6 { job1 with state := .printing, lane := some 2 }).setJob 11
      { job1 with state := .held, reasons := byFunds }).setJob 200 job1).modPool 1 fun p =>
        { p with classes := p.classes.set 2 [200] }).setLane 2 (busyLane (lane1 6))
    after (exec (.carrierLost 2) s) (fun t => (t.pool 1).classes[2]) = some [6, 11, 200] := by decide +kernel

/-- R148 visits in ascending slots: the one lane's headroom goes to the job of the lower slot, in whatever pool it is queued. -/
theorem test_funds_rise_serves_the_lower_slot :
    let s := ((((waiting 10 9 1000 1100 base).setAccount 9 ⟨true, 1000, 0, 795, 0, 0, 0, 0, 0⟩).setJob 11
      { job1 with state := .held, reasons := byFunds, pool := 0 }).setJob 3
      { job1 with state := .held, reasons := byFunds, pool := 1 })
    let s := { s with lanes := s.lanes.map fun r : Lane => { r with hail := none, state := .ready, cap := ⟨256, 0x10, true, 2⟩ } }
    let s := (s.modPool 0 fun p => { p with ready := [4] }).modPool 1 fun p => { p with ready := [5] }
    after (exec (.accountSwap 9 1000 1100) s) (fun t => ((t.job 3).state, (t.job 11).state, (t.account 9).pending)) =
      some (.printing, .held, 1096) := by decide +kernel

/-- A directive's reset reads the straps at the level that is put on for it (log entry 19). -/
theorem test_directive_reset_reads_the_straps :
    after (exec .noticeSend ({ base with notices := [.reply [] true], strapChanges := [0x40, 0x41] } : State)) (fun t =>
      (t.station, t.straps, t.strapChanges)) = some (0x40, 0x40, [0x41]) := by decide +kernel

/-- Chapter 10's example before frame B, with JOB-CANCEL pending in entry 0. -/
def beforeFence : State := behind ⟨20, 1, 9, 700, 0⟩ (.pending 0) ⟨2, 5, 1, 0, 0⟩ State.reset

/-- Chapter 10, step 4: a FENCE behind an incomplete entry is left pending, with 1 as its count. -/
theorem test_worked_fence : after (exec (.fence true) beforeFence) (fun t => ((t.entry 1).cond, t.notices.length)) =
    some (.pending 1, 0) := by decide +kernel

/-- A held LANE-SET is applied as its lane's job leaves, and completes with READY and 1 (R83). -/
theorem test_held_set_applies_as_the_job_leaves :
    let s := onJob 18 (withLane .printing ⟨false, false, false⟩ none fun r => { r with pendingSet := some heldSet })
    after (exec (.jobHold 3 0x1234) s) (fun t => ((t.lane 2).current, (t.lane 2).pendingSet, (t.pool 3).ready, (t.entry 5).cond)) =
      some (heldSet.1, none, [2], .complete .done 2 1) := by decide +kernel

/-- A FENCE left pending with the count 1 completes in the event that completes the entry before it (R167). -/
theorem test_fence_completes_later :
    let s := offering (fun r => { r with inflight := [] }) fun j =>
      { j with state := .holding, reasons := byOperator, pendingHold := some 0 }
    let s := { s with queue := (fencePending (.pending 0)).queue }
    after (exec (.wait 2 0x0101) s) (fun t => ((t.entry 0).cond, (t.entry 1).cond, t.queue.retire)) =
      some (.complete .done 1 0, .complete .done 1 0, 2) := by decide +kernel

/-- Chapter 4, step 3: a CLEAR in BOUND is ignored and counted, and restarts the silence timer. -/
theorem test_worked_stray_clear : after (exec (.clear 5) beforeJam) (fun t => ((t.lane 5).ignored, (t.lane 5).silence, (t.lane 5).state)) =
    some (1, some 5000, .bound) := by decide +kernel

end Sys2Proof.Tests
end

section
/-! PROOF. The tests of an OPEN (R3): what each searches for, the reason that the first that holds gives, and the event of a refusal. -/

namespace Sys2Proof.Machine

/-! ## What the tests search for -/

theorem isOpenOn_iff (j : Job) (tag : Word16) :
    j.isOpenOn tag = true ↔ j.state ≠ .free ∧ j.tag = tag ∧ j.intakeOpen = true := by
  simp only [Job.isOpenOn, Bool.and_eq_true, bne_iff_ne, beq_iff_eq]
  tauto

theorem searchOpen_isSome_iff (s : State) (tag : Word16) :
    (s.searchOpen tag).isSome = true ↔ ∃ i, (s.job i).state ≠ .free ∧ (s.job i).tag = tag ∧ (s.job i).intakeOpen = true := by
  simp [State.searchOpen, List.find?_isSome, isOpenOn_iff]

theorem freeSlot_eq_none_iff (s : State) : s.freeSlot = none ↔ ∀ i, (s.job i).state ≠ .free := by
  simp [State.freeSlot, List.find?_eq_none]

/-- An account number in range whose account is OPEN, where not every account it can name is not OPEN (R3). -/
theorem exists_open_account {s : State} {account : Word16}
    (h : ¬∀ a : AccountNo, account.toNat = a → (s.account a).isOpen = false) :
    ∃ a, toIndex 1024 account.toNat = some a ∧ (s.account a).isOpen = true := by
  push Not at h
  obtain ⟨a, ha, ho⟩ := h
  exact ⟨a, toIndex_of_eq a ha, by simpa using ho⟩

/-! ## The reason of a refusal -/

section
variable {s : State} {tag account : Word16} {pool : Byte}

theorem openTest_streamBusy (h : (s.searchOpen tag).isSome = true) : s.openTest tag account pool = .error .streamBusy := by
  unfold State.openTest; rw [if_pos h]

theorem openTest_noSlot (hb : ¬(s.searchOpen tag).isSome = true) (hf : s.freeSlot = none) :
    s.openTest tag account pool = .error .noSlot := by
  unfold State.openTest; rw [if_neg hb, hf]

/-- The third test fails an account number out of range and an account that is not OPEN alike (R3). -/
theorem openTest_account (hb : ¬(s.searchOpen tag).isSome = true) (hf : s.freeSlot ≠ none)
    (ha : ∀ a : AccountNo, account.toNat = a → (s.account a).isOpen = false) :
    s.openTest tag account pool = .error .account := by
  obtain ⟨i, hi⟩ := Option.ne_none_iff_exists'.mp hf
  unfold State.openTest
  rw [if_neg hb, hi]
  rcases Nat.lt_or_ge account.toNat 1024 with hlt | hge
  · rw [toIndex_of_lt hlt]
    simp [ha ⟨_, hlt⟩ rfl]
  · rw [toIndex_of_ge hge]

theorem openTest_pool (hb : ¬(s.searchOpen tag).isSome = true) (hf : s.freeSlot ≠ none) {a : AccountNo}
    (ha : toIndex 1024 account.toNat = some a) (ho : (s.account a).isOpen = true) (hp : 7 < pool.toNat) :
    s.openTest tag account pool = .error .pool := by
  obtain ⟨i, hi⟩ := Option.ne_none_iff_exists'.mp hf
  unfold State.openTest
  rw [if_neg hb, hi, ha, toIndex_of_ge (n := 8) hp]
  simp [ho]

end

/-! ## The event of a refusal -/

theorem settled_begin_notice (s : State) (n : Notice) : (s.begin.notice n).settled = (s.notice n).settled := by
  unfold State.notice
  rw [show s.begin.noticeRoom = s.noticeRoom from rfl]
  split <;> rfl

/-- An event whose whole effect is one item for the notice queue notes nothing, and ends with that item queued (R170). -/
theorem event_eq_notice {s : State} {effect : State → State} {n : Notice} (hs : s.resetLow = false)
    (h : effect s.begin = s.begin.notice n) : event s effect = .next (s.notice n).settled := by
  unfold event
  rw [if_neg (by simp [hs]), h, finish_nothing _ (by simp), settled_begin_notice]

/-- An OPEN that its tests refuse queues REJECTED with the reason, and does nothing else (R3). -/
theorem exec_openJob_of_error {s : State} {tag account : Word16} {pool : Byte} {reason : RejectReason} (hs : s.resetLow = false)
    (h : s.openTest tag account pool = .error reason) (prio : Byte) (copies first last : Word16) :
    exec (.openJob tag account pool prio copies first last) s = .next (s.notice (.rejected tag reason)).settled := by
  have ht : s.begin.openTest tag account pool = .error reason := h
  show execOpenJob tag account pool prio copies first last s = _
  unfold execOpenJob
  exact event_eq_notice hs (by rw [ht])

/-- Settles O43: each clause is the test that holds first, and the refusal that its reason brings. -/
theorem openIsRefusedByTheFirstTestThatHolds : Obligations.OpenIsRefusedByTheFirstTestThatHolds := by
  unfold Obligations.OpenIsRefusedByTheFirstTestThatHolds
  intro s tag account pool prio copies first last hs
  dsimp only
  rw [← searchOpen_isSome_iff, ← freeSlot_eq_none_iff]
  refine ⟨fun hb => ?streamBusy, fun hb hf => ?noSlot, fun hb hf ha => ?account, fun hb hf ha hp => ?pool⟩
  case streamBusy => exact exec_openJob_of_error hs (openTest_streamBusy hb) ..
  case noSlot => exact exec_openJob_of_error hs (openTest_noSlot hb hf) ..
  case account => exact exec_openJob_of_error hs (openTest_account hb hf ha) ..
  case pool =>
    obtain ⟨a, hi, ho⟩ := exists_open_account ha
    exact exec_openJob_of_error hs (openTest_pool hb hf hi ho hp) ..

end Sys2Proof.Machine
end

section
/-! PROOF. TIER-SET (R128): when a threshold conflicts with another valid tier, and the event of each of its outcomes. -/

namespace Sys2Proof.Machine

/-! ## The test against the other valid tiers -/

theorem clamp_eq_max_min {low high : Nat} (h : low ≤ high) (n : Nat) : clamp low high n = max low (min high n) := by
  unfold clamp
  split
  · omega
  · split <;> omega

section
variable {s : State} {k j : Fin 4} {threshold : Nat}

theorem tierConflicts_iff : s.tierConflicts k threshold j = true ↔
    s.tiers[j].valid = true ∧ ((j < k ∧ threshold ≤ s.tiers[j].threshold) ∨ (k < j ∧ s.tiers[j].threshold ≤ threshold)) := by
  simp [State.tierConflicts]

theorem tierConflict_eq_none_iff : s.tierConflict k threshold = none ↔ ∀ j, ¬s.tierConflicts k threshold j = true := by
  simp [State.tierConflict, List.find?_eq_none]

/-- The conflict that RANGE names is the lowest-numbered one (R128). -/
theorem tierConflict_eq_some_iff : s.tierConflict k threshold = some j ↔
    s.tierConflicts k threshold j = true ∧ ∀ i, i < j → ¬s.tierConflicts k threshold i = true := by
  unfold State.tierConflict
  rw [← Fin.find?_eq_find?_finRange, Fin.find?_eq_some_iff]
  simp

end

/-- Taking a directive leaves the tiers, and so the test against them, as they were. -/
@[simp] theorem taken_tierConflict (s : State) (w : Bool) (k : Fin 4) (threshold : Nat) :
    (s.taken w).tierConflict k threshold = s.tierConflict k threshold := by
  simp [State.tierConflict, State.tierConflicts]

/-! ## The tier as it is stored -/

theorem tierStored_zero (valid : Bool) (threshold percentage : Nat) :
    tierStored 0 valid threshold percentage = ⟨0, max 50 (min 200 percentage), true⟩ := by
  rw [tierStored, if_pos rfl, clamp_eq_max_min (by decide)]

theorem tierStored_of_ne_zero {k : Fin 4} (hk : k ≠ 0) (valid : Bool) (threshold percentage : Nat) :
    tierStored k valid threshold percentage = ⟨threshold, max 50 (min 200 percentage), valid⟩ := by
  rw [tierStored, if_neg hk, clamp_eq_max_min (by decide)]

/-! ## The event of each outcome -/

section
variable {s : State} {tier : Byte} {valid : Bool} {threshold percentage : Word32}

/-- A tier above 3 is out of range (R128). -/
theorem exec_tierSet_of_tier_gt (h : s.takeable (.tierSet tier valid threshold percentage) = true) (ht : 3 < tier.toNat) :
    ∃ t, exec (.tierSet tier valid threshold percentage) s = .next t ∧
      Concludes (s.taken false) t [⟨s.queue.take, .range, 0, 0⟩] := by
  show ∃ t, execTierSet tier valid threshold percentage s = .next t ∧ _
  unfold execTierSet
  refine takeDirective_reports h ?_
  rw [toIndex_of_ge (n := 4) ht]
  rfl

/-- A conflict with another valid tier refuses a tier that would become valid, and nothing changes (R128). -/
theorem exec_tierSet_of_conflict (h : s.takeable (.tierSet tier true threshold percentage) = true) {k j : Fin 4}
    (hi : tier.toNat = k) (hk : k ≠ 0) (hc : s.tierConflict k threshold.toNat = some j) :
    ∃ t, exec (.tierSet tier true threshold percentage) s = .next t ∧
      Concludes (s.taken false) t [⟨s.queue.take, .range, BitVec.ofNat 32 j, 0⟩] := by
  show ∃ t, execTierSet tier true threshold percentage s = .next t ∧ _
  unfold execTierSet
  refine takeDirective_reports h ?_
  have test : (if k = 0 || !true then none else (s.taken false).tierConflict k threshold.toNat) = some j := by
    simp [hk, hc]
  rw [toIndex_of_eq k hi]
  dsimp only
  rw [test]
  rfl

/-- Tier 0, a tier that becomes invalid, and a tier whose threshold conflicts with no other take the operands (R128). -/
theorem exec_tierSet_of_no_conflict (h : s.takeable (.tierSet tier valid threshold percentage) = true) {k : Fin 4}
    (hi : tier.toNat = k) (hc : k = 0 ∨ valid = false ∨ s.tierConflict k threshold.toNat = none) :
    ∃ t, exec (.tierSet tier valid threshold percentage) s = .next t ∧
      Concludes { s.taken false with tiers := s.tiers.set k (tierStored k valid threshold.toNat percentage.toNat) } t
        [⟨s.queue.take, .done, BitVec.ofNat 32 (max 50 (min 200 percentage.toNat)), BitVec.ofNat 32 s.tiers[k].threshold⟩] := by
  show ∃ t, execTierSet tier valid threshold percentage s = .next t ∧ _
  unfold execTierSet
  refine takeDirective_changes h _ ?_ rfl (taken_todo s false)
  have test : (if k = 0 || !valid then none else (s.taken false).tierConflict k threshold.toNat) = none := by
    rcases hc with hk | hv | hn
    · simp [hk]
    · simp [hv]
    · simp [hn]
  rw [toIndex_of_eq k hi]
  dsimp only
  rw [test, taken_tiers, clamp_eq_max_min (by decide)]
  rfl

end

/-- Settles O14: by the tier number, then by the valid operand, then by the lowest-numbered conflict, if there is one. -/
theorem tierSetKeepsOrRefusesByTheOrder : Obligations.TierSetKeepsOrRefusesByTheOrder := by
  unfold Obligations.TierSetKeepsOrRefusesByTheOrder
  intro s tier valid threshold percentage h
  dsimp only
  simp only [← tierConflicts_iff]
  refine ⟨exec_tierSet_of_tier_gt h, fun h0 => ?tierZero, fun k hk hi => ⟨?invalid, ?noConflict, ?conflict⟩⟩
  case tierZero =>
    have stores := exec_tierSet_of_no_conflict (k := 0) h h0 (.inl rfl)
    rwa [tierStored_zero] at stores
  case invalid =>
    rintro rfl
    have stores := exec_tierSet_of_no_conflict h hi (.inr (.inl rfl))
    rwa [tierStored_of_ne_zero hk] at stores
  case noConflict =>
    rintro rfl hn
    have stores := exec_tierSet_of_no_conflict h hi (.inr (.inr (tierConflict_eq_none_iff.mpr hn)))
    rwa [tierStored_of_ne_zero hk] at stores
  case conflict =>
    rintro j rfl hj hl
    exact exec_tierSet_of_conflict h hi hk (tierConflict_eq_some_iff.mpr ⟨hj, hl⟩)

end Sys2Proof.Machine
end

section
/-! PROOF. ACCOUNT-READ, ACCOUNT-CLOSE and ACCOUNT-ROLL (R140, R143, R144): the jobs that name an account, the items of Table 8.2, and the
event of each outcome. -/

namespace Sys2Proof.Machine

/-! ## The jobs that name an account -/

section
variable {s : State} {a : AccountNo}

theorem mem_jobsNaming {i : Slot} : i ∈ s.jobsNaming a ↔ (s.job i).state ≠ .free ∧ (s.job i).account = a := by
  simp [State.jobsNaming]

theorem length_jobsNaming : (s.jobsNaming a).length =
    (List.finRange 256).countP fun i => decide ((s.job i).state ≠ .free ∧ (s.job i).account = a) := by
  rw [State.jobsNaming, ← List.countP_eq_length_filter]
  refine List.countP_congr fun i _ => ?_
  simp

theorem jobsNaming_eq_nil_iff : s.jobsNaming a = [] ↔ ∀ i, ¬((s.job i).state ≠ .free ∧ (s.job i).account = a) := by
  simp only [List.eq_nil_iff_forall_not_mem, mem_jobsNaming]

theorem jobsNaming_pairwise_lt : (s.jobsNaming a).Pairwise (· < ·) :=
  (List.pairwise_lt_finRange 256).filter _

/-- The slot that BUSY names is the lowest one (R140). -/
theorem jobsNaming_of_lowest {i : Slot} (hi : (s.job i).state ≠ .free ∧ (s.job i).account = a)
    (hl : ∀ k, k < i → ¬((s.job k).state ≠ .free ∧ (s.job k).account = a)) : ∃ rest, s.jobsNaming a = i :: rest := by
  have hm : i ∈ s.jobsNaming a := mem_jobsNaming.mpr hi
  have sorted := jobsNaming_pairwise_lt (s := s) (a := a)
  cases hj : s.jobsNaming a with
  | nil => simp [hj] at hm
  | cons k rest =>
    have hk : (s.job k).state ≠ .free ∧ (s.job k).account = a := mem_jobsNaming.mp (by simp [hj])
    rw [hj] at hm sorted
    rcases List.mem_cons.mp hm with rfl | hr
    · exact ⟨rest, rfl⟩
    · exact absurd hk (hl k (List.rel_of_pairwise_cons sorted hr))

end

/-- Taking a directive leaves the jobs, and so those that name an account, as they were. -/
@[simp] theorem taken_jobsNaming (s : State) (w : Bool) (a : AccountNo) : (s.taken w).jobsNaming a = s.jobsNaming a := by
  simp [State.jobsNaming]

/-! ## The items of Table 8.2 -/

/-- Taking a directive leaves the accounts and the jobs, and so every item, as they were. -/
@[simp] theorem taken_readAccount (s : State) (w : Bool) (a : AccountNo) (item : Nat) :
    (s.taken w).readAccount a item = s.readAccount a item := by
  simp [State.readAccount]

section
variable (s : State) (a : AccountNo)

theorem readAccount_zero : s.readAccount a 0 =
    (.done, if (s.account a).isOpen = true then 1 else 0, BitVec.ofNat 32 (s.account a).limit) := by
  cases h : (s.account a).isOpen <;> simp [State.readAccount, h, flag32, val32]

theorem readAccount_one : s.readAccount a 1 = (.done, (BitVec.ofInt 64 (s.account a).balance).extractLsb' 0 32,
    (BitVec.ofInt 64 (s.account a).balance).extractLsb' 32 32) := rfl

theorem readAccount_two : s.readAccount a 2 =
    (.done, BitVec.ofNat 32 (s.account a).pending, BitVec.ofNat 32 (s.account a).residue) := rfl

theorem readAccount_three : s.readAccount a 3 = (.done, BitVec.ofNat 32 (s.account a).periodSheets,
    BitVec.ofNat 32 ((List.finRange 256).countP fun i => decide ((s.job i).state ≠ .free ∧ (s.job i).account = a))) := by
  rw [← length_jobsNaming]
  rfl

theorem readAccount_four : s.readAccount a 4 = (.done, BitVec.ofNat 32 ((s.account a).periodCharge % 4294967296),
    BitVec.ofNat 32 ((s.account a).periodCharge / 4294967296)) := rfl

theorem readAccount_five : s.readAccount a 5 = (.done, BitVec.ofNat 32 (s.account a).lastSheets, 0) := rfl

theorem readAccount_six : s.readAccount a 6 = (.done, BitVec.ofNat 32 ((s.account a).lastCharge % 4294967296),
    BitVec.ofNat 32 ((s.account a).lastCharge / 4294967296)) := rfl

/-- There is no item above 6 (R143). -/
theorem readAccount_of_gt {item : Nat} (h : 6 < item) : s.readAccount a item = (.range, 0, 0) := by
  obtain ⟨n, rfl⟩ : ∃ n, item = n + 7 := ⟨item - 7, by omega⟩
  rfl

end

/-! ## The event of each outcome -/

section
variable {s : State} {account item : Word32} {a : AccountNo}

/-- An account above 1023 is out of range (R143). -/
theorem exec_accountRead_of_account_gt (h : s.takeable (.accountRead account item) = true) (ha : 1023 < account.toNat) :
    ∃ t, exec (.accountRead account item) s = .next t ∧ Concludes (s.taken false) t [⟨s.queue.take, .range, 0, 0⟩] := by
  show ∃ t, execAccountRead account item s = .next t ∧ _
  unfold execAccountRead
  refine takeDirective_reports h ?_
  rw [toIndex_of_ge (n := 1024) ha]
  rfl

/-- An account in range gives its item's values, whether it is OPEN or CLOSED (R143). -/
theorem exec_accountRead_of_values (h : s.takeable (.accountRead account item) = true) (hi : account.toNat = a)
    {r : Result} {v1 v2 : Word32} (hv : s.readAccount a item.toNat = (r, v1, v2)) :
    ∃ t, exec (.accountRead account item) s = .next t ∧ Concludes (s.taken false) t [⟨s.queue.take, r, v1, v2⟩] := by
  show ∃ t, execAccountRead account item s = .next t ∧ _
  unfold execAccountRead
  refine takeDirective_reports h ?_
  rw [toIndex_of_eq a hi]
  dsimp only
  rw [taken_readAccount, hv]

/-- An account above 1023 is out of range (R140). -/
theorem exec_accountClose_of_account_gt (h : s.takeable (.accountClose account) = true) (ha : 1023 < account.toNat) :
    ∃ t, exec (.accountClose account) s = .next t ∧ Concludes (s.taken false) t [⟨s.queue.take, .range, 0, 0⟩] := by
  show ∃ t, execAccountClose account s = .next t ∧ _
  unfold execAccountClose
  refine takeDirective_reports h ?_
  rw [toIndex_of_ge (n := 1024) ha]
  rfl

/-- An account that is CLOSED cannot be closed (R140). -/
theorem exec_accountClose_of_closed (h : s.takeable (.accountClose account) = true) (hi : account.toNat = a)
    (hc : (s.account a).isOpen = false) :
    ∃ t, exec (.accountClose account) s = .next t ∧ Concludes (s.taken false) t [⟨s.queue.take, .state, 0, 0⟩] := by
  show ∃ t, execAccountClose account s = .next t ∧ _
  unfold execAccountClose
  refine takeDirective_reports h ?_
  rw [toIndex_of_eq a hi]
  dsimp only
  rw [taken_account, hc]
  rfl

/-- An OPEN account that jobs name stays OPEN; BUSY gives their number and the first of them (R140). -/
theorem exec_accountClose_of_named (h : s.takeable (.accountClose account) = true) (hi : account.toNat = a)
    (ho : (s.account a).isOpen = true) {i : Slot} {rest : List Slot} (hj : s.jobsNaming a = i :: rest) :
    ∃ t, exec (.accountClose account) s = .next t ∧ Concludes (s.taken false) t
      [⟨s.queue.take, .busy, BitVec.ofNat 32 (s.jobsNaming a).length, BitVec.ofNat 32 i⟩] := by
  show ∃ t, execAccountClose account s = .next t ∧ _
  unfold execAccountClose
  refine takeDirective_reports h ?_
  rw [toIndex_of_eq a hi]
  dsimp only
  rw [taken_account, ho, taken_jobsNaming, hj]
  rfl

/-- An OPEN account that no job names becomes CLOSED (R140). -/
theorem exec_accountClose_of_unnamed (h : s.takeable (.accountClose account) = true) (hi : account.toNat = a)
    (ho : (s.account a).isOpen = true) (hj : s.jobsNaming a = []) :
    ∃ t, exec (.accountClose account) s = .next t ∧
      Concludes { s.taken false with accounts := s.accounts.set a { s.account a with isOpen := false } } t
        [⟨s.queue.take, .done, (BitVec.ofInt 64 (s.account a).balance).extractLsb' 0 32,
          (BitVec.ofInt 64 (s.account a).balance).extractLsb' 32 32⟩] := by
  show ∃ t, execAccountClose account s = .next t ∧ _
  unfold execAccountClose
  refine takeDirective_changes h _ ?_ rfl (taken_todo s false)
  rw [toIndex_of_eq a hi]
  dsimp only
  rw [State.modAccount, State.setAccount, taken_accounts, taken_account, ho, taken_jobsNaming, hj]
  rfl

/-- An account above 1023 is out of range (R144). -/
theorem exec_accountRoll_of_account_gt (h : s.takeable (.accountRoll account) = true) (ha : 1023 < account.toNat) :
    ∃ t, exec (.accountRoll account) s = .next t ∧ Concludes (s.taken false) t [⟨s.queue.take, .range, 0, 0⟩] := by
  show ∃ t, execAccountRoll account s = .next t ∧ _
  unfold execAccountRoll
  refine takeDirective_reports h ?_
  rw [toIndex_of_ge (n := 1024) ha]
  rfl

/-- The period of a CLOSED account cannot be closed (R144). -/
theorem exec_accountRoll_of_closed (h : s.takeable (.accountRoll account) = true) (hi : account.toNat = a)
    (hc : (s.account a).isOpen = false) :
    ∃ t, exec (.accountRoll account) s = .next t ∧ Concludes (s.taken false) t [⟨s.queue.take, .state, 0, 0⟩] := by
  show ∃ t, execAccountRoll account s = .next t ∧ _
  unfold execAccountRoll
  refine takeDirective_reports h ?_
  rw [toIndex_of_eq a hi]
  dsimp only
  rw [taken_account, hc]
  rfl

/-- The period figures of an OPEN account become its last-period figures (R144). -/
theorem exec_accountRoll_of_open (h : s.takeable (.accountRoll account) = true) (hi : account.toNat = a)
    (ho : (s.account a).isOpen = true) :
    ∃ t, exec (.accountRoll account) s = .next t ∧
      Concludes { s.taken false with accounts := s.accounts.set a (s.account a).rolled } t
        [⟨s.queue.take, .done, BitVec.ofNat 32 (s.account a).periodSheets,
          BitVec.ofNat 32 ((s.account a).periodCharge % 4294967296)⟩] := by
  show ∃ t, execAccountRoll account s = .next t ∧ _
  unfold execAccountRoll
  refine takeDirective_changes h _ ?_ rfl (taken_todo s false)
  rw [toIndex_of_eq a hi]
  dsimp only
  rw [State.modAccount, State.setAccount, taken_accounts, taken_account, ho]
  rfl

end

/-- Settles O16: by the number, the account's state, and whether jobs name it; the first job that names it is the lowest one. -/
theorem accountCloseNeedsNoJob : Obligations.AccountCloseNeedsNoJob := by
  unfold Obligations.AccountCloseNeedsNoJob
  intro s account h
  dsimp only
  refine ⟨exec_accountClose_of_account_gt h, fun a hi => ⟨exec_accountClose_of_closed h hi, ?named, ?unnamed⟩⟩
  case named =>
    intro i ho hn hl
    obtain ⟨rest, hj⟩ := jobsNaming_of_lowest hn hl
    rw [← length_jobsNaming]
    exact exec_accountClose_of_named h hi ho hj
  case unnamed =>
    intro ho hn
    exact exec_accountClose_of_unnamed h hi ho (jobsNaming_eq_nil_iff.mpr hn)

/-- Settles O20: by the number, then by the item, each with its values of Table 8.2. -/
theorem accountReadReportsTheTable : Obligations.AccountReadReportsTheTable := by
  unfold Obligations.AccountReadReportsTheTable
  intro s account item h
  dsimp only
  refine ⟨?range, fun a hi => ?table⟩
  case range =>
    intro hr
    by_cases ha : 1023 < account.toNat
    · exact exec_accountRead_of_account_gt h ha
    · have hitem : 6 < item.toNat := hr.resolve_left ha
      exact exec_accountRead_of_values (a := ⟨account.toNat, by omega⟩) h rfl (readAccount_of_gt s _ hitem)
  case table =>
    refine ⟨fun h0 => ?_, fun h1 => ?_, fun h2 => ?_, fun h3 => ?_, fun h4 => ?_, fun h5 => ?_, fun h6 => ?_⟩
    · exact exec_accountRead_of_values h hi (h0 ▸ readAccount_zero s a)
    · exact exec_accountRead_of_values h hi (h1 ▸ readAccount_one s a)
    · exact exec_accountRead_of_values h hi (h2 ▸ readAccount_two s a)
    · exact exec_accountRead_of_values h hi (h3 ▸ readAccount_three s a)
    · exact exec_accountRead_of_values h hi (h4 ▸ readAccount_four s a)
    · exact exec_accountRead_of_values h hi (h5 ▸ readAccount_five s a)
    · exact exec_accountRead_of_values h hi (h6 ▸ readAccount_six s a)

/-- Settles O21: by the number, then by the account's state. -/
theorem accountRollClosesThePeriod : Obligations.AccountRollClosesThePeriod := by
  unfold Obligations.AccountRollClosesThePeriod
  intro s account h
  exact ⟨exec_accountRoll_of_account_gt h, fun a hi =>
    ⟨exec_accountRoll_of_closed h hi, exec_accountRoll_of_open h hi⟩⟩

end Sys2Proof.Machine
end

section
/-! PROOF. COUNTERS-READ (R169): the counters of each item, and the event that reports them. -/

namespace Sys2Proof.Machine

/-! ## The items of COUNTERS-READ -/

/-- Taking a directive leaves the counters, and so every item, as they were. -/
@[simp] theorem taken_readCounters (s : State) (w : Bool) (item : Word32) :
    (s.taken w).readCounters item = s.readCounters item := by
  simp only [State.readCounters, taken_unknownStream, taken_closedStream, taken_duplicates, taken_badHeaders,
    taken_overruns, taken_noticeDrops]

section
variable (s : State)

theorem readCounters_zero :
    s.readCounters 0 = (.done, BitVec.ofNat 32 s.unknownStream, BitVec.ofNat 32 s.closedStream) := rfl

theorem readCounters_one :
    s.readCounters 1 = (.done, BitVec.ofNat 32 s.duplicates, BitVec.ofNat 32 s.badHeaders) := rfl

theorem readCounters_two :
    s.readCounters 2 = (.done, BitVec.ofNat 32 s.overruns, BitVec.ofNat 32 s.noticeDrops) := rfl

/-- There is no item above 2 (R169). -/
theorem readCounters_of_gt {item : Word32} (h : 2 < item.toNat) : s.readCounters item = (.range, 0, 0) := by
  obtain ⟨n, hn⟩ : ∃ n, item.toNat = n + 3 := ⟨item.toNat - 3, by omega⟩
  unfold State.readCounters
  rw [hn]
  rfl

end

/-! ## The event -/

/-- Every item reports the counters as they stand when the directive is taken, and its event changes nothing else (R169). -/
theorem exec_countersRead_of_values {s : State} {item : Word32} (h : s.takeable (.countersRead item) = true)
    {r : Result} {v1 v2 : Word32} (hv : s.readCounters item = (r, v1, v2)) :
    ∃ t, exec (.countersRead item) s = .next t ∧ Concludes (s.taken false) t [⟨s.queue.take, r, v1, v2⟩] := by
  show ∃ t, execCountersRead item s = .next t ∧ _
  unfold execCountersRead
  refine takeDirective_reports h ?_
  rw [taken_readCounters, hv]

/-- Settles O28: by the item, each with its two counters. -/
theorem countersReadReportsTwoCounters : Obligations.CountersReadReportsTwoCounters := by
  unfold Obligations.CountersReadReportsTwoCounters
  intro s item h
  dsimp only
  refine ⟨fun h0 => ?_, fun h1 => ?_, fun h2 => ?_, fun habove => ?_⟩
  · exact exec_countersRead_of_values h (h0 ▸ readCounters_zero s)
  · exact exec_countersRead_of_values h (h1 ▸ readCounters_one s)
  · exact exec_countersRead_of_values h (h2 ▸ readCounters_two s)
  · exact exec_countersRead_of_values h (readCounters_of_gt s habove)

end Sys2Proof.Machine
end

section
/-! PROOF. What every step keeps of one table by itself: spool memory, the two queues, the alert log and the tiers. Each predicate looks at
one part of the state, so that only the elementary updates that write this part need an argument (`Stable`). -/

namespace Sys2Proof.Machine

/-- A predicate that every step keeps holds of the state that a step answers. -/
theorem Stable.of_step {P : State → Prop} (h : Stable P) {s t : State} (ht : Machine.step s = .next t) (hs : P s) : P t := by
  obtain ⟨u, hu, hp⟩ := h.step hs
  rw [ht] at hu
  cases hu
  exact hp

/-! ## What the operations of the alert log leave -/

section
variable (s : State)

theorem relayInto_frame (i : Fin 32) (r : AlertRecord) :
    s.relayInto i r = { s with alerts := (s.relayInto i r).alerts, notices := (s.relayInto i r).notices,
                               noticeDrops := (s.relayInto i r).noticeDrops } := by
  unfold State.relayInto State.notice
  split
  · rfl
  · split <;> rfl

theorem relayHeld_frame (p : AlertRecord → Bool) (i : Fin 32) :
    s.relayHeld p i = { s with alerts := (s.relayHeld p i).alerts, notices := (s.relayHeld p i).notices,
                               noticeDrops := (s.relayHeld p i).noticeDrops } := by
  unfold State.relayHeld State.notice
  split
  · split
    · split <;> rfl
    · rfl
  · rfl

/-- The notice queue of `t` and its drop counter are those of `s`, or `s` has queued or dropped one item. -/
def State.noticesFrom (s t : State) : Prop :=
  (t.notices = s.notices ∧ t.noticeDrops = s.noticeDrops) ∨
    ∃ n, t.notices = (s.notice n).notices ∧ t.noticeDrops = (s.notice n).noticeDrops

theorem relayInto_noticesFrom (i : Fin 32) (r : AlertRecord) : s.noticesFrom (s.relayInto i r) := by
  unfold State.relayInto
  split
  · exact .inl ⟨rfl, rfl⟩
  · exact .inr ⟨_, rfl, rfl⟩

theorem relayHeld_noticesFrom (p : AlertRecord → Bool) (i : Fin 32) : s.noticesFrom (s.relayHeld p i) := by
  unfold State.relayHeld
  split
  · split
    · exact .inr ⟨_, rfl, rfl⟩
    · exact .inl ⟨rfl, rfl⟩
  · exact .inl ⟨rfl, rfl⟩

/-- An overflow of the alert log leaves what queueing an item reads of the notice queue. -/
theorem overflowed_notice (n : Notice) : s.noticesFrom (({ s with
    overflow := true, overflowCount := bump s.overflowCount } : State).notice n) := by
  refine .inr ⟨n, ?_⟩
  unfold State.notice State.noticeRoom
  by_cases room : s.notices.length < Config.noticePlaces <;> simp [room]

theorem raiseAlert_noticesFrom (e : AlertEvent) : s.noticesFrom (s.raiseAlert e) := by
  unfold State.raiseAlert
  split
  · split
    · exact relayInto_noticesFrom s _ _
    · exact .inl ⟨rfl, rfl⟩
  · split
    · exact relayInto_noticesFrom s _ _
    · dsimp only
      split
      · exact .inl ⟨rfl, rfl⟩
      · exact overflowed_notice s _

/-- What relaying stores is the record but for the relayed field (R156). -/
theorem relayInto_alerts (i : Fin 32) (r : AlertRecord) :
    ∃ b, (s.relayInto i r).alerts = s.alerts.set i (some { r with relayed := b }) := by
  unfold State.relayInto
  split
  · exact ⟨_, rfl⟩
  · exact ⟨_, rfl⟩

end

/-! ## Spool memory -/

theorem stable_memory_wf : Stable fun s => Memory.wf s.mem = true := by
  refine { toSteady := ?_, mem := fun h j k bs => Memory.wf_storeBytes j h k bs }
  constructor
  case notice => intro s h n; simpa using h
  case alert => intro s h e; rw [raiseAlert_frame]; exact h
  case relay => intro s h p i; rw [relayHeld_frame]; exact h
  all_goals intros; assumption

/-- Settles O4: only the storing of payload writes spool memory, and it keeps the canonical form. -/
theorem stepKeepsSpoolMemoryCanonical : Obligations.StepKeepsSpoolMemoryCanonical :=
  fun _ _ hs ht => stable_memory_wf.of_step ht hs

/-! ## The two queues -/

theorem noticesBounded_notice {s : State} (h : s.noticesBounded) (n : Notice) : (s.notice n).noticesBounded := by
  unfold State.noticesBounded State.notice State.noticeRoom at *
  split
  · simp_all
  · exact h

theorem noticesBounded_of_noticesFrom {s t : State} (h : s.noticesBounded) (ht : s.noticesFrom t) : t.noticesBounded := by
  unfold State.noticesBounded
  rcases ht with ⟨hn, -⟩ | ⟨n, hn, -⟩
  · rw [hn]; exact h
  · rw [hn]; exact noticesBounded_notice h n

theorem stable_noticesBounded : Stable State.noticesBounded := by
  refine { toSteady := ?_, mem := fun h _ _ _ => h }
  constructor
  case notice => intro s h n; exact noticesBounded_notice h n
  case alert => intro s h e; exact noticesBounded_of_noticesFrom h (raiseAlert_noticesFrom s e)
  case relay => intro s h p i; exact noticesBounded_of_noticesFrom h (relayHeld_noticesFrom s p i)
  case sendFirst =>
    intro s h n rest e x
    unfold State.noticesBounded at h ⊢
    rw [e, List.length_cons] at h
    exact Nat.le_of_succ_le h
  case restart => intro s h straps changes; exact Nat.zero_le _
  all_goals intros; assumption

theorem stable_directivesBounded : Stable State.directivesBounded := by
  refine { toSteady := ?_, mem := fun h _ _ _ => h }
  constructor
  case notice => intro s h n; simpa [State.directivesBounded] using h
  case alert => intro s h e; rw [raiseAlert_frame]; exact h
  case relay => intro s h p i; rw [relayHeld_frame]; exact h
  case admits =>
    intro s h room
    unfold State.directivesBounded DirectiveQueue.held Config.directivePlaces at *
    dsimp only at *
    bv_omega
  case takes =>
    intro s h waits
    unfold State.directivesBounded DirectiveQueue.held Config.directivePlaces at *
    dsimp only at *
    bv_omega
  case retires =>
    intro s h taken
    unfold State.directivesBounded DirectiveQueue.held Config.directivePlaces at *
    dsimp only at *
    bv_omega
  case restart => 
    intro s h straps changes
    show (0 - 0 : QueuePtr).toNat ≤ 64 ∧ (0 - 0 : QueuePtr).toNat ≤ (0 - 0 : QueuePtr).toNat
    decide
  all_goals intros; assumption

/-- Settles O5: an item or an entry joins its queue only where there is room, and the pointers pass one another nowhere. -/
theorem stepKeepsTheQueuesBounded : Obligations.StepKeepsTheQueuesBounded :=
  fun _ _ ht => ⟨stable_noticesBounded.of_step ht, stable_directivesBounded.of_step ht⟩

/-! ## The alert log -/

theorem hasKey_iff (r : AlertRecord) (e : AlertEvent) :
    r.hasKey e = true ↔ r.kind = e.kind ∧ r.lane = e.lane ∧ r.slot = e.slot := by
  simp [AlertRecord.hasKey, and_assoc]

/-- No record of the log has the key of an event that the search finds none for (R153). -/
theorem findAlert_eq_none_iff (s : State) (e : AlertEvent) :
    s.findAlert e = none ↔ ∀ (k : Fin 32) r, s.alerts[k] = some r → ¬(r.kind = e.kind ∧ r.lane = e.lane ∧ r.slot = e.slot) := by
  simp only [State.findAlert, List.find?_eq_none, List.mem_finRange, forall_const, ← hasKey_iff]
  refine forall_congr' fun k => ?_
  cases s.alerts[k] <;> simp

/-- A record that replaces one of its own key, or whose key no record has, leaves the keys distinct. -/
theorem alertsDistinct_set {s t : State} (h : s.alertsDistinct) {i : Fin 32} {x : AlertRecord}
    (ht : t.alerts = s.alerts.set i (some x))
    (hk : ∀ (k : Fin 32) r, s.alerts[k] = some r → r.kind = x.kind → r.lane = x.lane → r.slot = x.slot → k = i) :
    t.alertsDistinct := by
  have read (k : Fin 32) : t.alerts[k] = if i = k then some x else s.alerts[k] := by
    simp only [ht, Fin.getElem_fin, Vector.getElem_set, Fin.ext_iff]
  intro j k r q hj hq h1 h2 h3
  rw [read] at hj hq
  split at hj <;> split at hq
  · simp_all
  · cases hj; exact absurd (hk k q hq h1.symm h2.symm h3.symm) (by simp_all [eq_comm])
  · cases hq; exact absurd (hk j r hj h1 h2 h3) (by simp_all [eq_comm])
  · exact h j k r q hj hq h1 h2 h3

/-- A record freed leaves the keys distinct. -/
theorem alertsDistinct_set_none {s t : State} (h : s.alertsDistinct) {i : Fin 32} (ht : t.alerts = s.alerts.set i none) :
    t.alertsDistinct := by
  have read (k : Fin 32) : t.alerts[k] = if i = k then none else s.alerts[k] := by
    simp only [ht, Fin.getElem_fin, Vector.getElem_set, Fin.ext_iff]
  intro j k r q hj hq
  rw [read] at hj hq
  split at hj <;> split at hq <;> simp_all
  exact h j k r q hj hq

/-- An event coalesces into the record with its key, or fills a record where none has its key (R153). -/
theorem alertsDistinct_raiseAlert {s : State} (h : s.alertsDistinct) (e : AlertEvent) : (s.raiseAlert e).alertsDistinct := by
  unfold State.raiseAlert
  split
  next i found =>
    split
    next r hr =>
      have key : r.kind = e.kind ∧ r.lane = e.lane ∧ r.slot = e.slot := by
        have := List.find?_some found
        simpa [hr, hasKey_iff] using this
      obtain ⟨b, hb⟩ := relayInto_alerts s i (r.coalesce e s.tick)
      exact alertsDistinct_set h hb fun k q hq h1 h2 h3 => h k i q r hq hr h1 h2 h3
    next => exact h
  next none_found =>
    have fresh := (findAlert_eq_none_iff s e).mp none_found
    split
    next i free =>
      obtain ⟨b, hb⟩ := relayInto_alerts s i (e.record s.tick)
      exact alertsDistinct_set h hb fun k q hq h1 h2 h3 => absurd ⟨h1, h2, h3⟩ (fresh k q hq)
    next =>
      dsimp only
      split
      · exact h
      · simpa [State.alertsDistinct] using h

theorem alertsDistinct_relayHeld {s : State} (h : s.alertsDistinct) (p : AlertRecord → Bool) (i : Fin 32) :
    (s.relayHeld p i).alertsDistinct := by
  unfold State.relayHeld
  split
  next r hr =>
    split
    · exact alertsDistinct_set h rfl fun k q hq h1 h2 h3 => h k i q r hq hr h1 h2 h3
    · exact h
  next => exact h

theorem stable_alertsDistinct : Stable State.alertsDistinct := by
  refine { toSteady := ?_, mem := fun h _ _ _ => h }
  constructor
  case notice => intro s h n; simpa [State.alertsDistinct] using h
  case alert => intro s h e; exact alertsDistinct_raiseAlert h e
  case relay => intro s h p i; exact alertsDistinct_relayHeld h p i
  case ackOne => intro s h i; exact alertsDistinct_set_none h rfl
  case ackAll => intro s h i j r q hr; simp at hr
  case restart => intro s h straps changes i j r q hr; simp [State.restart, State.startUp] at hr
  all_goals intros; assumption

/-! ## The tiers -/

/-- Where the threshold of a valid tier is given to a tier that it does not conflict with, the order of R127 holds. -/
theorem tiersOrdered_tierStored {s : State} (h : s.tiersOrdered) (k : Fin 4) (valid : Bool) (threshold percentage : Word32)
    (free : (if k = 0 || !valid then none else s.tierConflict k threshold.toNat) = none) :
    ({ s with tiers := s.tiers.set k (tierStored k valid threshold.toNat percentage.toNat) } : State).tiersOrdered := by
  obtain ⟨valid0, threshold0, rising, percentages⟩ := h
  have clamped : 50 ≤ clamp 50 200 percentage.toNat ∧ clamp 50 200 percentage.toNat ≤ 200 := by
    rw [clamp_eq_max_min (by decide)]; omega
  have read (i : Fin 4) : (s.tiers.set k (tierStored k valid threshold.toNat percentage.toNat))[i] =
      if k = i then tierStored k valid threshold.toNat percentage.toNat else s.tiers[i] := by
    simp only [Fin.getElem_fin, Vector.getElem_set, Fin.ext_iff]
  have read0 := read 0
  rcases Decidable.eq_or_ne k 0 with rfl | hk
  case inl =>
    have stored : tierStored 0 valid threshold.toNat percentage.toNat = ⟨0, clamp 50 200 percentage.toNat, true⟩ := if_pos rfl
    refine ⟨?_, ?_, fun i j hij hi hj => ?_, fun i => ?_⟩
    · exact (congrArg Tier.valid (read0.trans (if_pos rfl))).trans (by rw [stored])
    · exact (congrArg Tier.threshold (read0.trans (if_pos rfl))).trans (by rw [stored])
    · dsimp only at hi hj ⊢
      rw [read] at hi hj ⊢
      rw [read]
      have hj0 : ¬(0 : Fin 4) = j := fun e => by rw [← e] at hij; exact absurd hij (by simp)
      rw [if_neg hj0] at hj ⊢
      split at hi
      · subst_vars
        rw [if_pos rfl, stored]
        exact threshold0 ▸ rising 0 j hij valid0 hj
      · rw [if_neg (by assumption)]
        exact rising i j hij hi hj
    · dsimp only
      rw [read]
      split
      · rw [stored]; exact clamped
      · exact percentages i
  case inr =>
    have stored : tierStored k valid threshold.toNat percentage.toNat =
        ⟨threshold.toNat, clamp 50 200 percentage.toNat, valid⟩ := if_neg hk
    have apart (hv : valid = true) : ∀ j, ¬s.tierConflicts k threshold.toNat j = true :=
      tierConflict_eq_none_iff.mp (by simpa [hk, hv] using free)
    refine ⟨?_, ?_, fun i j hij hi hj => ?_, fun i => ?_⟩
    · exact (congrArg Tier.valid (read0.trans (if_neg hk))).trans valid0
    · exact (congrArg Tier.threshold (read0.trans (if_neg hk))).trans threshold0
    · dsimp only at hi hj ⊢
      rw [read] at hi hj ⊢
      rw [read]
      by_cases hki : k = i
      · subst hki
        have hkj : ¬k = j := by omega
        simp only [if_pos, if_neg hkj, stored] at hi hj ⊢
        have := apart hi j
        rw [tierConflicts_iff] at this
        simp_all
      · by_cases hkj : k = j
        · subst hkj
          simp only [if_pos, if_neg hki, stored] at hi hj ⊢
          have := apart hj i
          rw [tierConflicts_iff] at this
          simp_all
        · rw [if_neg hki] at hi ⊢
          rw [if_neg hkj] at hj ⊢
          exact rising i j hij hi hj
    · dsimp only
      rw [read]
      split
      · rw [stored]; exact clamped
      · exact percentages i

theorem tiersOrdered_startUp (straps : Byte) (changes : List Byte) (carriers : Vector Bool 16) (mem : List Host.Cell)
    (sent : List Sent) (pending : List Instr) : (State.startUp straps changes carriers mem sent pending).tiersOrdered := by
  show tiersAfterReset[0].valid = true ∧ tiersAfterReset[0].threshold = 0 ∧ (∀ i j : Fin 4, i < j → tiersAfterReset[i].valid →
    tiersAfterReset[j].valid → tiersAfterReset[i].threshold < tiersAfterReset[j].threshold) ∧
      ∀ i : Fin 4, 50 ≤ tiersAfterReset[i].percentage ∧ tiersAfterReset[i].percentage ≤ 200
  decide

theorem stable_tiersOrdered : Stable State.tiersOrdered := by
  refine { toSteady := ?_, mem := fun h _ _ _ => h }
  constructor
  case notice => intro s h n; simpa [State.tiersOrdered] using h
  case alert => intro s h e; rw [raiseAlert_frame]; exact h
  case relay => intro s h p i; rw [relayHeld_frame]; exact h
  case tiers => intro s h k v threshold percentage free; exact tiersOrdered_tierStored h k v threshold percentage free
  case restart => intro s h straps changes; exact tiersOrdered_startUp ..
  all_goals intros; assumption

/-- Settles O6: an event coalesces into the record with its key, and a valid tier takes a threshold only where no other conflicts. -/
theorem stepKeepsAlertKeysAndTierOrder : Obligations.StepKeepsAlertKeysAndTierOrder :=
  fun _ _ ht => ⟨stable_alertsDistinct.of_step ht, stable_tiersOrdered.of_step ht⟩

end Sys2Proof.Machine
end

section
/-! PROOF. The arithmetic of the meter unit: the divider, the estimate, the charge and the residue (R133 to R136), the tier and the price of a
sheet (R127 to R131), and the ranges of the account figures that follow from them (Table 8.1). -/

namespace Sys2Proof.Machine

/-! ## The divider (R135) -/

/-- Every step keeps the quotient and the remainder of the bits brought down so far. -/
theorem divideSteps_eq (n x : Nat) (hx : x < 2 ^ n) : divideSteps n x = (x / 100000, x % 100000) := by
  induction n generalizing x with
  | zero =>
    have hx0 : x = 0 := by simpa using hx
    subst hx0
    rfl
  | succ n ih =>
    have half := ih (x / 2) (by rw [pow_succ] at hx; omega)
    unfold divideSteps divideStep
    rw [half]
    dsimp only [Config.chargeDivisor]
    split <;> ext <;> dsimp only <;> omega

theorem divide_eq (x : Nat) : divide x = (x % 2 ^ 36 / 100000, x % 2 ^ 36 % 100000) :=
  divideSteps_eq 36 _ (Nat.mod_lt _ (by decide))

theorem divide_of_lt {x : Nat} (hx : x < 2 ^ 36) : divide x = (x / 100000, x % 100000) := by
  rw [divide_eq, Nat.mod_eq_of_lt hx]

theorem divide_remainder_lt (x : Nat) : (divide x).2 < 100000 := by
  rw [divide_eq]
  exact Nat.mod_lt _ (by decide)

/-! ## The estimate, the charge and the residue (R133, R134) -/

theorem estimateOf_eq {x : Nat} (hx : x ≤ 52428000000) : estimateOf x = (x + 99999) / 100000 := by
  unfold estimateOf
  rw [divide_of_lt (by omega)]
  split <;> omega

theorem chargeFor_eq {a : Account} {x : Nat} (hx : x ≤ 52428000000) (hr : a.residue < 100000) :
    a.chargeFor x = (x + a.residue) / 100000 := by
  unfold Account.chargeFor
  rw [divide_of_lt (by omega)]

theorem debit_residue {a : Account} {x estimate : Nat} (hx : x ≤ 52428000000) (hr : a.residue < 100000) :
    (a.debit x estimate).residue = (x + a.residue) % 100000 := by
  show (divide (x + a.residue)).2 = _
  rw [divide_of_lt (by omega)]

/-- Settles O10: the divider by its steps, and the rest from its exact quotients. -/
theorem chargeIsWithinOneOfTheEstimate : Obligations.ChargeIsWithinOneOfTheEstimate := by
  refine ⟨fun x hx => divide_of_lt hx, fun a x hx hr => ?_⟩
  rw [estimateOf_eq hx, chargeFor_eq hx hr]
  omega

/-- The account and the total of the charges after a confirmation of each entry (X and estimate) in turn. -/
def debitAll (q : Account × Nat) (entries : List (Nat × Nat)) : Account × Nat :=
  entries.foldl (fun q e => (q.1.debit e.1 e.2, q.2 + q.1.chargeFor e.1)) q

theorem debitAll_total (entries : List (Nat × Nat)) (hx : ∀ e ∈ entries, e.1 ≤ 52428000000) (a : Account)
    (hr : a.residue < 100000) (n : Nat) :
    (debitAll (a, n) entries).2 = n + (a.residue + (entries.map (·.1)).sum) / 100000 ∧
      (debitAll (a, n) entries).1.residue = (a.residue + (entries.map (·.1)).sum) % 100000 := by
  induction entries generalizing a n with
  | nil =>
    simp only [debitAll, List.foldl_nil, List.map_nil, List.sum_nil]
    omega
  | cons e rest ih =>
    have hex := hx e (by simp)
    have residue := debit_residue (estimate := e.2) hex hr
    obtain ⟨total, left⟩ := ih (fun f hf => hx f (by simp [hf])) (a.debit e.1 e.2) (by omega) (n + a.chargeFor e.1)
    rw [residue] at total left
    rw [chargeFor_eq hex hr] at total left
    simp only [debitAll, List.foldl_cons, List.map_cons, List.sum_cons] at total left ⊢
    rw [chargeFor_eq hex hr]
    omega

/-- Settles O11: by induction on the confirmations, the total and the residue are quotient and remainder of one exact sum. -/
theorem confirmationsLoseNoFraction : Obligations.ConfirmationsLoseNoFraction := by
  intro a entries hr hx
  have total := debitAll_total entries hx a hr 0
  rw [Nat.zero_add] at total
  exact total

/-! ## The tier and the price of a sheet (R129 to R131) -/

/-- The tier chosen is the highest-numbered valid one that the count has reached (R129). -/
theorem tierFor_spec {s : State} (h : s.tiersOrdered) (count : Nat) : ∃ i : Fin 4, s.tierFor count = s.tiers[i] ∧
    s.tiers[i].valid = true ∧ s.tiers[i].threshold ≤ count ∧
      ∀ j : Fin 4, i < j → s.tiers[j].valid = true → count < s.tiers[j].threshold := by
  obtain ⟨valid0, threshold0, -, -⟩ := h
  have above (i : Fin 4) (P : Fin 4 → Prop) (h1 : i < 1 → P 1) (h2 : i < 2 → P 2) (h3 : i < 3 → P 3) : ∀ j, i < j → P j := by
    intro j hij
    match j with
    | 0 => exact absurd hij (by simp)
    | 1 => exact h1 hij
    | 2 => exact h2 hij
    | 3 => exact h3 hij
  have unreached {t : Tier} (hn : ¬(t.valid && decide (t.threshold ≤ count)) = true) (hv : t.valid = true) : count < t.threshold := by
    simpa [hv] using hn
  unfold State.tierFor
  split
  next h3 =>
    simp only [Bool.and_eq_true, decide_eq_true_eq] at h3
    exact ⟨3, rfl, h3.1, h3.2, fun j hj => absurd hj (by omega)⟩
  next n3 =>
    split
    next h2 =>
      simp only [Bool.and_eq_true, decide_eq_true_eq] at h2
      exact ⟨2, rfl, h2.1, h2.2, above 2 _ (fun lt => absurd lt (by decide)) (fun lt => absurd lt (by decide)) fun _ => unreached n3⟩
    next n2 =>
      split
      next h1 =>
        simp only [Bool.and_eq_true, decide_eq_true_eq] at h1
        exact ⟨1, rfl, h1.1, h1.2, above 1 _ (fun lt => absurd lt (by decide)) (fun _ => unreached n2) fun _ => unreached n3⟩
      next n1 =>
        exact ⟨0, rfl, valid0, by rw [show s.tiers[(0 : Fin 4)].threshold = 0 from threshold0]; exact Nat.zero_le _,
          above 0 _ (fun _ => unreached n1) (fun _ => unreached n2) fun _ => unreached n3⟩

theorem tierFor_percentage_le {s : State} (h : s.tiersOrdered) (count : Nat) : (s.tierFor count).percentage ≤ 200 := by
  obtain ⟨i, hi, -⟩ := tierFor_spec h count
  rw [hi]
  exact (h.2.2.2 i).2

theorem sideValue_eq (r : Rate) (c : Nat) :
    sideValue r c = if c = 0 then 1000 * r.bm.toNat else 1000 * r.bc.toNat + c * r.slope.toNat := by
  unfold sideValue
  rcases Nat.eq_zero_or_pos c with rfl | hc
  · simp [Nat.mul_comm]
  · rw [if_pos hc, if_neg (by omega), Nat.mul_comm, Nat.mul_comm c]

theorem sideValue_le (r : Rate) {c : Nat} (hc : c ≤ 1000) : sideValue r c ≤ 131070000 := by
  have hbm := r.bm.isLt
  have hbc := r.bc.isLt
  have hslope : r.slope.toNat * c ≤ 65535 * 1000 := Nat.mul_le_mul (by have := r.slope.isLt; omega) hc
  unfold sideValue
  split <;> omega

theorem rateOf_of_class {s : State} {rec : SheetRecord} (cls : Fin 16) (h : rec.cls = cls) : s.rateOf rec = s.rates[cls] := by
  unfold State.rateOf
  rw [toIndex_of_eq cls h]

/-- Settles O12: the tier by the model's search from the highest number, and X by the number of sides. -/
theorem sheetIsPricedByItsSidesAndTier : Obligations.SheetIsPricedByItsSidesAndTier := by
  refine ⟨fun s count h => tierFor_spec h count, fun s rec a cls h hcls ha hb => ?_⟩
  have sideA := sideValue_le s.rates[cls] ha
  have sideB := sideValue_le s.rates[cls] hb
  have scaled : s.scaled rec a = (sideValue s.rates[cls] rec.covA + (if rec.sides = 2 then sideValue s.rates[cls] rec.covB else 0)) *
      (s.tierFor (s.account a).periodSheets).percentage := by
    unfold State.scaled sheetValue
    rw [rateOf_of_class cls hcls]
  dsimp only
  rw [scaled, ← sideValue_eq, ← sideValue_eq]
  refine ⟨fun h1 => by rw [h1]; rfl, fun h2 => by rw [if_pos h2], ?_⟩
  exact (Nat.mul_le_mul (show _ ≤ 262140000 by split <;> omega) (tierFor_percentage_le h _)).trans (by decide)

/-! ## The ranges of the account figures (Table 8.1) -/

theorem bump_le (k : Nat) : bump k ≤ Config.counterMax := Nat.min_le_right _ _

theorem raise32_le (n k : Nat) : raise32 n k ≤ Config.counterMax := Nat.min_le_right _ _

/-- Accounts stay in their ranges where one of them is replaced by one in its ranges. -/
theorem accountsInRange_modAccount {s : State} (h : s.accountsInRange) (a : AccountNo) {f : Account → Account}
    (hf : (s.account a).inRange → (f (s.account a)).inRange) : (s.modAccount a f).accountsInRange := by
  intro k
  rw [State.account_modAccount]
  split
  · exact hf (h a)
  · exact h k

theorem inRange_debit {r : Account} (h : r.inRange) (x estimate : Nat) : (r.debit x estimate).inRange := by
  obtain ⟨low, high, limit, -, -, -, lastSheets, lastCharge⟩ := h
  refine ⟨Int.le_max_right _ _, ?_, limit, divide_remainder_lt _, bump_le _, Nat.min_le_right _ _, lastSheets, lastCharge⟩
  show max (r.balance - r.chargeFor x) Config.balanceMin ≤ Config.balanceMax
  exact max_le (by omega) (by decide)

theorem clampLimit_le (limit : Word32) : clampLimit limit ≤ Config.limitMax := Nat.min_le_right _ _

theorem balanceInRange_iff (b : Int) : balanceInRange b = true ↔ Config.balanceMin ≤ b ∧ b ≤ Config.balanceMax := by
  simp [balanceInRange]

theorem inRange_afterReset : Account.afterReset.inRange := by
  unfold Account.inRange
  decide

theorem stable_accountsInRange : Stable State.accountsInRange := by
  refine { toSteady := ?_, mem := fun h _ _ _ => h }
  constructor
  case notice => intro s h n; simpa [State.accountsInRange] using h
  case alert => intro s h e; rw [raiseAlert_frame]; exact h
  case relay => intro s h p i; rw [relayHeld_frame]; exact h
  case raisePending => intro s h a e; exact accountsInRange_modAccount h a id
  case dropPending => intro s h a e; exact accountsInRange_modAccount h a id
  case debited => intro s h a x e; exact accountsInRange_modAccount h a fun hr => inRange_debit hr x e
  case closed => intro s h a; exact accountsInRange_modAccount h a id
  case opened =>
    intro s h a limit b hb
    obtain ⟨low, high⟩ := (balanceInRange_iff b).mp hb
    exact accountsInRange_modAccount (f := fun _ => Account.opened (clampLimit limit) b) h a fun _ =>
      ⟨low, high, clampLimit_le limit, (by decide : 0 < 100000), Nat.zero_le _, Nat.zero_le _, Nat.zero_le _, Nat.zero_le _⟩
  case limit =>
    intro s h a limit
    refine accountsInRange_modAccount h a fun ⟨low, high, _, rest⟩ => ⟨low, high, clampLimit_le limit, rest⟩
  case swapped =>
    intro s h a b hb
    obtain ⟨low, high⟩ := (balanceInRange_iff b).mp hb
    refine accountsInRange_modAccount h a fun ⟨_, _, rest⟩ => ⟨low, high, rest⟩
  case rolled =>
    intro s h a
    refine accountsInRange_modAccount h a fun ⟨low, high, limit, residue, sheets, charge, _, _⟩ =>
      ⟨low, high, limit, residue, Nat.zero_le _, Nat.zero_le _, sheets, charge⟩
  case restart =>
    intro s h straps changes a
    rw [show (s.restart straps changes).account a = Account.afterReset by
      simp [State.account, State.restart, State.startUp]]
    exact inRange_afterReset
  all_goals intros; assumption

/-! ## The confirm cursors on the final copy -/

theorem hasPassed_eq_false_iff (j : Job) : j.hasPassed = false ↔ (j.confirm.copy = j.copies → j.confirm.pos = 0) := by
  simp [Job.hasPassed]

theorem passedReleased_iff (s : State) : s.passedReleased ↔ ∀ i, (s.job i).hasPassed = false := by
  simp only [State.passedReleased, hasPassed_eq_false_iff]

theorem stable_passedReleased : Stable State.passedReleased := by
  refine { toSteady := ?_, mem := fun h _ _ _ => h }
  constructor
  case jobs =>
    intro s h i j hj
    rw [passedReleased_iff] at h ⊢
    intro k
    rw [State.job_setJob]
    split
    · exact Bool.eq_false_iff.mpr fun e => absurd (hj e) (by simp [h i])
    · exact h k
  case notice => intro s h n; simpa [State.passedReleased] using h
  case alert => intro s h e; rw [raiseAlert_frame]; exact h
  case relay => intro s h p i; rw [relayHeld_frame]; exact h
  case restart =>
    intro s h straps changes i
    rw [show (s.restart straps changes).job i = Job.vacant by simp [State.job, State.restart, State.startUp]]
    exact fun _ => rfl
  all_goals intros; assumption

end Sys2Proof.Machine
end

section
/-! PROOF. The step and the start-up: a step runs the front command or, with none waiting, what the engine does of its own accord; and the
values that a start-up leaves in every block, with the invariants that they meet. -/

namespace Sys2Proof.Machine

/-! ## Tables and searches -/

@[simp] theorem getElem_mapVector {α β : Type} {n : Nat} (f : α → β) (v : Vector α n) (k : Nat) (hk : k < n) :
    (mapVector f v)[k] = f v[k] := by
  simp [mapVector]

/-- The first answer of a search through numbers in ascending order is that of the lowest number that has one. -/
theorem findSome?_of_lowest {β : Type} {n : Nat} {f : Fin n → Option β} {b : β} {l : Fin n} (hl : f l = some b)
    (below : ∀ m, m < l → f m = none) {xs : List (Fin n)} (sorted : xs.Pairwise (· < ·)) (mem : l ∈ xs) :
    xs.findSome? f = some b := by
  induction xs with
  | nil => cases mem
  | cons x rest ih =>
    rcases List.mem_cons.mp mem with rfl | hr
    · rw [List.findSome?_cons, hl]
    · rw [List.findSome?_cons, below x (List.rel_of_pairwise_cons sorted hr)]
      exact ih (List.Pairwise.of_cons sorted) hr

/-! ## The step -/

/-- Settles O1: the first arm of the step. -/
theorem stepRunsTheFrontCommand : Obligations.StepRunsTheFrontCommand := fun _ _ _ => rfl

theorem stable_true : Stable fun _ => True := by
  refine { toSteady := ?_, mem := fun _ _ _ _ => trivial }
  constructor
  all_goals intros; trivial

/-- With no command waiting, a step is the command that the engine gives itself, or one millisecond. -/
theorem step_of_idle {s : State} (h : s.pending = []) :
    step s = s.autonomous.elim (.next s.tickOne) fun c => exec c s := by
  unfold step
  rw [h]
  cases s.autonomous with
  | some _ => rfl
  | none => rfl

theorem dueExpiry_eq (r : Lane) (l : LaneNo) : r.dueExpiry l =
    if r.hail = some 0 ∧ r.state = .training then some (.hailTimerExpiry l)
    else if r.silence = some 0 then some (.silenceTimerExpiry l)
    else if r.answer = some 0 ∧ r.abort = true then some (.abortTimeout l)
    else if r.answer = some 0 ∧ r.offer ≠ none then some (.answerTimeout l)
    else if r.reoffer = some 0 then some (.reofferTimerExpiry l)
    else if r.escalation = some 0 ∧ r.state = .jammed then some (.escalationTimerExpiry l)
    else none := by
  simp only [Lane.dueExpiry, Bool.and_eq_true, decide_eq_true_eq, Option.isSome_iff_ne_none]

section
variable {s : State}

theorem autonomous_of_low (h : s.resetLow = true) : s.autonomous = none := by
  unfold State.autonomous
  rw [if_pos h]

theorem autonomous_of_waiting (h : s.resetLow = false) (hw : s.queue.resetTaken = false ∧ s.queue.take ≠ s.queue.tail) :
    s.autonomous = some (commandOf (s.entry s.queue.take).directive) := by
  unfold State.autonomous
  rw [if_neg (by simp [h]), if_pos (by simp [hw])]

theorem not_waiting_iff : (!s.queue.resetTaken && s.queue.take != s.queue.tail) = false ↔
    ¬(s.queue.resetTaken = false ∧ s.queue.take ≠ s.queue.tail) := by
  simp

theorem autonomous_of_notice (h : s.resetLow = false) (hw : ¬(s.queue.resetTaken = false ∧ s.queue.take ≠ s.queue.tail))
    (hn : s.notices ≠ []) : s.autonomous = some .noticeSend := by
  unfold State.autonomous
  rw [if_neg (by simp [h]), if_neg (by rw [not_waiting_iff.mpr hw]; simp), if_pos (by simp [hn])]

theorem autonomous_of_quiet (h : s.resetLow = false) (hw : ¬(s.queue.resetTaken = false ∧ s.queue.take ≠ s.queue.tail))
    (hn : s.notices = []) : s.autonomous = (List.finRange 16).findSome? fun l => (s.lane l).dueExpiry l := by
  unfold State.autonomous
  rw [if_neg (by simp [h]), if_neg (by rw [not_waiting_iff.mpr hw]; simp), if_neg (by simp [hn])]

end

@[simp] theorem lane_tickOne (s : State) (h : s.resetLow = false) (l : LaneNo) : s.tickOne.lane l = (s.lane l).tick := by
  unfold State.tickOne
  rw [if_neg (by simp [h])]
  simp [State.lane]

/-- Settles O2: no command has a stop, and an idle step follows the model's search in its order. -/
theorem stepsNeverStopAndIdleStepsRunTheEngine : Obligations.StepsNeverStopAndIdleStepsRunTheEngine := by
  refine ⟨fun c s => ?_, fun s => ?_, fun s hp => ⟨fun low => ?low, fun high => ⟨fun hw => ?waits, fun hw hn => ?notice,
    fun hw hn => ⟨fun l c hl below => ?timer, fun nothing => ?tick⟩⟩⟩⟩
  · obtain ⟨t, ht, -⟩ := stable_true.exec (s := s) trivial c
    exact ⟨t, ht⟩
  · obtain ⟨t, ht, -⟩ := stable_true.step (s := s) trivial
    exact ⟨t, ht⟩
  case low =>
    rw [step_of_idle hp, autonomous_of_low low, Option.elim_none]
    unfold State.tickOne
    rw [if_pos low]
  case waits => rw [step_of_idle hp, autonomous_of_waiting high hw, Option.elim_some]
  case notice => rw [step_of_idle hp, autonomous_of_notice high hw hn, Option.elim_some]
  case timer =>
    dsimp only at hl below
    simp only [← dueExpiry_eq] at hl below
    rw [step_of_idle hp, autonomous_of_quiet high hw hn, findSome?_of_lowest (f := fun m => (s.lane m).dueExpiry m) hl below
      (List.pairwise_lt_finRange 16) (List.mem_finRange l), Option.elim_some]
  case tick =>
    dsimp only at nothing
    simp only [← dueExpiry_eq] at nothing
    have none_due : ((List.finRange 16).findSome? fun l => (s.lane l).dueExpiry l) = none :=
      List.findSome?_eq_none_iff.mpr fun l _ => nothing l
    rw [step_of_idle hp, autonomous_of_quiet high hw hn, none_due, Option.elim_none]
    refine ⟨_, rfl, ?_, fun l => lane_tickOne s high l⟩
    unfold State.tickOne
    rw [if_neg (by simp [high])]

/-! ## What a start-up leaves -/

section
variable (straps : Byte) (changes : List Byte) (carriers : Vector Bool 16) (mem : List Host.Cell) (sent : List Sent)
  (pending : List Instr)

@[simp] theorem startUp_job (i : Slot) : (State.startUp straps changes carriers mem sent pending).job i = Job.vacant := by
  simp [State.job, State.startUp]

@[simp] theorem startUp_pool (p : PoolNo) : (State.startUp straps changes carriers mem sent pending).pool p = Pool.afterReset := by
  simp [State.pool, State.startUp]

@[simp] theorem startUp_account (a : AccountNo) :
    (State.startUp straps changes carriers mem sent pending).account a = Account.afterReset := by
  simp [State.account, State.startUp]

@[simp] theorem startUp_lane (l : LaneNo) :
    (State.startUp straps changes carriers mem sent pending).lane l = Lane.afterReset carriers[l] := by
  simp [State.lane, State.startUp]

@[simp] theorem startUp_entry (q : QueuePtr) :
    (State.startUp straps changes carriers mem sent pending).entry q = QueueEntry.afterReset := by
  simp [State.entry, State.startUp, DirectiveQueue.afterReset]

theorem startUp_regionOf (b : Nat) : (State.startUp straps changes carriers mem sent pending).regionOf b = none := by
  unfold State.regionOf
  rw [List.find?_eq_none]
  intro p _
  rw [startUp_pool]
  unfold inExtents Pool.afterReset
  simp only [Bool.and_eq_true, decide_eq_true_eq, not_and]
  omega

/-- Of the FREE records that a start-up leaves, no sum over live jobs counts one. -/
theorem startUp_jobs_filter (f : Job → Bool) (hf : f Job.vacant = false) :
    (State.startUp straps changes carriers mem sent pending).jobs.toList.filter f = [] := by
  rw [List.filter_eq_nil_iff]
  intro j hj
  rw [show (State.startUp straps changes carriers mem sent pending).jobs = Vector.replicate 256 Job.vacant from rfl,
    Vector.toList_replicate] at hj
  rw [List.eq_of_mem_replicate hj, hf]
  exact Bool.false_ne_true

theorem startUp_countersInRange : (State.startUp straps changes carriers mem sent pending).countersInRange := by
  refine ⟨Nat.zero_le _, Nat.zero_le _, Nat.zero_le _, Nat.zero_le _, Nat.zero_le _, Nat.zero_le _, Nat.zero_le _,
    fun i => ?_, fun l => ?_⟩
  · rw [startUp_job]
    exact ⟨Nat.zero_le _, Nat.zero_le _, Nat.zero_le _, Nat.zero_le _⟩
  · rw [startUp_lane]
    exact ⟨Nat.zero_le _, Nat.zero_le _, Nat.zero_le _, Nat.zero_le _, Nat.zero_le _, Nat.zero_le _, Nat.zero_le _⟩

theorem startUp_lanesMatchJobs : (State.startUp straps changes carriers mem sent pending).lanesMatchJobs where
  pairs l i := by simp [Lane.afterReset, Job.vacant]
  bound i := by simp [Job.vacant]
  working l := by simp [Lane.afterReset]
  serving l := by rw [startUp_lane]; cases carriers[l] <;> simp [Lane.afterReset]
  empty l := by simp [Lane.afterReset]
  depth l := by simp [Lane.afterReset]
  holding i := by simp [Job.vacant]
  aborting l := by simp [Lane.afterReset]
  reasons i := by simp [Job.vacant]
  queued p c := by simp [Pool.afterReset, Job.vacant]
  ready p := by
    rw [startUp_pool]
    refine ⟨List.nodup_nil, fun l => ?_⟩
    rw [startUp_lane]
    cases carriers[l] <;> simp [Pool.afterReset, Lane.afterReset]
  opened i := by simp [Job.vacant]
  own l i := by simp [Lane.afterReset]
  pending a := by simp [Lane.afterReset, Account.afterReset, Lane.heldOf]

theorem startUp_blocksApart : (State.startUp straps changes carriers mem sent pending).blocksApart where
  once := by
    rw [show (State.startUp straps changes carriers mem sent pending).sharedFree = List.range 65536 by
      simp only [State.startUp, Config.blocks]]
    rw [List.flatMap_eq_nil_iff.mpr fun p _ => by rw [startUp_pool]; rfl,
      List.flatMap_eq_nil_iff.mpr fun i _ => by rw [startUp_job]; rfl, List.append_nil, List.append_nil]
  shared b _ := startUp_regionOf straps changes carriers mem sent pending b
  pools p b hb := by simp [Pool.afterReset] at hb
  chains i b hb := by simp [Job.vacant] at hb
  extents p hp := by simp [Pool.afterReset, Pool.reserved] at hp
  distinct p q _ hp := by simp [Pool.afterReset, Pool.reserved] at hp
  vacant i _ := by simp [Job.vacant]

theorem startUp_creditBacked : (State.startUp straps changes carriers mem sent pending).creditBacked where
  granted i := by simp [Job.vacant]
  closed i := by simp [Job.vacant]
  stored i := by simp [Job.vacant]
  chain i := by simp [Job.vacant]
  pools p := by simp [State.promiseTotal, startUp_jobs_filter, Job.vacant]
  shared := by simp [State.sharedTotal, startUp_jobs_filter, Job.vacant]
  waiting := ⟨List.nodup_nil, fun i => by
    rw [show (State.startUp straps changes carriers mem sent pending).waitList = [] from rfl]
    simp [State.due, Job.vacant]⟩

end

/-- Settles O3: the values of `State.startUp`, and the invariants that they meet. -/
theorem resetLeavesEveryBlockAsItsChapterSays : Obligations.ResetLeavesEveryBlockAsItsChapterSays := by
  have carriers (l : LaneNo) : (Vector.replicate 16 true)[l] = true := by simp
  refine ⟨fun l => ?_, fun _ _ _ _ _ _ l => startUp_lane .., fun i => ?_, fun k => ?_, rfl, rfl, rfl, rfl, rfl, rfl, rfl, by
      simp only [State.reset, State.startUp, Config.blocks], rfl,
    fun p => ?_, fun c => ?_, rfl, fun a => startUp_account .., fun r => ?_, rfl, rfl, rfl, rfl, rfl, rfl, rfl, rfl, rfl, fun q => ?_,
    rfl, rfl, Nat.zero_le _, fun i j r q hr => ?_, tiersOrdered_startUp .., fun a => ?_, startUp_countersInRange .., ?_, fun i => ?_,
    startUp_lanesMatchJobs .., startUp_blocksApart .., startUp_creditBacked ..⟩
  · unfold State.reset
    rw [startUp_lane, carriers]
    rfl
  · unfold State.reset
    rw [startUp_job]
    rfl
  · simp [State.reset, State.startUp]
  · unfold State.reset
    rw [startUp_pool]
    exact ⟨rfl, rfl, rfl, rfl, rfl⟩
  · simp [State.reset, State.startUp, Rate.afterReset]
  · simp [State.reset, State.startUp]
  · unfold State.reset
    rw [startUp_entry]
    rfl
  · simp [State.reset, State.startUp] at hr
  · unfold State.reset
    rw [startUp_account]
    exact inRange_afterReset
  · show (0 - 0 : QueuePtr).toNat ≤ 64 ∧ (0 - 0 : QueuePtr).toNat ≤ (0 - 0 : QueuePtr).toNat
    decide
  · unfold State.reset
    rw [startUp_job]
    exact fun _ => rfl

end Sys2Proof.Machine
end

section
/-! PROOF. RATE-SET, ACCOUNT-OPEN, ACCOUNT-LIMIT and ACCOUNT-SWAP (R126, R139, R141, R142): the event of each outcome. -/

namespace Sys2Proof.Machine

/-! ## RATE-SET -/

section
variable {s : State} {cls : Byte} {valid : Bool} {bm bc : Word16} {slope : Word32}

/-- A class above 15 or a slope above 65535 is out of range (R126). -/
theorem exec_rateSet_of_out_of_range (h : s.takeable (.rateSet cls valid bm bc slope) = true)
    (hr : 15 < cls.toNat ∨ 65535 < slope.toNat) :
    ∃ t, exec (.rateSet cls valid bm bc slope) s = .next t ∧ Concludes (s.taken false) t [⟨s.queue.take, .range, 0, 0⟩] := by
  show ∃ t, execRateSet cls valid bm bc slope s = .next t ∧ _
  unfold execRateSet
  refine takeDirective_reports h ?_
  rcases Nat.lt_or_ge cls.toNat 16 with hlt | hge
  · rw [toIndex_of_lt hlt]
    exact if_pos (by omega)
  · rw [toIndex_of_ge hge]
    rfl

theorem rate_report (r : Rate) : r.report = (.done, r.bm ++ r.bc, r.slope ++ BitVec.ofNat 16 r.valid.toNat) := by
  simp [Rate.report, pack16_eq_append]

/-- In range, the entry of the class takes the operands and the previous one is reported (R126). -/
theorem exec_rateSet_of_in_range (h : s.takeable (.rateSet cls valid bm bc slope) = true) (i : Fin 16) (hi : cls.toNat = i)
    (hs : slope.toNat ≤ 65535) :
    ∃ t, exec (.rateSet cls valid bm bc slope) s = .next t ∧
      Concludes { s.taken false with rates := s.rates.set i ⟨bm, bc, slope.setWidth 16, valid⟩ } t
        [⟨s.queue.take, .done, s.rates[i].bm ++ s.rates[i].bc, s.rates[i].slope ++ BitVec.ofNat 16 s.rates[i].valid.toNat⟩] := by
  show ∃ t, execRateSet cls valid bm bc slope s = .next t ∧ _
  unfold execRateSet
  refine takeDirective_changes h _ ?_ rfl (taken_todo s false)
  rw [toIndex_of_eq i hi]
  dsimp only
  rw [if_neg (by omega), taken_rates, rate_report]

end

/-- Settles O13: by the two tests of the range. -/
theorem rateSetReplacesTheWholeEntry : Obligations.RateSetReplacesTheWholeEntry := fun _ _ _ _ _ _ h =>
  ⟨exec_rateSet_of_out_of_range h, exec_rateSet_of_in_range h⟩

/-! ## Wide operands (R166) -/

/-- The high part of operand 2 is that of the pending-extension register, and 0 where that is empty. -/
theorem high2_of_ext {s : State} {high1 high2 : Word32} (h : s.queue.ext = some (high1, high2) ∨ s.queue.ext = none ∧ high2 = 0) :
    s.high2 = high2 := by
  unfold State.high2
  rcases h with h | ⟨h, rfl⟩ <;> rw [h] <;> rfl

/-- The high part of operand 1 is that of the pending-extension register, and 0 where that is empty. -/
theorem high1_of_ext {s : State} {high1 high2 : Word32} (h : s.queue.ext = some (high1, high2) ∨ s.queue.ext = none ∧ high1 = 0) :
    s.high1 = high1 := by
  unfold State.high1
  rcases h with h | ⟨h, rfl⟩ <;> rw [h] <;> rfl

/-! ## ACCOUNT-OPEN -/

section
variable {s : State} {account limit balance : Word32}

/-- An account above 1023, or a balance outside 40 bits, is out of range (R139). -/
theorem exec_accountOpen_of_out_of_range (h : s.takeable (.accountOpen account limit balance) = true)
    (hr : 1023 < account.toNat ∨ balanceInRange (wideOperand s.high2 balance) = false) :
    ∃ t, exec (.accountOpen account limit balance) s = .next t ∧ Concludes (s.taken true) t [⟨s.queue.take, .range, 0, 0⟩] := by
  show ∃ t, execAccountOpen account limit balance s = .next t ∧ _
  unfold execAccountOpen
  refine takeDirective_reports h ?_
  rcases Nat.lt_or_ge account.toNat 1024 with hlt | hge
  · rw [toIndex_of_lt hlt]
    exact if_pos (by simpa using hr.resolve_left (by omega))
  · rw [toIndex_of_ge hge]
    rfl

variable {a : AccountNo}

/-- An OPEN account cannot be opened (R139). -/
theorem exec_accountOpen_of_open (h : s.takeable (.accountOpen account limit balance) = true) (hi : account.toNat = a)
    (hb : balanceInRange (wideOperand s.high2 balance) = true) (ho : (s.account a).isOpen = true) :
    ∃ t, exec (.accountOpen account limit balance) s = .next t ∧ Concludes (s.taken true) t [⟨s.queue.take, .state, 0, 0⟩] := by
  show ∃ t, execAccountOpen account limit balance s = .next t ∧ _
  unfold execAccountOpen
  refine takeDirective_reports h ?_
  rw [toIndex_of_eq a hi]
  dsimp only
  rw [hb, taken_account, ho]
  rfl

/-- A CLOSED account becomes OPEN with the balance, the clamped limit and zeros (R139). -/
theorem exec_accountOpen_of_closed (h : s.takeable (.accountOpen account limit balance) = true) (hi : account.toNat = a)
    (hb : balanceInRange (wideOperand s.high2 balance) = true) (hc : (s.account a).isOpen = false) :
    ∃ t, exec (.accountOpen account limit balance) s = .next t ∧
      Concludes
        { s.taken true with
            accounts := s.accounts.set a (Account.opened (clampLimit limit) (wideOperand s.high2 balance)) } t
        [⟨s.queue.take, .done, val32 (clampLimit limit), 0⟩] := by
  show ∃ t, execAccountOpen account limit balance s = .next t ∧ _
  unfold execAccountOpen
  refine takeDirective_changes h _ ?_ rfl (taken_todo s true)
  rw [toIndex_of_eq a hi]
  dsimp only
  rw [State.setAccount, hb, taken_account, hc, taken_accounts]
  rfl

end

/-- Settles O15: by the range of the number and of the wide balance, then by the account's state. -/
theorem accountOpenTakesAWideBalance : Obligations.AccountOpenTakesAWideBalance := by
  intro s account limit balance high1 high2 h hext
  have wide : wideOperand s.high2 balance = (high2 ++ balance).toInt := by rw [high2_of_ext hext]; rfl
  refine ⟨fun ha => exec_accountOpen_of_out_of_range h (.inl ha),
    fun hb => exec_accountOpen_of_out_of_range h (.inr ?out), fun a hi low high => ⟨fun ho => ?already, fun hc => ?shut⟩⟩
  case out =>
    rw [wide, Bool.eq_false_iff, ne_eq, balanceInRange_iff]
    exact fun ⟨low, high⟩ => hb.elim (Int.not_lt.mpr low) (Int.not_lt.mpr high)
  case already => exact exec_accountOpen_of_open h hi (wide ▸ (balanceInRange_iff _).mpr ⟨low, high⟩) ho
  case shut =>
    have opens := exec_accountOpen_of_closed h hi (wide ▸ (balanceInRange_iff _).mpr ⟨low, high⟩) hc
    rw [wide] at opens
    exact opens

/-! ## Funds rises that lift no hold (R148) -/

theorem fundsHeld_eq_false {j : Job} {a : AccountNo} (h : j.account = a → j.reasons.funds = false) : j.fundsHeld a = false := by
  unfold Job.fundsHeld
  by_cases ha : j.account = a
  · simp [h ha]
  · simp [ha]

/-- A directive that changes an account, where its headroom does not rise or no job of the account holds FUNDS, does nothing else. -/
theorem takeDirective_changes_account {c : Instr} {w : Bool} {s : State} {f : QueuePtr → State → State} (h : s.takeable c = true)
    {a : AccountNo} {g : Account → Account} {r : Result} {v1 v2 : Word32}
    (hf : f s.queue.take (s.taken w) =
      (((s.taken w).modAccount a g).noteHeadroom a (s.account a).headroom).answer s.queue.take (r, v1, v2))
    (hr : (g (s.account a)).headroom ≤ (s.account a).headroom ∨ ∀ i, (s.job i).account = a → (s.job i).reasons.funds = false) :
    ∃ t, takeDirective c w s f = .next t ∧
      Concludes { s.taken w with accounts := s.accounts.set a (g (s.account a)) } t [⟨s.queue.take, r, v1, v2⟩] := by
  obtain ⟨pools, done, reset, risen⟩ := noteHeadroom_todo ((s.taken w).modAccount a g) a (s.account a).headroom
  have frame := noteHeadroom_frame ((s.taken w).modAccount a g) a (s.account a).headroom
  rw [State.modAccount_todo, taken_todo] at pools done reset risen
  have job (i : Slot) : (((s.taken w).modAccount a g).noteHeadroom a (s.account a).headroom).job i = s.job i := by
    rw [frame]
    exact (State.job_modAccount (s.taken w) a g i).trans (taken_job s w i)
  refine takeDirective_ends h _ _ hf ?_ ?_ done (fun x hx i => ?_) reset (by rw [pools]; intro p hp; cases hp)
  · rw [frame, State.modAccount, State.setAccount, taken_accounts, taken_account]
  · rw [frame]
    rfl
  · rcases risen x hx with hx | ⟨rfl, higher⟩
    · cases hx
    · rw [job]
      rw [State.account_modAccount_self, taken_account] at higher
      exact fundsHeld_eq_false (hr.resolve_left (by omega) i)

/-! ## ACCOUNT-LIMIT -/

section
variable {s : State} {account limit : Word32} {a : AccountNo}

/-- An account above 1023 is out of range (R141). -/
theorem exec_accountLimit_of_account_gt (h : s.takeable (.accountLimit account limit) = true) (ha : 1023 < account.toNat) :
    ∃ t, exec (.accountLimit account limit) s = .next t ∧ Concludes (s.taken false) t [⟨s.queue.take, .range, 0, 0⟩] := by
  show ∃ t, execAccountLimit account limit s = .next t ∧ _
  unfold execAccountLimit
  refine takeDirective_reports h ?_
  rw [toIndex_of_ge (n := 1024) ha]
  rfl

/-- A CLOSED account keeps its limit (R141). -/
theorem exec_accountLimit_of_closed (h : s.takeable (.accountLimit account limit) = true) (hi : account.toNat = a)
    (hc : (s.account a).isOpen = false) :
    ∃ t, exec (.accountLimit account limit) s = .next t ∧ Concludes (s.taken false) t [⟨s.queue.take, .state, 0, 0⟩] := by
  show ∃ t, execAccountLimit account limit s = .next t ∧ _
  unfold execAccountLimit
  refine takeDirective_reports h ?_
  rw [toIndex_of_eq a hi]
  dsimp only
  rw [taken_account, hc]
  rfl

/-- An OPEN account takes the clamped limit; where it is not raised, or no job holds FUNDS, nothing follows (R141, R148). -/
theorem exec_accountLimit_of_open (h : s.takeable (.accountLimit account limit) = true) (hi : account.toNat = a)
    (ho : (s.account a).isOpen = true)
    (hr : limit.toNat ≤ (s.account a).limit ∨ ∀ i, (s.job i).account = a → (s.job i).reasons.funds = false) :
    ∃ t, exec (.accountLimit account limit) s = .next t ∧
      Concludes { s.taken false with accounts := s.accounts.set a { s.account a with limit := clampLimit limit } } t
        [⟨s.queue.take, .done, val32 (clampLimit limit), val32 (s.account a).limit⟩] := by
  show ∃ t, execAccountLimit account limit s = .next t ∧ _
  unfold execAccountLimit
  refine takeDirective_changes_account (g := fun r => { r with limit := clampLimit limit }) h ?_ (hr.imp_left fun low => ?_)
  · rw [toIndex_of_eq a hi]
    dsimp only
    rw [taken_account, ho]
    rfl
  · have clamped : clampLimit limit ≤ limit.toNat := Nat.min_le_left _ _
    unfold Account.headroom
    dsimp only
    omega

end

/-- Settles O17: by the number, then by the account's state. -/
theorem accountLimitReplacesTheLimit : Obligations.AccountLimitReplacesTheLimit := fun _ _ _ h =>
  ⟨exec_accountLimit_of_account_gt h, fun _ hi => ⟨exec_accountLimit_of_closed h hi, exec_accountLimit_of_open h hi⟩⟩

/-! ## ACCOUNT-SWAP -/

section
variable {s : State} {account expected new : Word32} {a : AccountNo}

/-- An account above 1023, or a figure outside 40 bits, is out of range (R142). -/
theorem exec_accountSwap_of_out_of_range (h : s.takeable (.accountSwap account expected new) = true)
    (hr : 1023 < account.toNat ∨
      (balanceInRange (wideOperand s.high1 expected) && balanceInRange (wideOperand s.high2 new)) = false) :
    ∃ t, exec (.accountSwap account expected new) s = .next t ∧ Concludes (s.taken true) t [⟨s.queue.take, .range, 0, 0⟩] := by
  show ∃ t, execAccountSwap account expected new s = .next t ∧ _
  unfold execAccountSwap
  refine takeDirective_reports h ?_
  rcases Nat.lt_or_ge account.toNat 1024 with hlt | hge
  · rw [toIndex_of_lt hlt]
    exact if_pos (by rw [← Bool.not_and, hr.resolve_left (by omega)]; rfl)
  · rw [toIndex_of_ge hge]
    rfl

/-- A CLOSED account keeps its balance (R142). -/
theorem exec_accountSwap_of_closed (h : s.takeable (.accountSwap account expected new) = true) (hi : account.toNat = a)
    (hold : balanceInRange (wideOperand s.high1 expected) = true) (hnew : balanceInRange (wideOperand s.high2 new) = true)
    (hc : (s.account a).isOpen = false) :
    ∃ t, exec (.accountSwap account expected new) s = .next t ∧ Concludes (s.taken true) t [⟨s.queue.take, .state, 0, 0⟩] := by
  show ∃ t, execAccountSwap account expected new s = .next t ∧ _
  unfold execAccountSwap
  refine takeDirective_reports h ?_
  rw [toIndex_of_eq a hi]
  dsimp only
  rw [hold, hnew, taken_account, hc]
  rfl

/-- A balance other than the expected one stays, and is reported (R142). -/
theorem exec_accountSwap_of_mismatch (h : s.takeable (.accountSwap account expected new) = true) (hi : account.toNat = a)
    (hold : balanceInRange (wideOperand s.high1 expected) = true) (hnew : balanceInRange (wideOperand s.high2 new) = true)
    (ho : (s.account a).isOpen = true) (hb : (s.account a).balance ≠ wideOperand s.high1 expected) :
    ∃ t, exec (.accountSwap account expected new) s = .next t ∧
      Concludes (s.taken true) t [⟨s.queue.take, .mismatch, lowWord (s.account a).balance, highWord (s.account a).balance⟩] := by
  show ∃ t, execAccountSwap account expected new s = .next t ∧ _
  unfold execAccountSwap
  refine takeDirective_reports h ?_
  rw [toIndex_of_eq a hi]
  dsimp only
  rw [hold, hnew, taken_account, ho]
  exact if_neg hb

/-- The expected balance becomes the new one; where it is not raised, or no job holds FUNDS, nothing follows (R142, R148). -/
theorem exec_accountSwap_of_match (h : s.takeable (.accountSwap account expected new) = true) (hi : account.toNat = a)
    (hold : balanceInRange (wideOperand s.high1 expected) = true) (hnew : balanceInRange (wideOperand s.high2 new) = true)
    (ho : (s.account a).isOpen = true) (hb : (s.account a).balance = wideOperand s.high1 expected)
    (hr : wideOperand s.high2 new ≤ (s.account a).balance ∨ ∀ i, (s.job i).account = a → (s.job i).reasons.funds = false) :
    ∃ t, exec (.accountSwap account expected new) s = .next t ∧
      Concludes { s.taken true with accounts := s.accounts.set a { s.account a with balance := wideOperand s.high2 new } } t
        [⟨s.queue.take, .done, lowWord (s.account a).balance, highWord (s.account a).balance⟩] := by
  show ∃ t, execAccountSwap account expected new s = .next t ∧ _
  unfold execAccountSwap
  refine takeDirective_changes_account (g := fun r => { r with balance := wideOperand s.high2 new }) h ?_
    (hr.imp_left fun low => ?_)
  · rw [toIndex_of_eq a hi]
    dsimp only
    rw [hold, hnew, taken_account, ho]
    exact if_pos hb
  · unfold Account.headroom
    dsimp only
    omega

end

/-- Settles O18: by the range of the number and of the wide figures, then by the account's state and balance. -/
theorem accountSwapComparesAndSwaps : Obligations.AccountSwapComparesAndSwaps := by
  intro s account expected new high1 high2 h hext
  have wide1 : wideOperand s.high1 expected = (high1 ++ expected).toInt := by
    rw [high1_of_ext (hext.imp_right fun ⟨empty, zero, _⟩ => ⟨empty, zero⟩)]; rfl
  have wide2 : wideOperand s.high2 new = (high2 ++ new).toInt := by
    rw [high2_of_ext (hext.imp_right fun ⟨empty, _, zero⟩ => ⟨empty, zero⟩)]; rfl
  refine ⟨fun ha => exec_accountSwap_of_out_of_range h (.inl ha),
    fun hb => exec_accountSwap_of_out_of_range h (.inr ?out), fun a hi fits1 fits2 => ?inRange⟩
  case out =>
    rw [wide1, wide2, Bool.eq_false_iff, ne_eq, Bool.and_eq_true, balanceInRange_iff, balanceInRange_iff]
    exact hb
  case inRange =>
    have hold := wide1 ▸ (balanceInRange_iff _).mpr fits1
    have hnew := wide2 ▸ (balanceInRange_iff _).mpr fits2
    refine ⟨fun hc => exec_accountSwap_of_closed h hi hold hnew hc,
      fun ho hb => exec_accountSwap_of_mismatch h hi hold hnew ho (wide1 ▸ hb), fun ho hb hr => ?_⟩
    have swaps := exec_accountSwap_of_match h hi hold hnew ho (wide1 ▸ hb) (by rw [wide2, hb]; exact hr)
    rw [wide2] at swaps
    exact swaps

end Sys2Proof.Machine
end

section
/-! PROOF. Management frames, the taking of directives, EXTEND and the sending of notices (R160 to R163, R166, R168, R171). -/

namespace Sys2Proof.Machine

/-! ## Events that note nothing -/

theorem settled_of_todo {s : State} (h : s.todo = Todo.nothing) : s.settled = s := by
  unfold State.settled
  rw [← h]

/-- An event whose effect notes nothing ends with that effect. -/
theorem event_eq_settled {s t : State} {effect : State → State} (hs : s.resetLow = false) (h : effect s.begin = t)
    (ht : t.todo = Todo.nothing) : event s effect = .next t := by
  unfold event
  rw [if_neg (by simp [hs]), h, finish_nothing _ ht, settled_of_todo ht]

/-- A directive whose effect notes nothing, not even its own completion, ends with that effect. -/
theorem takeDirective_quiet {c : Instr} {w : Bool} {s : State} {f : QueuePtr → State → State} (h : s.takeable c = true)
    {u : State} (hf : f s.queue.take (s.taken w) = u) (hu : u.todo = Todo.nothing) : takeDirective c w s f = .next u := by
  rw [takeDirective_of_takeable h, hf, finish_nothing _ hu, settled_of_todo hu]

/-! ## Management frames -/

/-- The entries are those of the directive queue. -/
theorem State.entry_congr_queue {s t : State} (h : t.queue = s.queue) (q : QueuePtr) : t.entry q = s.entry q := by
  unfold State.entry
  rw [h]

/-- Two different numbers below 64 lead from one pointer to different ring places (R162). -/
theorem ringPlace_add_ne (p : QueuePtr) {i j : Nat} (hi : i < 64) (hj : j < 64) (h : i ≠ j) :
    ringPlace (p + BitVec.ofNat 7 i) ≠ ringPlace (p + BitVec.ofNat 7 j) := by
  simp only [ringPlace, ne_eq, Fin.mk.injEq, BitVec.toNat_add, BitVec.toNat_ofNat]
  omega

/-- `t` is `s` with directives written at the tail, the first of them at place `k` of its frame, and nothing else changed (R161). -/
structure Enqueued (size : Nat) (source : MacAddress) (s t : State) (ds : List Directive) (k : Nat) : Prop where
  frame : t = { s with queue := { s.queue with ring := t.queue.ring, tail := s.queue.tail + BitVec.ofNat 7 ds.length } }
  written : ∀ i (h : i < ds.length), t.entry (s.queue.tail + BitVec.ofNat 7 i) = ⟨ds[i], k + i, size, source, .waiting⟩
  others : ∀ q, (∀ i < ds.length, ringPlace (s.queue.tail + BitVec.ofNat 7 i) ≠ ringPlace q) → t.entry q = s.entry q

theorem entry_enqueueOne (s : State) (d : Directive) (k size : Nat) (source : MacAddress) (q : QueuePtr) :
    (s.enqueueOne d k size source).entry q =
      if ringPlace s.queue.tail = ringPlace q then ⟨d, k, size, source, .waiting⟩ else s.entry q :=
  entry_setEntry s s.queue.tail q _

theorem tail_add_succ (p : QueuePtr) (n : Nat) : p + 1 + BitVec.ofNat 7 n = p + BitVec.ofNat 7 (n + 1) := by
  apply BitVec.eq_of_toNat_eq
  simp only [BitVec.toNat_add, BitVec.toNat_ofNat, show (1 : QueuePtr).toNat = 1 from rfl]
  omega

theorem enqueued_enqueue (size : Nat) (source : MacAddress) (ds : List Directive) (s : State) (k : Nat) (h : ds.length ≤ 64) :
    Enqueued size source s (State.enqueue size source s ds k) ds k := by
  induction ds generalizing s k with
  | nil => exact ⟨by simp [State.enqueue], by simp, fun _ _ => rfl⟩
  | cons d rest ih =>
    have hr : rest.length < 64 := by simpa using h
    obtain ⟨frame, written, others⟩ := ih (s.enqueueOne d k size source) (k + 1) (by omega)
    have tail : (s.enqueueOne d k size source).queue.tail = s.queue.tail + 1 := rfl
    rw [State.enqueue]
    refine ⟨?_, fun i hi => ?_, fun q hq => ?_⟩
    · rw [frame, tail, tail_add_succ]
      rfl
    · cases i with
      | zero =>
        rw [others _ fun i hi => ?_, entry_enqueueOne, if_pos (by simp)]
        · rfl
        · rw [tail, tail_add_succ]
          exact ringPlace_add_ne _ (by omega) (by omega) (by omega)
      | succ i =>
        have := written i (by simpa using hi)
        rw [tail, tail_add_succ] at this
        rw [this, List.getElem_cons_succ, Nat.add_right_comm, Nat.add_assoc]
    · rw [others q fun i hi => ?_, entry_enqueueOne, if_neg]
      · simpa using hq 0 (by simp)
      · rw [tail, tail_add_succ]
        exact hq (i + 1) (by simpa using hi)

theorem acceptsFrame_iff (s : State) (station count : Byte) (ds : List Directive) : s.acceptsFrame station count ds = true ↔
    station = s.station ∧ 1 ≤ count.toNat ∧ count.toNat ≤ 16 ∧ ds.length = count.toNat := by
  simp [State.acceptsFrame, and_assoc]

section
variable {s : State} {source : MacAddress} {station count : Byte} {ds : List Directive}

/-- A frame that the tests of R160 drop changes nothing. -/
theorem exec_managementFrame_of_dropped (hs : s.resetLow = false) (ha : ¬s.acceptsFrame station count ds = true) :
    exec (.managementFrame source station count ds) s = .next s.settled :=
  event_eq_settled hs (if_neg ha) rfl

/-- A frame with more directives than there is room for is refused whole with QUEUE-FULL (R161). -/
theorem exec_managementFrame_of_full (hs : s.resetLow = false) (ha : s.acceptsFrame station count ds = true)
    (hr : s.queue.room < ds.length) : exec (.managementFrame source station count ds) s =
      .next (({ s with noticeAddr := source }).notice (queueFullReply ds)).settled := by
  show execManagementFrame source station count ds s = _
  refine event_eq_settled hs ((if_pos ha).trans ((if_pos hr).trans ?_)) rfl
  rw [← settled_begin_notice, settled_of_todo (by simp)]
  rfl

/-- A frame that finds room is admitted whole (R161). -/
theorem exec_managementFrame_of_room (hs : s.resetLow = false) (ha : s.acceptsFrame station count ds = true)
    (hr : ds.length ≤ s.queue.room) : exec (.managementFrame source station count ds) s =
      .next (State.enqueue ds.length source { s.begin with noticeAddr := source } ds 0) := by
  show execManagementFrame source station count ds s = _
  refine event_eq_settled hs ((if_pos ha).trans (if_neg (Nat.not_lt.mpr hr))) ?_
  rw [(enqueued_enqueue ds.length source ds { s.begin with noticeAddr := source } 0
    (by have := (acceptsFrame_iff s station count ds).mp ha; omega)).frame]
  rfl

end

/-- Settles O22: by the tests of R160, then by the room. -/
theorem managementFrameIsAdmittedWholeOrNotAtAll : Obligations.ManagementFrameIsAdmittedWholeOrNotAtAll := by
  intro s source station count ds hs
  dsimp only
  rw [← acceptsFrame_iff]
  refine ⟨exec_managementFrame_of_dropped hs, exec_managementFrame_of_full hs, fun ha hr => ?_⟩
  have few : ds.length ≤ 64 := Nat.le_trans hr (Nat.sub_le ..)
  obtain ⟨frame, written, others⟩ := enqueued_enqueue ds.length source ds { s.begin with noticeAddr := source } 0 few
  refine ⟨_, exec_managementFrame_of_room hs ha hr, ?_⟩
  generalize State.enqueue ds.length source { s.begin with noticeAddr := source } ds 0 = t at frame written others
  refine ⟨?_, ?_, ?_, ?_, ?_, ?_, fun k hk => ?_, fun q hq => ?_⟩
  case refine_7 =>
    have place := written k hk
    rw [Nat.zero_add] at place
    exact place
  case refine_8 => exact (others q hq).trans (State.entry_congr_queue rfl q)
  all_goals (rw [frame]; rfl)

/-! ## The taking of a directive -/

/-- Every directive's command is taken by `takeDirective`, so that it changes nothing where it cannot be taken (log entry 2). -/
theorem exec_commandOf_of_not_takeable {s : State} {d : Directive} (h : s.takeable (commandOf d) = false) :
    exec (commandOf d) s = .next s := by
  generalize hc : commandOf d = c at h ⊢
  unfold commandOf at hc
  split at hc
  all_goals
    subst hc
    simp only [exec, execExtend, execFence, execReset, execCountersRead, execRateSet, execTierSet, execAccountOpen,
      execAccountClose, execAccountLimit, execAccountSwap, execAccountRead, execAccountRoll, execLaneSet, execLaneRead, execPoolSet,
      execPoolReserve, execJobRead, execJobHold, execJobRelease, execJobCancel, execJobMove, execPurge, execAlertRead, execAlertAck,
      execAlertMask, execUnknownDirective]
    exact takeDirective_of_not_takeable h

/-- The completion of an EXTEND leaves all but its entry and the pending-extension register (R166). -/
theorem closeExtend_frame (s : State) (w : Bool) :
    s.closeExtend w = { s with queue := { s.queue with ring := (s.closeExtend w).queue.ring, ext := none } } := by
  unfold State.closeExtend
  cases he : s.queue.ext with
  | some _ => rfl
  | none =>
    dsimp only
    rw [← he]

theorem closeExtend_of_none {s : State} (w : Bool) (h : s.queue.ext = none) : s.closeExtend w = s := by
  unfold State.closeExtend
  rw [h]

theorem entry_closeExtend_of_some {s : State} (w : Bool) (h : s.queue.ext ≠ none) (q : QueuePtr) :
    (s.closeExtend w).entry q = if ringPlace (s.queue.take - 1) = ringPlace q
      then { s.entry (s.queue.take - 1) with cond := .complete (if w then .done else .extendDropped) 0 0 } else s.entry q := by
  obtain ⟨x, hx⟩ := Option.ne_none_iff_exists'.mp h
  rw [← entry_setCond s _ q _]
  unfold State.closeExtend
  rw [hx]
  rfl

/-- The state in which an event begins has the entries of the state before it. -/
@[simp] theorem entry_begin (s : State) (q : QueuePtr) : s.begin.entry q = s.entry q := State.entry_congr_queue rfl q

@[simp] theorem begin_queue (s : State) : s.begin.queue = s.queue := rfl

/-- Completing an EXTEND changes at most a condition: directives, places and sizes stay. -/
theorem entry_closeExtend (s : State) (w : Bool) (q : QueuePtr) :
    (s.closeExtend w).entry q = { s.entry q with cond := ((s.closeExtend w).entry q).cond } := by
  by_cases h : s.queue.ext = none
  · rw [closeExtend_of_none w h]
  · rw [entry_closeExtend_of_some w h]
    split
    · rename_i hq
      rw [entry_congr s hq]
    · rfl

/-- The entries once a directive is taken: that of the directive is pending, the others are as the EXTEND's completion leaves them. -/
theorem entry_taken (s : State) (w : Bool) (q : QueuePtr) : (s.taken w).entry q =
    if ringPlace s.queue.take = ringPlace q
    then { (s.begin.closeExtend w).entry s.queue.take with
      cond := .pending ((s.begin.closeExtend w).incompleteBefore s.queue.take) }
    else (s.begin.closeExtend w).entry q := by
  have take : (s.begin.closeExtend w).queue.take = s.queue.take := by rw [closeExtend_frame]; rfl
  unfold State.taken State.advanceTake
  rw [take]
  exact entry_setCond _ _ q _

/-- A taken directive is pending with the number of incomplete entries before it (R163, R167). -/
theorem cond_taken_self (s : State) (w : Bool) : ((s.taken w).entry s.queue.take).cond =
    .pending ((s.begin.closeExtend w).incompleteBefore s.queue.take) := by
  rw [entry_taken, if_pos rfl]

theorem entry_taken_of_ne (s : State) (w : Bool) {q : QueuePtr} (h : ringPlace q ≠ ringPlace s.queue.take)
    (he : s.queue.ext = none ∨ ringPlace q ≠ ringPlace (s.queue.take - 1)) : (s.taken w).entry q = s.entry q := by
  rw [entry_taken, if_neg (Ne.symm h)]
  by_cases hx : s.queue.ext = none
  · rw [closeExtend_of_none (s := s.begin) w hx, entry_begin]
  · rw [entry_closeExtend_of_some (s := s.begin) w hx, begin_queue, if_neg (Ne.symm (he.resolve_left hx)), entry_begin]

/-- Taking a directive changes at most conditions: directives, places and sizes stay. -/
theorem entry_taken_eq (s : State) (w : Bool) (q : QueuePtr) :
    (s.taken w).entry q = { s.entry q with cond := ((s.taken w).entry q).cond } := by
  rw [entry_taken, ← entry_begin s q]
  split
  · rename_i h
    rw [← entry_congr s.begin h, entry_closeExtend s.begin w s.queue.take]
  · exact entry_closeExtend s.begin w q

theorem directive_taken (s : State) (w : Bool) (q : QueuePtr) : ((s.taken w).entry q).directive = (s.entry q).directive := by
  rw [entry_taken_eq]

/-- The queue once a directive is taken, but for the entries: the take pointer has moved on, and no extension is pending (R163, R166). -/
theorem taken_queue (s : State) (w : Bool) :
    (s.taken w).queue = { s.queue with ring := (s.taken w).queue.ring, take := s.queue.take + 1, ext := none } := by
  unfold State.taken State.advanceTake State.setCond State.setEntry
  rw [closeExtend_frame s.begin w]
  rfl

/-- Settles O23: what `takeable` tests, that a command which cannot be taken does nothing, and what the taking itself changes. -/
theorem directivesAreTakenInQueueOrder : Obligations.DirectivesAreTakenInQueueOrder := by
  refine ⟨fun s d => ?takeable, fun s d => exec_commandOf_of_not_takeable, fun s w => ?taking, fun s code h => ?unknown⟩
  case takeable => simp [State.takeable, and_assoc]
  case taking =>
    have queue := taken_queue s w
    refine ⟨taken_frame s w, ?_, ?_, ?_, ?_, taken_going s w, directive_taken s w, ⟨_, cond_taken_self s w, fun he => ?_⟩,
      fun he => ?_, fun q hq hx => entry_taken_of_ne s w hq hx⟩
    case refine_5 => rw [closeExtend_of_none (s := s.begin) w he]; rfl
    case refine_6 =>
      rw [entry_taken, if_neg (ringPlace_pred _).symm, entry_closeExtend_of_some (s := s.begin) w he, begin_queue, if_pos rfl]
    all_goals rw [queue]
  case unknown =>
    show ∃ t, execUnknownDirective code s = .next t ∧ _
    unfold execUnknownDirective
    exact takeDirective_reports h rfl

/-! ## EXTEND -/

/-- Taking a directive leaves the places and sizes of the frames as they are. -/
theorem isLast_taken (s : State) (w : Bool) (q : QueuePtr) : ((s.taken w).entry q).isLast = (s.entry q).isLast := by
  rw [entry_taken_eq]
  rfl

theorem isLast_iff (e : QueueEntry) : e.isLast = true ↔ e.place + 1 = e.size := beq_iff_eq

/-- Settles O25: by whether the EXTEND is the last of its frame. -/
theorem extendLoadsOrIsDropped : Obligations.ExtendLoadsOrIsDropped := by
  intro s high1 high2 h
  show (_ → ∃ t, execExtend high1 high2 s = .next t ∧ _) ∧ (_ → execExtend high1 high2 s = _)
  unfold execExtend
  refine ⟨fun hl => takeDirective_reports h (if_pos ?_), fun hl => takeDirective_quiet h (if_neg ?_) (taken_todo s false)⟩
  · rwa [isLast_taken, isLast_iff]
  · rwa [isLast_taken, isLast_iff]

/-! ## The sending of notices -/

/-- Settles O29: by whether the head item is the reply of a RESET. -/
theorem noticeSendTakesTheHead : Obligations.NoticeSendTakesTheHead := by
  intro s n rest hs hn
  have head : s.begin.sendHead =
      let t := { s.begin with notices := rest, sent := s.sent ++ [Sent.upstream (noticeFrame s.noticeAddr s.station n)] }
      if n.resets then t.directiveReset else t := by
    unfold State.sendHead
    rw [show s.begin.notices = n :: rest from hn]
    rfl
  refine ⟨fun hr => event_eq_settled hs (head.trans (if_neg (by simp [hr]))) rfl, fun hr => ?_⟩
  exact event_eq_settled hs (head.trans (if_pos hr)) rfl

end Sys2Proof.Machine
end

section
/-! PROOF. Replies and retirement, FENCE and RESET (R164, R165, R167, R168). -/

namespace Sys2Proof.Machine

/-! ## The notice queue -/

section
variable {s : State}

/-- An item that finds room joins the tail of the notice queue (R170). -/
theorem notice_of_room (h : s.notices.length < 128) (n : Notice) : s.notice n = { s with notices := s.notices ++ [n] } :=
  if_pos (decide_eq_true h)

/-- At a full notice queue an item is dropped and counted (R170). -/
theorem notice_of_full (h : 128 ≤ s.notices.length) (n : Notice) : s.notice n = { s with noticeDrops := bump s.noticeDrops } :=
  if_neg (by simpa [State.noticeRoom, Config.noticePlaces] using h)

end

/-! ## Pointers -/

theorem mem_pointersFrom {p q : QueuePtr} {n : Nat} : q ∈ pointersFrom p n ↔ ∃ k < n, q = p + BitVec.ofNat 7 k := by
  induction n generalizing p with
  | zero => simp [pointersFrom]
  | succ n ih =>
    rw [pointersFrom, List.mem_cons, ih]
    constructor
    · rintro (rfl | ⟨k, hk, rfl⟩)
      · exact ⟨0, by omega, by simp⟩
      · exact ⟨k + 1, by omega, tail_add_succ p k⟩
    · rintro ⟨k, hk, rfl⟩
      cases k with
      | zero => exact .inl (by simp)
      | succ k => exact .inr ⟨k, by omega, (tail_add_succ p k).symm⟩

theorem toNat_add_sub {p : QueuePtr} {k : Nat} (h : k < 128) : (p + BitVec.ofNat 7 k - p).toNat = k := by
  simp only [BitVec.toNat_sub, BitVec.toNat_add, BitVec.toNat_ofNat]
  omega

theorem eq_add_toNat_sub (p q : QueuePtr) : q = p + BitVec.ofNat 7 (q - p).toNat := by
  apply BitVec.eq_of_toNat_eq
  simp only [BitVec.toNat_sub, BitVec.toNat_add, BitVec.toNat_ofNat]
  omega

/-! ## Frames -/

section
variable (s : State) (p q : QueuePtr)

theorem frameComplete_iff : s.frameComplete p = true ↔ ∀ x ∈ s.frameOf p, (s.entry x).cond.isComplete = true := List.all_eq_true

variable {s}

/-- Frames are read from the entries alone. -/
theorem frameOf_congr {t : State} (h : t.entry p = s.entry p) : t.frameOf p = s.frameOf p := by
  unfold State.frameOf
  rw [h]

theorem frameComplete_congr {t : State} (h : ∀ x, t.entry x = s.entry x) : t.frameComplete p = s.frameComplete p := by
  unfold State.frameComplete
  rw [frameOf_congr p (h p)]
  simp only [h]

/-- Changing a condition leaves the frames as they are. -/
theorem frameOf_setCond (c : Condition) : (s.setCond q c).frameOf p = s.frameOf p := by
  unfold State.frameOf
  rw [entry_setCond]
  split
  · rename_i h
    rw [entry_congr s h]
  · rfl

theorem cond_setCond (c : Condition) :
    ((s.setCond q c).entry p).cond = if ringPlace p = ringPlace q then c else (s.entry p).cond := by
  rw [entry_setCond]
  simp only [eq_comm (a := ringPlace p)]
  split <;> rfl

/-- A frame is complete as soon as its last incomplete entry is (R165). -/
theorem frameComplete_setCond (r : Result) (v1 v2 : Word32) : (s.setCond p (.complete r v1 v2)).frameComplete p = true ↔
    ∀ x ∈ s.frameOf p, ringPlace x ≠ ringPlace p → (s.entry x).cond.isComplete = true := by
  rw [frameComplete_iff, frameOf_setCond]
  refine forall₂_congr fun x _ => ?_
  rw [cond_setCond]
  by_cases h : ringPlace x = ringPlace p
  · simp [h, Condition.isComplete]
  · simp [h]

/-- The REPLY entry of a directive, its tag with its result and values where it is complete (R165). -/
theorem reply_setCond (r : Result) (v1 v2 : Word32) : ((s.setCond p (.complete r v1 v2)).entry q).reply =
    if ringPlace q = ringPlace p then ⟨(s.entry p).directive.tag, r, v1, v2⟩ else (s.entry q).reply := by
  rw [entry_setCond]
  simp only [eq_comm (a := ringPlace q)]
  split <;> rfl

theorem reply_tag (e : QueueEntry) : e.reply.tag = e.directive.tag := by
  unfold QueueEntry.reply
  split <;> rfl

end

/-! ## Retirement -/

/-- Retirement moves the retire pointer and changes nothing else (R165). -/
theorem retireBy_frame (n : Nat) (s : State) :
    State.retireBy n s = { s with queue := { s.queue with retire := (State.retireBy n s).queue.retire } } := by
  induction n generalizing s with
  | zero => rfl
  | succ n ih =>
    unfold State.retireBy
    split
    · conv_lhs => rw [ih]
    · rfl

@[simp] theorem entry_retireBy (n : Nat) (s : State) (q : QueuePtr) : (State.retireBy n s).entry q = s.entry q := by
  rw [retireBy_frame]
  rfl

@[simp] theorem notices_retireBy (n : Nat) (s : State) : (State.retireBy n s).notices = s.notices := by rw [retireBy_frame]

@[simp] theorem noticeDrops_retireBy (n : Nat) (s : State) : (State.retireBy n s).noticeDrops = s.noticeDrops := by
  rw [retireBy_frame]

@[simp] theorem todo_retireBy (n : Nat) (s : State) : (State.retireBy n s).todo = s.todo := by rw [retireBy_frame]

@[simp] theorem take_retireBy (n : Nat) (s : State) : (State.retireBy n s).queue.take = s.queue.take := by rw [retireBy_frame]

@[simp] theorem tail_retireBy (n : Nat) (s : State) : (State.retireBy n s).queue.tail = s.queue.tail := by rw [retireBy_frame]

theorem retireBy_of_stop {s : State} (h : s.queue.retire = s.queue.take ∨ ¬s.frameComplete s.queue.retire = true) (n : Nat) :
    State.retireBy n s = s := by
  cases n with
  | zero => rfl
  | succ n =>
    unfold State.retireBy
    rw [if_neg (by rw [Bool.and_eq_true, bne_iff_ne]; tauto)]

/-- The retire pointer stops at the take pointer or at the first entry of an incomplete frame (R165). -/
theorem retireBy_spec (n : Nat) (s : State) (h : (s.queue.take - s.queue.retire).toNat ≤ n) :
    ∃ k, (State.retireBy n s).queue.retire = s.queue.retire + BitVec.ofNat 7 k ∧
      (∀ i < k, s.queue.retire + BitVec.ofNat 7 i ≠ s.queue.take ∧ s.frameComplete (s.queue.retire + BitVec.ofNat 7 i) = true) ∧
      ((State.retireBy n s).queue.retire = s.queue.take ∨ ¬s.frameComplete (State.retireBy n s).queue.retire = true) := by
  induction n generalizing s with
  | zero =>
    have met : s.queue.retire = s.queue.take := by
      rw [eq_add_toNat_sub s.queue.retire s.queue.take, Nat.le_zero.mp h]
      simp
    exact ⟨0, by simp [State.retireBy], by simp, .inl met⟩
  | succ n ih =>
    by_cases go : s.queue.retire ≠ s.queue.take ∧ s.frameComplete s.queue.retire = true
    · have step : State.retireBy (n + 1) s = State.retireBy n { s with queue := { s.queue with retire := s.queue.retire + 1 } } := by
        rw [State.retireBy, if_pos (by simpa using go)]
      have nearer : (s.queue.take - (s.queue.retire + 1)).toNat ≤ n := by
        have apart : s.queue.retire.toNat ≠ s.queue.take.toNat := fun e => go.1 (BitVec.eq_of_toNat_eq e)
        simp only [BitVec.toNat_sub, BitVec.toNat_add, show (1 : QueuePtr).toNat = 1 from rfl] at h ⊢
        omega
      obtain ⟨k, at_k, passed, stops⟩ := ih { s with queue := { s.queue with retire := s.queue.retire + 1 } } nearer
      rw [step]
      refine ⟨k + 1, at_k.trans (tail_add_succ _ k), fun i hi => ?_, stops⟩
      cases i with
      | zero => simpa using go
      | succ i =>
        rw [← tail_add_succ]
        exact passed i (by omega)
    · rw [retireBy_of_stop (by tauto)]
      exact ⟨0, by simp, by simp, by tauto⟩

/-! ## The completion of an entry -/

section
variable {s : State} {p : QueuePtr} {r : Result} {v1 v2 : Word32}

theorem finishEntry_of_not_taken (h : s.queue.resetTaken = false) :
    s.finishEntry p r v1 v2 = (s.setCond p (.complete r v1 v2)).replyFrame p := by
  unfold State.finishEntry
  rw [completeReset_of_not_taken (s.setCond p (.complete r v1 v2)) p h]

theorem replyFrame_of_complete (h : s.queue.resetTaken = false) (hc : s.frameComplete p = true) : s.replyFrame p =
    State.retireBy 64 (s.notice (.reply ((s.frameOf p).map fun q => (s.entry q).reply) false)) := by
  unfold State.replyFrame
  rw [if_pos hc, h]
  rfl

theorem replyFrame_of_incomplete (hc : ¬s.frameComplete p = true) : s.replyFrame p = s := if_neg hc

end

/-- Settles O24: by whether the other entries of the frame are complete, and by the room in the notice queue. -/
theorem replyIsQueuedWhenTheFrameIsComplete : Obligations.ReplyIsQueuedWhenTheFrameIsComplete := by
  intro s p r v1 v2 hg
  dsimp only
  rw [finishEntry_of_not_taken hg, ← frameComplete_setCond p r v1 v2]
  have entries : ((s.setCond p (.complete r v1 v2)).frameOf p).map (fun q => ((s.setCond p (.complete r v1 v2)).entry q).reply) =
      (s.frameOf p).map fun q => if ringPlace q = ringPlace p then ⟨(s.entry p).directive.tag, r, v1, v2⟩ else (s.entry q).reply := by
    rw [frameOf_setCond]
    exact List.map_congr_left fun q _ => reply_setCond p q r v1 v2
  have replies := fun hc => replyFrame_of_complete (s := s.setCond p (.complete r v1 v2)) (p := p) hg hc
  rw [entries] at replies
  refine ⟨fun hc hn => ?room, fun hc hn => ?full, fun hc => ?incomplete, fun hc hb => ?retires⟩
  case room => rw [replies hc, notices_retireBy, notice_of_room (s := s.setCond p (.complete r v1 v2)) hn]; rfl
  case full =>
    rw [replies hc, notices_retireBy, noticeDrops_retireBy, notice_of_full (s := s.setCond p (.complete r v1 v2)) hn]
    exact ⟨rfl, rfl⟩
  case incomplete =>
    rw [replyFrame_of_incomplete hc]
    exact ⟨rfl, rfl⟩
  case retires =>
    rw [replies hc]
    generalize hu : (s.setCond p (.complete r v1 v2)).notice _ = u
    have queue : u.queue = (s.setCond p (.complete r v1 v2)).queue := by rw [← hu, State.notice_queue]
    have whole : ∀ q, (∀ x ∈ (State.retireBy 64 u).frameOf q, ((State.retireBy 64 u).entry x).cond.isComplete = true) ↔
        u.frameComplete q = true := fun q => by
      rw [← frameComplete_iff, frameComplete_congr q (entry_retireBy 64 u)]
    have take : u.queue.take = s.queue.take := by rw [queue]; rfl
    have tail : u.queue.tail = s.queue.tail := by rw [queue]; rfl
    have retire : u.queue.retire = s.queue.retire := by rw [queue]; rfl
    have few : (u.queue.take - u.queue.retire).toNat ≤ 64 := by
      rw [take, retire]
      exact Nat.le_trans hb.2 hb.1
    obtain ⟨n, at_n, passed, stops⟩ := retireBy_spec 64 u few
    rw [take, retire] at passed
    rw [retire] at at_n
    rw [take] at stops
    simp only [whole]
    exact ⟨(take_retireBy 64 u).trans take, (tail_retireBy 64 u).trans tail, n, at_n, passed, stops⟩

/-! ## Pending FENCEs -/

/-- The ring places that hold a pending FENCE (R167). -/
def State.pendingFences (s : State) : Finset (Fin 64) := Finset.univ.filter fun k => s.queue.ring[k].isPendingFence = true

theorem mem_pendingFences (s : State) (q : QueuePtr) : ringPlace q ∈ s.pendingFences ↔ (s.entry q).isPendingFence = true := by
  simp [State.pendingFences, State.entry]

theorem card_pendingFences_le (s : State) : s.pendingFences.card ≤ 64 := Finset.card_le_univ _

theorem exists_ringPlace (k : Fin 64) : ∃ q, ringPlace q = k :=
  ⟨BitVec.ofNat 7 k, by ext; simp only [ringPlace, BitVec.toNat_ofNat]; omega⟩

/-- A change that touches conditions alone, and only to complete an entry. -/
def State.completesOnly (s t : State) : Prop := ∀ q, t.entry q = { s.entry q with cond := (t.entry q).cond } ∧
  ((t.entry q).cond = (s.entry q).cond ∨ (t.entry q).cond.isComplete = true)

theorem isComplete_iff (c : Condition) : c.isComplete = true ↔ ∃ r v1 v2, c = .complete r v1 v2 := by
  cases c <;> simp [Condition.isComplete]

namespace State.completesOnly

variable {s t u : State}

theorem of_entries (h : ∀ q, t.entry q = s.entry q) : s.completesOnly t := fun q => by
  rw [h]
  exact ⟨rfl, .inl rfl⟩

theorem trans (h : s.completesOnly t) (k : t.completesOnly u) : s.completesOnly u := fun q => by
  obtain ⟨same, cond⟩ := h q
  obtain ⟨same', cond'⟩ := k q
  refine ⟨by rw [same', same], ?_⟩
  rcases cond' with cond' | cond'
  · rwa [cond']
  · exact .inr cond'

theorem setCond (s : State) (p : QueuePtr) (r : Result) (v1 v2 : Word32) : s.completesOnly (s.setCond p (.complete r v1 v2)) :=
  fun q => by
    rw [entry_setCond]
    split
    · rename_i h
      rw [entry_congr s h]
      exact ⟨rfl, .inr rfl⟩
    · exact ⟨rfl, .inl rfl⟩

/-- An entry that was complete stays complete. -/
theorem isComplete (h : s.completesOnly t) {q : QueuePtr} (hq : (s.entry q).cond.isComplete = true) :
    (t.entry q).cond.isComplete = true := by
  rcases (h q).2 with same | complete
  · rwa [same]
  · exact complete

/-- No FENCE becomes pending (R167). -/
theorem isPendingFence (h : s.completesOnly t) {q : QueuePtr} (hq : (t.entry q).isPendingFence = true) :
    (s.entry q).isPendingFence = true := by
  obtain ⟨same, cond⟩ := h q
  rcases cond with cond | cond
  · rwa [← isPendingFence_congr (by rw [same]) cond]
  · obtain ⟨r, v1, v2, hc⟩ := (isComplete_iff _).mp cond
    rw [isPendingFence_of_complete hc] at hq
    cases hq

theorem pendingFences_subset (h : s.completesOnly t) : t.pendingFences ⊆ s.pendingFences := fun k hk => by
  obtain ⟨q, rfl⟩ := exists_ringPlace k
  rw [mem_pendingFences] at hk ⊢
  exact h.isPendingFence hk

theorem completeReset (s : State) (p : QueuePtr) : s.completesOnly (s.completeReset p) := by
  unfold State.completeReset
  dsimp only
  split
  · split
    · exact setCond s _ _ _ _
    · exact of_entries fun _ => rfl
  · exact of_entries fun _ => rfl

theorem replyFrame (s : State) (p : QueuePtr) : s.completesOnly (s.replyFrame p) := by
  unfold State.replyFrame
  split
  · refine of_entries fun q => (entry_retireBy _ _ q).trans ?_
    split <;> exact State.entry_congr_queue (State.notice_queue ..) q
  · exact of_entries fun _ => rfl

end State.completesOnly

/-- In any state, a completion completes its own entry and makes no other entry incomplete (R164, R168). -/
theorem completesOnly_finishEntry (s : State) (p : QueuePtr) (r : Result) (v1 v2 : Word32) :
    s.completesOnly (s.finishEntry p r v1 v2) ∧ ((s.finishEntry p r v1 v2).entry p).cond.isComplete = true := by
  have after := (State.completesOnly.completeReset (s.setCond p (.complete r v1 v2)) p).trans (.replyFrame _ p)
  refine ⟨(State.completesOnly.setCond s p r v1 v2).trans after, after.isComplete ?_⟩
  rw [entry_setCond_self]
  rfl

@[simp] theorem entry_fenceNotice (s : State) (p q : QueuePtr) : (s.fenceNotice p).entry q = s.entry q := by
  unfold State.fenceNotice
  split
  · exact State.entry_congr_queue (State.notice_queue ..) q
  · rfl

/-- The state when a pending FENCE has completed (R167). -/
def State.afterFence (s : State) (p : QueuePtr) (k : Nat) : State := (s.fenceNotice p).finishEntry p .done (val32 k) 0

/-- The completion of a FENCE leaves fewer of them pending (R167). -/
theorem pendingFences_afterFence {s : State} {p : QueuePtr} {k : Nat} (h : s.readyFence = some (p, k)) :
    (s.afterFence p k).pendingFences.card < s.pendingFences.card := by
  obtain ⟨only, complete⟩ := completesOnly_finishEntry (s.fenceNotice p) p .done (val32 k) 0
  have subset := ((State.completesOnly.of_entries (entry_fenceNotice s p)).trans only).pendingFences_subset
  refine Finset.card_lt_card ((Finset.ssubset_iff_of_subset subset).mpr ⟨ringPlace p, ?_, ?_⟩)
  · exact (mem_pendingFences s p).mpr (readyFence_pending h)
  · rw [mem_pendingFences]
    obtain ⟨r, v1, v2, hc⟩ := (isComplete_iff _).mp complete
    exact Bool.eq_false_iff.mp (isPendingFence_of_complete hc)

theorem completeFences_of_none {s : State} (h : s.readyFence = none) (n : Nat) : State.completeFences n s = s := by
  cases n with
  | zero => rfl
  | succ n => rw [State.completeFences, h]

theorem completeFences_of_some {s : State} {p : QueuePtr} {k : Nat} (h : s.readyFence = some (p, k)) (n : Nat) :
    State.completeFences (n + 1) s = State.completeFences n (s.afterFence p k) := by
  rw [State.completeFences, h]
  rfl

theorem readyFence_of_no_pending {s : State} (h : s.pendingFences.card = 0) : s.readyFence = none := by
  rw [Option.eq_none_iff_forall_ne_some]
  rintro ⟨p, k⟩ hr
  have : ringPlace p ∈ s.pendingFences := (mem_pendingFences s p).mpr (readyFence_pending hr)
  rw [Finset.card_eq_zero.mp h] at this
  cases this

/-- As many steps as there are pending FENCEs leave none that is ready (R167). -/
theorem readyFence_completeFences (n : Nat) (s : State) (h : s.pendingFences.card ≤ n) :
    (State.completeFences n s).readyFence = none := by
  induction n generalizing s with
  | zero => exact readyFence_of_no_pending (Nat.le_zero.mp h)
  | succ n ih =>
    cases hr : s.readyFence with
    | none => rwa [completeFences_of_none hr]
    | some pk =>
      rw [completeFences_of_some hr]
      exact ih _ (Nat.le_of_lt_succ (Nat.lt_of_lt_of_le (pendingFences_afterFence hr) h))

/-- More steps than there are pending FENCEs do nothing more. -/
theorem completeFences_succ (n : Nat) (s : State) (h : s.pendingFences.card ≤ n) :
    State.completeFences (n + 1) s = State.completeFences n s := by
  cases hr : s.readyFence with
  | none => rw [completeFences_of_none hr, completeFences_of_none hr]
  | some pk =>
    induction n generalizing s pk with
    | zero => rw [readyFence_of_no_pending (Nat.le_zero.mp h)] at hr; cases hr
    | succ n ih =>
      rw [completeFences_of_some hr, completeFences_of_some hr]
      have fewer := Nat.le_of_lt_succ (Nat.lt_of_lt_of_le (pendingFences_afterFence hr) h)
      cases hn : (s.afterFence pk.1 pk.2).readyFence with
      | none => rw [completeFences_of_none hn, completeFences_of_none hn]
      | some qk => exact ih _ fewer qk hn

theorem incompleteBefore_eq_zero_iff (s : State) {k : Nat} (hk : k < 128) :
    s.incompleteBefore (s.queue.retire + BitVec.ofNat 7 k) = 0 ↔
      ∀ m < k, (s.entry (s.queue.retire + BitVec.ofNat 7 m)).cond.isComplete = true := by
  unfold State.incompleteBefore
  rw [toNat_add_sub hk, List.countP_eq_zero]
  simp only [Bool.not_eq_true', Bool.not_eq_false, mem_pointersFrom]
  exact ⟨fun h m hm => h _ ⟨m, hm, rfl⟩, fun h q ⟨m, hm, e⟩ => e ▸ h m hm⟩

/-- At most one FENCE has every earlier entry complete and is not complete itself. -/
theorem fenceReady_unique {s : State} {p q : QueuePtr} {m n : Nat} (h : s.fenceReady p m) (k : s.fenceReady q n) :
    p = q ∧ m = n := by
  obtain ⟨i, -, rfl, -, condp, completep⟩ := h
  obtain ⟨j, -, rfl, -, condq, completeq⟩ := k
  have same : i = j := by
    rcases Nat.lt_trichotomy i j with hij | hij | hij
    · exact absurd (completeq i hij) (by rw [condp]; simp [Condition.isComplete])
    · exact hij
    · exact absurd (completep j hij) (by rw [condq]; simp [Condition.isComplete])
  subst same
  exact ⟨rfl, by simpa [condp] using condq⟩

theorem fenceReady_of_readyFence {s : State} {p : QueuePtr} {n : Nat} (h : s.readyFence = some (p, n)) : s.fenceReady p n := by
  obtain ⟨q, hq, found⟩ := List.exists_of_findSome?_eq_some h
  obtain ⟨k, hk, rfl⟩ := mem_pointersFrom.mp hq
  split at found
  · rename_i m cond
    split at found
    · rename_i test
      obtain ⟨rfl, rfl⟩ : _ = p ∧ m = n := by simpa using found
      rw [Bool.and_eq_true, decide_eq_true_eq, incompleteBefore_eq_zero_iff s (by omega)] at test
      exact ⟨k, hk, rfl, beq_iff_eq.mp test.1, cond, test.2⟩
    · cases found
  · cases found

theorem readyFence_ne_none {s : State} {p : QueuePtr} {n : Nat} (h : s.fenceReady p n) : s.readyFence ≠ none := by
  obtain ⟨k, hk, rfl, code, cond, complete⟩ := h
  intro none_ready
  have miss := List.findSome?_eq_none_iff.mp none_ready _ (mem_pointersFrom.mpr ⟨k, hk, rfl⟩)
  have ready := (incompleteBefore_eq_zero_iff s (by omega)).mpr complete
  rw [cond] at miss
  simp [QueueEntry.isCode, code, ready] at miss

/-- The FENCE that completes next is the one whose earlier entries are all complete (R167). -/
theorem readyFence_iff (s : State) (p : QueuePtr) (n : Nat) : s.readyFence = some (p, n) ↔ s.fenceReady p n := by
  refine ⟨fenceReady_of_readyFence, fun h => ?_⟩
  obtain ⟨⟨q, m⟩, hr⟩ := Option.ne_none_iff_exists'.mp (readyFence_ne_none h)
  obtain ⟨rfl, rfl⟩ := fenceReady_unique (fenceReady_of_readyFence hr) h
  exact hr

theorem readyFence_eq_none_iff (s : State) : s.readyFence = none ↔ ∀ p n, ¬s.fenceReady p n := by
  rw [Option.eq_none_iff_forall_ne_some]
  simp [readyFence_iff]

/-! ## FENCE as a directive -/

theorem commandOf_eq_fence {d : Directive} {notify : Bool} (h : commandOf d = .fence notify) : notify = (d.op0 != 0) := by
  unfold commandOf at h
  split at h <;> cases h
  rfl

theorem takeable_spells {c : Instr} {s : State} (h : s.takeable c = true) :
    s.queue.take ≠ s.queue.tail ∧ commandOf (s.entry s.queue.take).directive = c := by
  simp only [State.takeable, Bool.and_eq_true, bne_iff_ne, beq_iff_eq] at h
  exact ⟨h.1.2, h.2⟩

/-- The entry that is taken is none of those before it, as long as the queue is not full of taken entries. -/
theorem incompleteBefore_taken {s : State} (w : Bool) (hb : s.directivesBounded) (ht : s.queue.take ≠ s.queue.tail) :
    (s.taken w).incompleteBefore s.queue.take = (s.begin.closeExtend w).incompleteBefore s.queue.take := by
  have retire : (s.taken w).queue.retire = s.queue.retire := by rw [taken_queue]
  have retire' : (s.begin.closeExtend w).queue.retire = s.queue.retire := by rw [closeExtend_frame]; rfl
  have room : (s.queue.take - s.queue.retire).toNat < 64 := by
    obtain ⟨few, taken⟩ := hb
    have apart : s.queue.take.toNat ≠ s.queue.tail.toNat := fun e => ht (BitVec.eq_of_toNat_eq e)
    simp only [DirectiveQueue.held, Config.directivePlaces, BitVec.toNat_sub] at few taken ⊢
    omega
  unfold State.incompleteBefore
  rw [retire, retire']
  refine List.countP_congr fun q hq => ?_
  obtain ⟨k, hk, rfl⟩ := mem_pointersFrom.mp hq
  have other : ringPlace s.queue.take ≠ ringPlace (s.queue.retire + BitVec.ofNat 7 k) := by
    rw [eq_add_toNat_sub s.queue.retire s.queue.take]
    exact ringPlace_add_ne _ room (by omega) (by omega)
  rw [entry_taken, if_neg other]

/-- Settles O26: no step of the fuel is wanting, since each FENCE that completes is one pending FENCE less; then the FENCE that is taken. -/
theorem fenceCompletesOrWaits : Obligations.FenceCompletesOrWaits := by
  refine ⟨fun s c => ⟨rfl, (readyFence_eq_none_iff _).mp (readyFence_completeFences 64 _ (card_pendingFences_le _))⟩,
    fun s h => completeFences_of_none ((readyFence_eq_none_iff s).mpr h) 64, fun s p n h => ?next, fun s notify h hb => ?taken⟩
  case next =>
    have ready := (readyFence_iff s p n).mpr h
    have told : s.fenceNotice p = if (s.entry p).directive.op0 = 0 then s else s.notice (.fenceDone (s.entry p).directive.tag) := by
      by_cases h0 : (s.entry p).directive.op0 = 0 <;> simp [State.fenceNotice, h0]
    dsimp only
    rw [← told, completeFences_of_some ready, State.afterFence, val32]
    refine (completeFences_succ 63 _ ?_).symm
    exact Nat.le_of_lt_succ (Nat.lt_of_lt_of_le (pendingFences_afterFence ready) (card_pendingFences_le s))
  case taken =>
    obtain ⟨ht, spelled⟩ := takeable_spells h
    have told : (s.taken false).fenceNotice s.queue.take =
        if notify = true then (s.taken false).notice (.fenceDone (s.entry s.queue.take).directive.tag) else s.taken false := by
      rw [State.fenceNotice, directive_taken, commandOf_eq_fence spelled]
    show (_ → ∃ t, execFence notify s = .next t ∧ _) ∧ (_ → execFence notify s = _ ∧ _)
    unfold execFence
    refine ⟨fun hn => takeDirective_changes h _ ((if_pos hn).trans (by rw [told]; rfl)) ?_ ?_, fun hn =>
      ⟨takeDirective_quiet h (if_neg hn) (taken_todo s false), ?_⟩⟩
    · split <;> simp
    · split <;> simp
    · rw [cond_taken_self, incompleteBefore_taken false hb ht]

/-! ## RESET as a directive -/

theorem commandOf_eq_reset {d : Directive} (h : commandOf d = .reset) : d.code.toNat = 3 := by
  unfold commandOf at h
  split at h <;> cases h
  assumption

/-- The last entry of a frame is its frame's last entry. -/
theorem frameLast_of_isLast {s : State} {p : QueuePtr} (h : (s.entry p).isLast = true) : s.frameLast p = p := by
  unfold State.frameLast
  rw [← (isLast_iff _).mp h]
  apply BitVec.eq_of_toNat_eq
  simp only [BitVec.toNat_sub, BitVec.toNat_add, BitVec.toNat_ofNat, show (1 : QueuePtr).toNat = 1 from rfl]
  omega

theorem othersComplete_iff (s : State) (p : QueuePtr) :
    s.othersComplete p = true ↔ ∀ q ∈ s.frameOf p, q ≠ p → (s.entry q).cond.isComplete = true := by
  simp [State.othersComplete, or_iff_not_imp_left]

/-- The reply of a frame whose last entry is the RESET that was taken (R168). -/
def State.resetReply (s : State) (p : QueuePtr) : Notice :=
  .reply ((s.frameOf p).map fun q => ((s.setCond p (.complete .done 0 0)).entry q).reply) true

section
variable {s : State} {p : QueuePtr}

/-- The completion of a taken RESET is the reply of its frame and the retirement that follows (R168). -/
theorem finishEntry_reset (hg : s.queue.resetTaken = true) (hl : (s.entry p).isLast = true) (hc : (s.entry p).isCode 3 = true)
    (ho : s.othersComplete p = true) : s.finishEntry p .done 0 0 =
      let t := (s.setCond p (.complete .done 0 0)).notice (s.resetReply p)
      State.retireBy 64 (if !s.noticeRoom then { t with todo := { t.todo with reset := true } } else t) := by
  have own : (s.setCond p (.complete .done 0 0)).entry p = { s.entry p with cond := .complete .done 0 0 } := entry_setCond_self s p _
  have last : (s.setCond p (.complete .done 0 0)).frameLast p = p := frameLast_of_isLast (by rw [own]; exact hl)
  have waitsNot : (s.setCond p (.complete .done 0 0)).completeReset p = s.setCond p (.complete .done 0 0) := by
    unfold State.completeReset
    dsimp only
    rw [last, own]
  have whole : (s.setCond p (.complete .done 0 0)).frameComplete p = true := by
    rw [frameComplete_setCond]
    exact fun q hq hne => (othersComplete_iff s p).mp ho q hq (fun e => hne (by rw [e]))
  have isReset : ((s.setCond p (.complete .done 0 0)).queue.resetTaken
      && ((s.setCond p (.complete .done 0 0)).entry ((s.setCond p (.complete .done 0 0)).frameLast p)).isCode 3) = true := by
    rw [last, own]
    exact Bool.and_eq_true_iff.mpr ⟨hg, hc⟩
  unfold State.finishEntry State.replyFrame
  rw [waitsNot, if_pos whole, isReset, frameOf_setCond]
  rfl

/-- With room for it, the reply of the RESET is queued (R168). -/
theorem finishEntry_reset_of_room (hg : s.queue.resetTaken = true) (hl : (s.entry p).isLast = true)
    (hc : (s.entry p).isCode 3 = true) (ho : s.othersComplete p = true) (hn : s.notices.length < 128) :
    s.finishEntry p .done 0 0 =
      State.retireBy 64 { s.setCond p (.complete .done 0 0) with notices := s.notices ++ [s.resetReply p] } := by
  have room : s.noticeRoom = true := decide_eq_true hn
  rw [finishEntry_reset hg hl hc ho, room, notice_of_room (s := s.setCond p (.complete .done 0 0)) hn]
  rfl

/-- At a full notice queue the reply of the RESET is dropped, and the reset noted (R168). -/
theorem finishEntry_reset_of_full (hg : s.queue.resetTaken = true) (hl : (s.entry p).isLast = true)
    (hc : (s.entry p).isCode 3 = true) (ho : s.othersComplete p = true) (hn : 128 ≤ s.notices.length) :
    s.finishEntry p .done 0 0 = State.retireBy 64 { s.setCond p (.complete .done 0 0) with
      noticeDrops := bump s.noticeDrops, todo := { s.todo with reset := true } } := by
  have room : s.noticeRoom = false := decide_eq_false (Nat.not_lt.mpr hn)
  rw [finishEntry_reset hg hl hc ho, room, notice_of_full (s := s.setCond p (.complete .done 0 0)) hn]
  rfl

end

theorem completeFences_of_no_pending {s : State} (h : ∀ q, (s.entry q).isPendingFence = false) (n : Nat) :
    State.completeFences n s = s :=
  completeFences_of_none (Option.eq_none_iff_forall_ne_some.mpr fun pk hr =>
    Bool.eq_false_iff.mp (h pk.1) (readyFence_pending hr)) n

/-- An event that notes one completion and nothing else ends with it, and with the reset that it may bring (R164, R168). -/
theorem finish_of_completion {u : State} (hu : u.todo = Todo.nothing) (p : QueuePtr) (r : Result) (v1 v2 : Word32) :
    (u.complete p r v1 v2).finish =
      let t := (u.complete p r v1 v2).carryOut ⟨p, r, v1, v2⟩
      if t.todo.reset then t.directiveReset else t.settled := by
  have todo : (u.complete p r v1 v2).todo = ⟨[], [], [], [⟨p, r, v1, v2⟩], false⟩ := by
    rw [State.complete_todo, hu]
    rfl
  have before := before_completions (u.complete p r v1 v2) (by rw [todo]; simp) (by rw [todo]; simp)
  have same : { u.complete p r v1 v2 with todo := { (u.complete p r v1 v2).todo with pools := [], risen := [] } } =
      u.complete p r v1 v2 := by
    rw [todo]
    unfold State.complete
    rw [hu]
    rfl
  have noted : (u.complete p r v1 v2).completionsNoted = (u.complete p r v1 v2).carryOut ⟨p, r, v1, v2⟩ := by
    unfold State.completionsNoted
    rw [todo]
    rfl
  unfold State.finish
  rw [before, same, noted]
  rfl

/-- The state in which a RESET that is last in its frame has been taken (R168). -/
def State.stopped (s : State) : State := { s.taken false with queue := { (s.taken false).queue with resetTaken := true } }

section
variable {s : State}

@[simp] theorem entry_stopped (q : QueuePtr) : s.stopped.entry q = (s.taken false).entry q := rfl

theorem stopped_frame : s.stopped = { s with queue := s.stopped.queue, todo := Todo.nothing } := by
  unfold State.stopped
  rw [taken_frame]

theorem frameOf_taken (w : Bool) (p : QueuePtr) : (s.taken w).frameOf p = s.frameOf p := by
  unfold State.frameOf
  rw [entry_taken_eq]

/-- Taking a RESET makes no pending FENCE. -/
theorem isPendingFence_taken (w : Bool) (hc : (s.entry s.queue.take).directive.code.toNat = 3)
    (h : ∀ q, (s.entry q).isPendingFence = false) (q : QueuePtr) : ((s.taken w).entry q).isPendingFence = false := by
  by_cases hq : ringPlace q = ringPlace s.queue.take
  · rw [entry_congr _ hq, entry_taken_eq]
    simp [QueueEntry.isPendingFence, QueueEntry.isCode, hc]
  · rw [entry_taken, if_neg (Ne.symm hq)]
    by_cases he : s.queue.ext = none
    · rw [closeExtend_of_none (s := s.begin) w he, entry_begin]
      exact h q
    · rw [entry_closeExtend_of_some (s := s.begin) w he]
      split
      · exact isPendingFence_of_complete rfl
      · exact h q

/-- The completion of a RESET that ends its frame, where no FENCE is pending, is its own alone (R168). -/
theorem carryOut_reset (hc : (s.entry s.queue.take).directive.code.toNat = 3) (hf : ∀ q, (s.entry q).isPendingFence = false) :
    (s.stopped.complete s.queue.take .done 0 0).carryOut ⟨s.queue.take, .done, 0, 0⟩ =
      (s.stopped.complete s.queue.take .done 0 0).finishEntry s.queue.take .done 0 0 := by
  refine completeFences_of_no_pending (fun q => ?_) 64
  obtain ⟨only, -⟩ := completesOnly_finishEntry (s.stopped.complete s.queue.take .done 0 0) s.queue.take .done 0 0
  refine Bool.eq_false_iff.mpr fun pending => ?_
  exact Bool.eq_false_iff.mp (isPendingFence_taken false hc hf q) (only.isPendingFence pending)

/-- A reset by directive starts the engine up, with the straps at their level then (R168, R179, R180). -/
theorem directiveReset_eq (s : State) : s.directiveReset = State.startUp (s.strapChanges.headD s.straps) s.strapChanges.tail
    (mapVector Lane.carrier s.lanes) s.mem s.sent s.pending := rfl

theorem directiveReset_congr {s t : State} (hs : t.straps = s.straps) (hc : t.strapChanges = s.strapChanges)
    (hl : t.lanes = s.lanes) (hm : t.mem = s.mem) (hx : t.sent = s.sent) (hp : t.pending = s.pending) :
    t.directiveReset = s.directiveReset := by
  rw [directiveReset_eq, directiveReset_eq, hs, hc, hl, hm, hx, hp]

/-- The state in which the RESET that ends its frame completes (R168). -/
def State.resetting (s : State) : State := s.stopped.complete s.queue.take .done 0 0

theorem resetting_frame : s.resetting =
    { s with queue := s.stopped.queue, todo := ⟨[], [], [], [⟨s.queue.take, .done, 0, 0⟩], false⟩ } := by
  unfold State.resetting State.complete
  rw [stopped_frame]
  rfl

/-- How the event of a RESET ends that is last in its frame, with the rest complete and no FENCE pending (R168). -/
theorem finish_resetting (hc : (s.entry s.queue.take).directive.code.toNat = 3) (hf : ∀ q, (s.entry q).isPendingFence = false) :
    s.resetting.finish =
      let t := s.resetting.finishEntry s.queue.take .done 0 0
      if t.todo.reset then t.directiveReset else t.settled := by
  unfold State.resetting
  rw [finish_of_completion (by rw [stopped_frame]), carryOut_reset hc hf]

@[simp] theorem entry_resetting (q : QueuePtr) : s.resetting.entry q = (s.taken false).entry q := rfl

/-- The entry of the RESET that is taken is the last of its frame, and that of a RESET. -/
theorem resetting_entry (hl : (s.entry s.queue.take).isLast = true) (hc : (s.entry s.queue.take).directive.code.toNat = 3) :
    (s.resetting.entry s.queue.take).isLast = true ∧ (s.resetting.entry s.queue.take).isCode 3 = true := by
  rw [entry_resetting, isLast_taken, QueueEntry.isCode, directive_taken, beq_iff_eq]
  exact ⟨hl, hc⟩

/-- With room for it, the reply of the RESET is queued, and will reset the engine as it leaves (R168). -/
theorem finish_resetting_of_room (hl : (s.entry s.queue.take).isLast = true)
    (hc : (s.entry s.queue.take).directive.code.toNat = 3) (ho : s.resetting.othersComplete s.queue.take = true)
    (hf : ∀ q, (s.entry q).isPendingFence = false) (hn : s.notices.length < 128) : s.resetting.finish =
      (State.retireBy 64 { s.resetting.setCond s.queue.take (.complete .done 0 0) with
        notices := s.notices ++ [s.resetting.resetReply s.queue.take] }).settled := by
  obtain ⟨last, code⟩ := resetting_entry hl hc
  have same : s.resetting.notices = s.notices := by rw [resetting_frame]
  have goes := finishEntry_reset_of_room (by rw [resetting_frame]; rfl) last code ho (same ▸ hn)
  rw [finish_resetting hc hf, goes, same]
  refine if_neg ?_
  rw [todo_retireBy]
  show ¬s.resetting.todo.reset = true
  rw [resetting_frame]
  simp

/-- At a full notice queue the reply of the RESET is dropped, and the engine resets (R168). -/
theorem finish_resetting_of_full (hl : (s.entry s.queue.take).isLast = true)
    (hc : (s.entry s.queue.take).directive.code.toNat = 3) (ho : s.resetting.othersComplete s.queue.take = true)
    (hf : ∀ q, (s.entry q).isPendingFence = false) (hn : 128 ≤ s.notices.length) : s.resetting.finish =
      State.startUp (s.strapChanges.headD s.straps) s.strapChanges.tail (mapVector Lane.carrier s.lanes) s.mem s.sent s.pending := by
  obtain ⟨last, code⟩ := resetting_entry hl hc
  have same : s.resetting.notices = s.notices := by rw [resetting_frame]
  have goes := finishEntry_reset_of_full (by rw [resetting_frame]; rfl) last code ho (same ▸ hn)
  rw [finish_resetting hc hf, goes]
  refine (if_pos (by rw [todo_retireBy])).trans ((directiveReset_congr ?_ ?_ ?_ ?_ ?_ ?_).trans (directiveReset_eq s))
  all_goals
    rw [retireBy_frame, resetting_frame]
    rfl

end

/-- A RESET that is last in its frame, with the rest complete, completes (R168). -/
theorem exec_reset_of_last {s : State} (h : s.takeable .reset = true) (hl : (s.entry s.queue.take).isLast = true)
    (ho : s.stopped.othersComplete s.queue.take = true) : exec .reset s = .next s.resetting.finish := by
  show execReset s = _
  unfold execReset
  rw [takeDirective_of_takeable h, if_pos ((isLast_taken s false _).trans hl)]
  exact congrArg (fun t : State => Host.Outcome.next t.finish) (if_pos ho)

/-- A state that differs from `s` in its queues alone, once settled, does so too. -/
theorem settled_eq_withReplies {s t : State} (h : ∃ q n d, t = { s with queue := q, notices := n, todo := d }) :
    t.settled = { s.withReplies t.settled with noticeDrops := s.noticeDrops } := by
  obtain ⟨q, n, d, rfl⟩ := h
  rfl

/-- Settles O27: by the place of the RESET in its frame, whether the rest of the frame is complete, and the room for the reply. -/
theorem resetDirectiveStopsTheTaking : Obligations.ResetDirectiveStopsTheTaking := by
  intro s h
  have code := commandOf_eq_reset (takeable_spells h).2
  have last := isLast_taken s false s.queue.take
  have frame : ∀ w q, (s.taken w).frameOf q = s.frameOf q := frameOf_taken
  have others : s.stopped.othersComplete s.queue.take = true ↔
      ∀ q ∈ s.frameOf s.queue.take, q ≠ s.queue.take → ((s.taken false).entry q).cond.isComplete = true := by
    rw [othersComplete_iff, ← frame false]
    rfl
  dsimp only
  rw [← others, ne_eq, ← isLast_iff]
  refine ⟨fun hl => ?notLast, fun hl ho => ?waits, fun hl ho hf hn => ?room, fun hl ho hf hn => ?full⟩
  case notLast =>
    show ∃ t, execReset s = .next t ∧ _
    unfold execReset
    exact takeDirective_reports h (if_neg (last ▸ hl))
  case waits =>
    show execReset s = _
    unfold execReset
    exact takeDirective_quiet h ((if_pos (last.trans hl)).trans (if_neg ho)) (taken_todo s false)
  case room =>
    rw [exec_reset_of_last h hl ho, finish_resetting_of_room hl code ho hf hn]
    refine ⟨_, (s.resetting.frameOf s.queue.take).map fun q =>
      ((s.resetting.setCond s.queue.take (.complete .done 0 0)).entry q).reply, rfl, settled_eq_withReplies ?_,
      ?_, ?_, ?_, notices_retireBy _ _, ?_⟩
    · rw [retireBy_frame, resetting_frame]
      exact ⟨_, _, _, rfl⟩
    · refine (congrArg QueueEntry.cond (entry_retireBy 64 _ _)).trans ?_
      exact congrArg QueueEntry.cond (entry_setCond_self s.resetting s.queue.take _)
    · show (State.retireBy 64 _).queue.resetTaken = true
      rw [retireBy_frame]
      rfl
    · refine (take_retireBy 64 _).trans ?_
      show (s.taken false).queue.take = _
      rw [taken_queue]
    · rw [List.map_map, ← frame false]
      refine List.map_congr_left fun q _ => ?_
      rw [Function.comp_apply, reply_tag, directive_setCond, entry_resetting, directive_taken]
  case full => rw [exec_reset_of_last h hl ho, finish_resetting_of_full hl code ho hf hn]

end Sys2Proof.Machine
end

section
/-! PROOF. LANE-READ, JOB-READ, POOL-SET, JOB-MOVE and PURGE (R9, R30, R63, R64, R151, R177): the packing of values, the items of each
table, and the event of each outcome. -/

namespace Sys2Proof.Machine

/-! ## The packing of values (R177) -/

/-- A field behind others is their number shifted up by its width, with its own added. -/
theorem ofNat_append (m a : Nat) {n : Nat} (x : BitVec n) : BitVec.ofNat m a ++ x = BitVec.ofNat (m + n) (a * 2 ^ n + x.toNat) := by
  apply BitVec.eq_of_toNat_eq
  have quotient : (a * 2 ^ n + x.toNat) / 2 ^ n = a := by
    rw [Nat.mul_comm, Nat.mul_add_div (Nat.two_pow_pos n), Nat.div_eq_of_lt x.isLt, Nat.add_zero]
  have remainder : (a * 2 ^ n + x.toNat) % 2 ^ n = x.toNat := by
    rw [Nat.mul_comm, Nat.mul_add_mod, Nat.mod_eq_of_lt x.isLt]
  rw [BitVec.toNat_append, ← Nat.shiftLeft_add_eq_or_of_lt x.isLt, Nat.shiftLeft_eq, BitVec.toNat_ofNat, BitVec.toNat_ofNat,
    Nat.add_comm m n, Nat.pow_add, Nat.mod_mul, quotient, remainder]
  ring

theorem append_toNat {m n : Nat} (y : BitVec m) (x : BitVec n) : y ++ x = BitVec.ofNat (m + n) (y.toNat * 2 ^ n + x.toNat) := by
  rw [← ofNat_append, BitVec.ofNat_toNat, BitVec.setWidth_eq]

/-- A value with zero bits before it is the value made wider. -/
theorem setWidth_eq_append {m n : Nat} (t : BitVec n) : t.setWidth (m + n) = 0#m ++ t := by
  rw [append_toNat]
  apply BitVec.eq_of_toNat_eq
  simp only [BitVec.toNat_setWidth, BitVec.toNat_ofNat, Nat.zero_mod, Nat.zero_mul, Nat.zero_add]

/-- A tag operand in range is a stream tag with 16 zero bits before it (R175). -/
theorem append_eq_iff {t : Word16} {tag : Word32} (h : tag.toNat ≤ 65535) : 0#16 ++ t = tag ↔ t = tag.setWidth 16 := by
  rw [append_toNat, ← BitVec.toNat_inj, ← BitVec.toNat_inj]
  simp only [BitVec.toNat_setWidth, BitVec.toNat_ofNat]
  omega

theorem extractLsb'_eq_setWidth (tag : Word32) : tag.extractLsb' 0 16 = tag.setWidth 16 := by
  rw [BitVec.setWidth_eq_extractLsb' (by decide)]

/-! ## LANE-READ -/

section
variable (r : Lane)

theorem value1_eq (c : Settings) (pending : Bool) : c.value1 pending =
    BitVec.ofNat 8 c.pool ++ BitVec.ofNat 6 0 ++ BitVec.ofBool pending ++ BitVec.ofBool c.enable ++ BitVec.ofNat 8 0 ++ c.mask := by
  have := c.mask.isLt
  have := c.pool.isLt
  have := Bool.toNat_lt pending
  have := Bool.toNat_lt c.enable
  rw [ofNat_append, ofNat_append, ofNat_append, ofNat_append, ofNat_append]
  refine congrArg (BitVec.ofNat 32) ?_
  simp only [BitVec.toNat_ofNat, BitVec.toNat_ofBool]
  omega

theorem value2_eq (c : Settings) : c.value2 =
    BitVec.ofNat 8 (c.reoffer / 10) ++ BitVec.ofNat 8 c.answer ++ BitVec.ofNat 8 c.silence ++ BitVec.ofNat 8 c.escalation :=
  pack8_eq_append ..

theorem conditionsCode_lt (f : Conditions) : conditionsCode f < 8 := by
  have := Bool.toNat_lt f.tonerLow
  have := Bool.toNat_lt f.trayLow
  have := Bool.toNat_lt f.doorOpen
  unfold conditionsCode
  omega

theorem laneRead_zero : r.read 0 = (.done,
    BitVec.ofNat 8 (laneStateCode r.state) ++ BitVec.ofNat 8 (conditionsCode r.flags) ++
      (match r.job with | some i => BitVec.ofNat 16 i | none => 65535#16),
    BitVec.ofNat 8 r.inflight.length ++ BitVec.ofNat 6 0 ++ BitVec.ofBool r.offer.isSome ++ BitVec.ofBool r.abort ++ r.seq) := by
  have := conditionsCode_lt r.flags
  have := Bool.toNat_lt r.offer.isSome
  have := Bool.toNat_lt r.abort
  simp only [Lane.read, Prod.mk.injEq, true_and]
  constructor
  · rw [ofNat_append, ofNat_append]
    refine congrArg (BitVec.ofNat 32) ?_
    cases r.job with
    | some i =>
      simp only [BitVec.toNat_ofNat, Option.map_some, Option.getD_some]
      omega
    | none =>
      simp only [BitVec.toNat_ofNat, Option.map_none, Option.getD_none]
      omega
  · rw [ofNat_append, ofNat_append, ofNat_append, ofNat_append]
    refine congrArg (BitVec.ofNat 32) ?_
    simp only [BitVec.toNat_ofNat, BitVec.toNat_ofBool]
    omega

theorem laneRead_one (hd : r.cap.depth < 256) : r.read 1 = (.done,
    BitVec.ofNat 16 r.cap.chunk ++ BitVec.ofNat 8 r.cap.depth ++ BitVec.ofNat 7 0 ++ BitVec.ofBool r.cap.duplex,
    BitVec.ofNat 16 0 ++ r.cap.media) := by
  have := Bool.toNat_lt r.cap.duplex
  simp only [Lane.read, Prod.mk.injEq, true_and]
  constructor
  · rw [ofNat_append, ofNat_append, ofNat_append]
    refine congrArg (BitVec.ofNat 32) ?_
    simp only [BitVec.toNat_ofNat, BitVec.toNat_ofBool]
    omega
  · rw [ofNat_append, Nat.zero_mul, Nat.zero_add]
    rfl

theorem jamValue_eq (j : Option LastJam) : jamValue j = (match j with
    | none => BitVec.ofNat 4 0 ++ BitVec.ofNat 4 15 ++ BitVec.ofNat 6 0 ++ BitVec.ofNat 8 255 ++ BitVec.ofNat 10 1023
    | some ⟨location, none⟩ => BitVec.ofNat 4 8 ++ location ++ BitVec.ofNat 6 0 ++ BitVec.ofNat 8 255 ++ BitVec.ofNat 10 1023
    | some ⟨location, some (i, a)⟩ =>
        BitVec.ofNat 4 8 ++ location ++ BitVec.ofNat 3 0 ++ BitVec.ofNat 3 4 ++ BitVec.ofNat 8 i ++ BitVec.ofNat 10 a) := by
  match j with
  | none => rfl
  | some ⟨location, none⟩ =>
    have := location.isLt
    dsimp only [jamValue, jamJobField]
    rw [ofNat_append, ofNat_append, ofNat_append, ofNat_append]
    refine congrArg (BitVec.ofNat 32) ?_
    simp only [BitVec.toNat_ofNat]
    omega
  | some ⟨location, some (i, a)⟩ =>
    have := location.isLt
    dsimp only [jamValue, jamJobField]
    rw [ofNat_append, ofNat_append, ofNat_append, ofNat_append, ofNat_append]
    refine congrArg (BitVec.ofNat 32) ?_
    simp only [BitVec.toNat_ofNat]
    omega

/-- There is no item above 7 (R151). -/
theorem laneRead_of_gt {item : Nat} (h : 7 < item) : r.read item = (.range, 0, 0) := by
  obtain ⟨n, rfl⟩ : ∃ n, item = n + 8 := ⟨item - 8, by omega⟩
  rfl

end

section
variable {s : State} {lane item : Word32}

/-- A lane above 15 is out of range (R151). -/
theorem exec_laneRead_of_lane_gt (h : s.takeable (.laneRead lane item) = true) (hl : 15 < lane.toNat) :
    ∃ t, exec (.laneRead lane item) s = .next t ∧ Concludes (s.taken false) t [⟨s.queue.take, .range, 0, 0⟩] := by
  show ∃ t, execLaneRead lane item s = .next t ∧ _
  unfold execLaneRead
  refine takeDirective_reports h ?_
  rw [toIndex_of_ge (n := 16) hl]
  rfl

/-- A lane in range gives its item's values, in any lane state (R151). -/
theorem exec_laneRead_of_values (h : s.takeable (.laneRead lane item) = true) {l : LaneNo} (hi : lane.toNat = l)
    {r : Result} {v1 v2 : Word32} (hv : (s.lane l).read item.toNat = (r, v1, v2)) :
    ∃ t, exec (.laneRead lane item) s = .next t ∧ Concludes (s.taken false) t [⟨s.queue.take, r, v1, v2⟩] := by
  show ∃ t, execLaneRead lane item s = .next t ∧ _
  unfold execLaneRead
  refine takeDirective_reports h ?_
  rw [toIndex_of_eq l hi]
  dsimp only
  rw [taken_lane, hv]

end

/-- Settles O31: by the lane number, then by the item, each with its values of Table 11.6. -/
theorem laneReadPacksTheRecord : Obligations.LaneReadPacksTheRecord := by
  intro s lane item h
  dsimp only
  refine ⟨fun hr => ?range, fun l hi => ⟨fun h0 _ => ?_, fun h1 _ hd => ?_, fun h2 => ?_, fun h3 => ?_, fun h4 => ?_, fun h5 => ?_,
    fun h6 => ?_, fun h7 => ?_⟩⟩
  case range =>
    by_cases hl : 15 < lane.toNat
    · exact exec_laneRead_of_lane_gt h hl
    · exact exec_laneRead_of_values (l := ⟨lane.toNat, by omega⟩) h rfl (laneRead_of_gt _ (hr.resolve_left hl))
  · exact exec_laneRead_of_values h hi (by rw [h0]; exact laneRead_zero _)
  · exact exec_laneRead_of_values h hi (by rw [h1]; exact laneRead_one _ hd)
  · refine exec_laneRead_of_values h hi (h2 ▸ ?_)
    rw [← value1_eq, ← value2_eq]
    rfl
  · have item3 : (s.lane l).read item.toNat = match (s.lane l).pendingSet with
        | some (set, _) => (.done, set.value1 true, set.value2)
        | none => (.done, 0, 0) := h3 ▸ rfl
    cases hp : (s.lane l).pendingSet with
    | some sp =>
      refine exec_laneRead_of_values h hi ?_
      rw [← value1_eq, ← value2_eq, item3, hp]
    | none =>
      refine exec_laneRead_of_values h hi ?_
      rw [item3, hp]
  · exact exec_laneRead_of_values h hi (h4 ▸ rfl)
  · exact exec_laneRead_of_values h hi (h5 ▸ rfl)
  · exact exec_laneRead_of_values h hi (h6 ▸ rfl)
  · have item7 : (s.lane l).read item.toNat = (.done, val32 (s.lane l).ignored, jamValue (s.lane l).lastJam) := h7 ▸ rfl
    exact exec_laneRead_of_values h hi (item7.trans (congrArg (fun v => (Result.done, _, v)) (jamValue_eq _)))

/-! ## JOB-READ -/

section
variable (j : Job)

theorem reasonsCode_eq (r : Reasons) (m : Nat) : BitVec.ofNat m 0 ++ BitVec.ofBool r.refused ++ BitVec.ofBool r.funds ++
    BitVec.ofBool r.operator = BitVec.ofNat (m + 1 + 1 + 1) (reasonsCode r) := by
  rw [ofNat_append, ofNat_append, ofNat_append]
  refine congrArg (BitVec.ofNat _) ?_
  simp only [BitVec.toNat_ofBool, reasonsCode]
  omega

theorem reasonsCode_lt (r : Reasons) : reasonsCode r < 8 := by
  have := Bool.toNat_lt r.operator
  have := Bool.toNat_lt r.funds
  have := Bool.toNat_lt r.refused
  unfold reasonsCode
  omega

theorem jobStateCode_lt (st : JobState) : jobStateCode st < 8 := by cases st <;> decide

theorem jobRead_zero : j.read 0 = (.done,
    BitVec.ofNat 8 (jobStateCode j.state) ++ BitVec.ofNat 5 0 ++ BitVec.ofBool j.reasons.refused ++ BitVec.ofBool j.reasons.funds ++
      BitVec.ofBool j.reasons.operator ++ BitVec.ofNat 7 0 ++ BitVec.ofBool j.intakeOpen ++
      (match j.lane with | some l => BitVec.ofNat 8 l | none => 255#8),
    j.tag ++ BitVec.ofNat 16 j.account) := by
  have := jobStateCode_lt j.state
  have := Bool.toNat_lt j.intakeOpen
  have := Bool.toNat_lt j.reasons.operator
  have := Bool.toNat_lt j.reasons.funds
  have := Bool.toNat_lt j.reasons.refused
  simp only [Job.read, Prod.mk.injEq, true_and]
  constructor
  · rw [ofNat_append, ofNat_append, ofNat_append, ofNat_append, ofNat_append, ofNat_append, ofNat_append]
    refine congrArg (BitVec.ofNat 32) ?_
    cases j.lane with
    | some l =>
      simp only [BitVec.toNat_ofNat, BitVec.toNat_ofBool, reasonsCode, Option.map_some, Option.getD_some]
      omega
    | none =>
      simp only [BitVec.toNat_ofNat, BitVec.toNat_ofBool, reasonsCode, Option.map_none, Option.getD_none]
      omega
  · rw [pack16_eq_append, BitVec.ofNat_toNat, BitVec.setWidth_eq]

theorem jobRead_one (h : j.copies < 65536) : j.read 1 = (.done,
    BitVec.ofNat 8 j.pool ++ BitVec.ofNat 8 j.prio ++ BitVec.ofNat 16 j.copies,
    BitVec.ofNat 16 j.winFirst ++ BitVec.ofNat 16 j.winLast) := by
  simp only [Job.read, Prod.mk.injEq, true_and, pack16_eq_append, and_true]
  rw [ofNat_append, ofNat_append]
  refine congrArg (BitVec.ofNat 32) ?_
  simp only [BitVec.toNat_ofNat]
  omega

theorem jobRead_two : j.read 2 = (.done, j.expected ++ BitVec.ofNat 16 j.lastSheet, BitVec.ofNat 32 j.records.length) := by
  simp only [Job.read, pack16_eq_append, BitVec.ofNat_toNat, BitVec.setWidth_eq, val32]

theorem sheetAt_eq (c : Cursor) : BitVec.ofNat 16 (j.sheetAt c) =
    match j.records[c.pos]? with | some rec => BitVec.ofNat 16 rec.number | none => 0 := by
  unfold Job.sheetAt Job.recordAt
  cases j.records[c.pos]? <;> rfl

theorem jobRead_three : j.read 3 = (.done, BitVec.ofNat 16 j.send.copy ++ BitVec.ofNat 16 (j.sheetAt j.send),
    BitVec.ofNat 16 j.confirm.copy ++ BitVec.ofNat 16 (j.sheetAt j.confirm)) := by
  simp only [Job.read, pack16_eq_append]

theorem jobRead_six : j.read 6 = (.done, BitVec.ofNat 32 j.damaged,
    BitVec.ofNat 30 0 ++ BitVec.ofBool j.pendingCancel.isSome ++ BitVec.ofBool j.pendingHold.isSome) := by
  simp only [Job.read, Prod.mk.injEq, true_and, val32]
  rw [ofNat_append, ofNat_append]
  refine congrArg (BitVec.ofNat 32) ?_
  simp only [BitVec.toNat_ofBool]
  omega

theorem jobRead_nine : j.read 9 = (.done, BitVec.ofNat 16 j.promised ++ BitVec.ofNat 16 j.promisedShared,
    BitVec.ofNat 32 j.released) := by
  simp only [Job.read, pack16_eq_append, val32]

theorem getD_absent (b : Option Nat) : BitVec.ofNat 32 (b.getD 4294967295) =
    match b with | some b => BitVec.ofNat 32 b | none => 4294967295 := by
  cases b <;> rfl

end

section
variable {s : State} {slot item : Word32}

/-- A slot above 255 or an item above 11 is out of range (R64). -/
theorem exec_jobRead_of_out_of_range (h : s.takeable (.jobRead slot item) = true) (hr : 255 < slot.toNat ∨ 11 < item.toNat) :
    ∃ t, exec (.jobRead slot item) s = .next t ∧ Concludes (s.taken false) t [⟨s.queue.take, .range, 0, 0⟩] := by
  show ∃ t, execJobRead slot item s = .next t ∧ _
  unfold execJobRead
  refine takeDirective_reports h ?_
  rcases Nat.lt_or_ge slot.toNat 256 with hlt | hge
  · rw [toIndex_of_lt hlt]
    exact if_pos (hr.resolve_left (by omega))
  · rw [toIndex_of_ge hge]
    rfl

variable {i : Slot}

/-- A FREE slot has no job to read (R64). -/
theorem exec_jobRead_of_free (h : s.takeable (.jobRead slot item) = true) (hi : slot.toNat = i) (hf : (s.job i).state = .free)
    (hitem : item.toNat ≤ 11) :
    ∃ t, exec (.jobRead slot item) s = .next t ∧ Concludes (s.taken false) t [⟨s.queue.take, .state, 0, 0⟩] := by
  show ∃ t, execJobRead slot item s = .next t ∧ _
  unfold execJobRead
  refine takeDirective_reports h ?_
  rw [toIndex_of_eq i hi]
  dsimp only
  rw [if_neg (by omega), taken_job, if_pos hf]
  rfl

/-- Another slot gives its item's values (R64). -/
theorem exec_jobRead_of_values (h : s.takeable (.jobRead slot item) = true) (hi : slot.toNat = i) (hf : (s.job i).state ≠ .free)
    {n : Nat} (hitem : item.toNat = n) (hn : n ≤ 11) {r : Result} {v1 v2 : Word32} (hv : (s.job i).read n = (r, v1, v2)) :
    ∃ t, exec (.jobRead slot item) s = .next t ∧ Concludes (s.taken false) t [⟨s.queue.take, r, v1, v2⟩] := by
  show ∃ t, execJobRead slot item s = .next t ∧ _
  unfold execJobRead
  refine takeDirective_reports h ?_
  rw [toIndex_of_eq i hi]
  dsimp only
  rw [if_neg (by omega), taken_job, if_neg hf, hitem, hv]

end

/-- Settles O34: by the slot, its state and the item, each item with its values of Table 3.4. -/
theorem jobReadReportsTheRecord : Obligations.JobReadReportsTheRecord := by
  intro s slot item h
  dsimp only
  refine ⟨exec_jobRead_of_out_of_range h, fun i hi => ⟨exec_jobRead_of_free h hi, fun hf => ?_⟩⟩
  have reads := fun {n} (hitem : item.toNat = n) => exec_jobRead_of_values h hi hf hitem
  refine ⟨fun h0 => reads h0 (by decide) (jobRead_zero _), fun h1 hc => reads h1 (by decide) (jobRead_one _ hc),
    fun h2 => reads h2 (by decide) (jobRead_two _), fun h3 => reads h3 (by decide) ((jobRead_three _).trans ?_),
    fun h4 => reads h4 (by decide) rfl, fun h5 => reads h5 (by decide) rfl, fun h6 => reads h6 (by decide) (jobRead_six _),
    fun h7 => reads h7 (by decide) rfl, fun h8 => reads h8 (by decide) rfl, fun h9 => reads h9 (by decide) (jobRead_nine _),
    fun h10 => reads h10 (by decide) ?_, fun h11 => reads h11 (by decide) rfl⟩
  · exact congrArg₂ (fun v w => (Result.done, BitVec.ofNat 16 _ ++ v, BitVec.ofNat 16 _ ++ w)) (sheetAt_eq _ _) (sheetAt_eq _ _)
  · exact congrArg₂ (fun v w => (Result.done, v, w)) (getD_absent _) (getD_absent _)

/-! ## POOL-SET -/

/-- A job whose intake is closed, or which is in another pool, keeps its place on the wait list (R30). -/
theorem followMark_of_not_open {s : State} {p : PoolNo} {i : Slot} (h : (s.job i).intakeOpen = true → (s.job i).pool ≠ p) :
    s.followMark p i = s := by
  unfold State.followMark
  rw [if_neg]
  rw [Bool.and_eq_true, beq_iff_eq]
  exact fun ⟨ho, hp⟩ => h ho hp

theorem foldl_eq_self {α β : Type} {f : β → α → β} {b : β} (l : List α) (h : ∀ a ∈ l, f b a = b) : l.foldl f b = b := by
  induction l with
  | nil => rfl
  | cons a rest ih =>
    rw [List.foldl_cons, h a (by simp)]
    exact ih fun c hc => h c (by simp [hc])

/-- With no open job in the pool and none waiting for credit, a new allowance has no further effect (R30). -/
theorem setAllowance_of_quiet {s : State} {p : PoolNo} (hw : s.waitList = [])
    (ho : ∀ i, (s.job i).intakeOpen = true → (s.job i).pool ≠ p) (n : Nat) :
    s.setAllowance p n = s.modPool p fun r => { r with allowance := n } := by
  unfold State.setAllowance
  rw [foldl_eq_self _ fun i _ => followMark_of_not_open (by simpa using ho i)]
  exact walk_of_none _ (by simpa using hw)

/-- Settles O32: by the pool number. -/
theorem poolSetClampsTheAllowance : Obligations.PoolSetClampsTheAllowance := by
  intro s pool allowance h
  dsimp only
  show (_ → ∃ t, execPoolSet pool allowance s = .next t ∧ _) ∧ ∀ p : PoolNo, _ → _ → _ → ∃ t, execPoolSet pool allowance s = .next t ∧ _
  unfold execPoolSet
  refine ⟨fun hp => takeDirective_reports h ?_, fun p hi hw ho => takeDirective_changes h _ ?_ rfl (taken_todo s false)⟩
  · rw [toIndex_of_ge (n := 8) hp]
    rfl
  · rw [toIndex_of_eq p hi]
    dsimp only
    rw [setAllowance_of_quiet (by rw [taken_waitList, hw]) (by simpa using ho), clamp_eq_max_min (by decide), State.modPool,
      State.setPool, taken_pools, taken_pool]
    rfl

end Sys2Proof.Machine
end

section
/-! PROOF. JOB-MOVE and PURGE (R9, R63), and the alert log: its events (R153, R155, R156), ALERT-READ, ALERT-ACK and ALERT-MASK (R157,
R158). -/

namespace Sys2Proof.Machine

/-! ## JOB-MOVE -/

section
variable {s : State} {slot tag : Word32} {i : Slot}

/-- A slot above 255 or a tag above 65535 names no job (R57, R63). -/
theorem slotOf_of_out_of_range (h : 255 < slot.toNat ∨ 65535 < tag.toNat) : slotOf slot tag = none := by
  unfold slotOf
  split
  · rfl
  · exact toIndex_of_ge (by omega)

theorem slotOf_of_in_range (hi : slot.toNat = i) (ht : tag.toNat ≤ 65535) : slotOf slot tag = some i := by
  unfold slotOf
  rw [if_neg (by omega), toIndex_of_eq i hi]

/-- Whether an open job other than that of slot `i` carries a tag (R63). -/
theorem carries_iff (ht : tag.toNat ≤ 65535) (k : Slot) : (k != i && (s.job k).isOpenOn (tag.setWidth 16)) = true ↔
    k ≠ i ∧ (s.job k).state ≠ .free ∧ (s.job k).intakeOpen = true ∧ 0#16 ++ (s.job k).tag = tag := by
  rw [Bool.and_eq_true, bne_iff_ne, isOpenOn_iff, append_eq_iff ht]
  tauto

theorem otherOpen_eq_some {tag : Word16} {k : Slot} (hk : (k != i && (s.job k).isOpenOn tag) = true)
    (hl : ∀ m, m < k → ¬(m != i && (s.job m).isOpenOn tag) = true) : s.otherOpen i tag = some k := by
  unfold State.otherOpen
  rw [← Fin.find?_eq_find?_finRange, Fin.find?_eq_some_iff]
  exact ⟨hk, by simpa using hl⟩

theorem otherOpen_eq_none {tag : Word16} (h : ∀ k, ¬(k != i && (s.job k).isOpenOn tag) = true) : s.otherOpen i tag = none := by
  unfold State.otherOpen
  rw [List.find?_eq_none]
  exact fun k _ => h k

@[simp] theorem taken_otherOpen (w : Bool) (i : Slot) (tag : Word16) : (s.taken w).otherOpen i tag = s.otherOpen i tag := by
  simp [State.otherOpen]

/-- A slot or a tag out of range (R63). -/
theorem exec_jobMove_of_out_of_range (h : s.takeable (.jobMove slot tag) = true) (hr : 255 < slot.toNat ∨ 65535 < tag.toNat) :
    ∃ t, exec (.jobMove slot tag) s = .next t ∧ Concludes (s.taken false) t [⟨s.queue.take, .range, 0, 0⟩] := by
  show ∃ t, execJobMove slot tag s = .next t ∧ _
  unfold execJobMove
  refine takeDirective_reports h ?_
  rw [slotOf_of_out_of_range hr]
  rfl

/-- A FREE slot, or a job whose intake is closed, has no stream to move (R63). -/
theorem exec_jobMove_of_closed (h : s.takeable (.jobMove slot tag) = true) (hi : slot.toNat = i) (ht : tag.toNat ≤ 65535)
    (hc : (s.job i).state = .free ∨ (s.job i).intakeOpen = false) :
    ∃ t, exec (.jobMove slot tag) s = .next t ∧ Concludes (s.taken false) t [⟨s.queue.take, .state, 0, 0⟩] := by
  show ∃ t, execJobMove slot tag s = .next t ∧ _
  unfold execJobMove
  refine takeDirective_reports h ?_
  rw [slotOf_of_in_range hi ht]
  dsimp only
  rw [taken_job]
  exact if_pos (by simpa using hc)

/-- Another open job that carries the tag refuses the move with BUSY (R63). -/
theorem exec_jobMove_of_carried (h : s.takeable (.jobMove slot tag) = true) (hi : slot.toNat = i) (ht : tag.toNat ≤ 65535)
    (hf : (s.job i).state ≠ .free) (ho : (s.job i).intakeOpen = true) {k : Slot} (hk : s.otherOpen i (tag.setWidth 16) = some k) :
    ∃ t, exec (.jobMove slot tag) s = .next t ∧ Concludes (s.taken false) t [⟨s.queue.take, .busy, BitVec.ofNat 32 k, 0⟩] := by
  show ∃ t, execJobMove slot tag s = .next t ∧ _
  unfold execJobMove
  refine takeDirective_reports h ?_
  rw [slotOf_of_in_range hi ht]
  dsimp only
  rw [taken_job, taken_otherOpen, hk]
  exact if_neg (by simp [hf, ho])

/-- The job takes the new tag, and its old one is reported (R63). -/
theorem exec_jobMove_of_free_tag (h : s.takeable (.jobMove slot tag) = true) (hi : slot.toNat = i) (ht : tag.toNat ≤ 65535)
    (hf : (s.job i).state ≠ .free) (ho : (s.job i).intakeOpen = true) (hk : s.otherOpen i (tag.setWidth 16) = none) :
    ∃ t, exec (.jobMove slot tag) s = .next t ∧
      Concludes { s.taken false with jobs := s.jobs.set i { s.job i with tag := tag.setWidth 16 } } t
        [⟨s.queue.take, .done, (s.job i).tag.setWidth 32, 0⟩] := by
  show ∃ t, execJobMove slot tag s = .next t ∧ _
  unfold execJobMove
  refine takeDirective_changes h _ ?_ rfl (taken_todo s false)
  rw [slotOf_of_in_range hi ht]
  dsimp only
  rw [State.modJob, State.setJob, taken_jobs, taken_job, taken_otherOpen, hk]
  exact if_neg (by simp [hf, ho])

end

/-! ## PURGE -/

theorem cacheIndex_setWidth {target : Word32} (k : Fin 64) :
    k = cacheIndex (target.setWidth 16) ↔ target.toNat % 64 = k := by
  simp only [cacheIndex, Fin.ext_iff, BitVec.toNat_setWidth]
  omega

theorem matchesTag_setWidth {target : Word32} (h : target.toNat ≤ 65535) (e : CacheEntry) :
    e.matchesTag (target.setWidth 16) = true ↔ e.valid = true ∧ e.high = target.toNat / 64 := by
  simp only [CacheEntry.matchesTag, Bool.and_eq_true, beq_iff_eq, BitVec.toNat_setWidth]
  rw [Nat.mod_eq_of_lt (by omega)]

section
variable {s : State} {scope target : Word32}

theorem purgePick_two : purgePick 2 target = (toIndex 256 target.toNat).map fun i _ (e : CacheEntry) => e.slot == i := by
  cases h : toIndex 256 target.toNat <;> simp [purgePick, h]

/-- A scope above 2, or a tag or a slot out of range (R9). -/
theorem purgePick_of_out_of_range (h : 2 < scope.toNat ∨ scope = 1 ∧ 65535 < target.toNat ∨ scope = 2 ∧ 255 < target.toNat) :
    purgePick scope target = none := by
  rcases h with h | ⟨rfl, h⟩ | ⟨rfl, h⟩
  · unfold purgePick
    split
    · omega
    · omega
    · omega
    · rfl
  · exact if_pos h
  · rw [purgePick_two, toIndex_of_ge h]
    rfl

/-- A PURGE in range invalidates the entries of its scope and target, and reports how many (R9). -/
theorem exec_purge_of_pick (h : s.takeable (.purge scope target) = true) {pick : Fin 64 → CacheEntry → Bool}
    (hp : purgePick scope target = some pick) {picks : Fin 64 → Prop}
    (hk : ∀ k, picks k ↔ (s.cache[k].valid && pick k s.cache[k]) = true) :
    ∃ t n, ∃ cache : Vector CacheEntry 64, exec (.purge scope target) s = .next t ∧
      Concludes { s.taken false with cache := cache } t [⟨s.queue.take, .done, scope, BitVec.ofNat 32 n⟩] ∧
      (∀ k : Fin 64, picks k → cache[k] = { s.cache[k] with valid := false }) ∧
      (∀ k : Fin 64, ¬picks k → cache[k] = s.cache[k]) ∧
      (∃ hit : List (Fin 64), hit.Nodup ∧ hit.length = n ∧ ∀ k, k ∈ hit ↔ picks k) := by
  have entry : ∀ k : Fin 64, (s.invalidate pick).cache[k] =
      if (s.cache[k].valid && pick k s.cache[k]) = true then { s.cache[k] with valid := false } else s.cache[k] := fun k => by
    simp [State.invalidate]
  obtain ⟨t, ht, hc⟩ : ∃ t, exec (.purge scope target) s = .next t ∧
      Concludes { s.taken false with cache := (s.invalidate pick).cache } t
        [⟨s.queue.take, .done, scope, BitVec.ofNat 32 (s.picked pick)⟩] := by
    show ∃ t, execPurge scope target s = .next t ∧ _
    unfold execPurge
    refine takeDirective_changes h _ ?_ rfl (taken_todo s false)
    rw [hp]
    dsimp only
    rw [State.invalidate, State.picked, taken_cache]
    rfl
  refine ⟨t, _, _, ht, hc, fun k hpk => ?_, fun k hpk => ?_,
    (List.finRange 64).filter fun k => s.cache[k].valid && pick k s.cache[k], (List.nodup_finRange 64).filter _, ?_, fun k => ?_⟩
  · rw [entry, if_pos ((hk k).mp hpk)]
  · rw [entry, if_neg fun hb => hpk ((hk k).mpr hb)]
  · exact List.countP_eq_length_filter.symm
  · rw [List.mem_filter, hk]
    simp

end

/-- Settles O38: JOB-MOVE by its tests in order, PURGE by its scope. -/
theorem moveAndPurgeActOnStreamsAlone : Obligations.MoveAndPurgeActOnStreamsAlone := by
  refine ⟨fun s slot tag h => ⟨exec_jobMove_of_out_of_range h, fun i hi ht => ?move⟩, fun s scope target h => ⟨fun hr => ?range, ?purge⟩⟩
  case move =>
    simp only [← carries_iff (s := s) (i := i) ht]
    rw [extractLsb'_eq_setWidth, ← setWidth_eq_append (m := 16)]
    exact ⟨exec_jobMove_of_closed h hi ht, fun hf ho =>
      ⟨fun k hk hl => exec_jobMove_of_carried h hi ht hf ho (otherOpen_eq_some hk hl),
        fun hn => exec_jobMove_of_free_tag h hi ht hf ho (otherOpen_eq_none hn)⟩⟩
  case range =>
    show ∃ t, execPurge scope target s = .next t ∧ _
    unfold execPurge
    refine takeDirective_reports h ?_
    rw [purgePick_of_out_of_range hr]
    rfl
  case purge =>
    rintro picks (⟨rfl, hk⟩ | ⟨rfl, ht, hk⟩ | ⟨rfl, ht, hk⟩)
    · exact exec_purge_of_pick h rfl fun k => by rw [hk, Bool.and_true]
    · refine exec_purge_of_pick h (if_neg (by omega)) fun k => ?_
      rw [hk, Bool.and_eq_true, Bool.and_eq_true, beq_iff_eq, cacheIndex_setWidth, matchesTag_setWidth ht]
      tauto
    · have pick : purgePick 2 target = some fun _ e => e.slot == ⟨target.toNat, by omega⟩ := by
        rw [purgePick_two, toIndex_of_lt (by omega)]
        rfl
      refine exec_purge_of_pick h pick fun k => ?_
      rw [hk, Bool.and_eq_true, beq_iff_eq, Fin.ext_iff]

/-! ## Alert events -/

section
variable {s : State} {i : Fin 32} {r : AlertRecord} {e : AlertEvent}

/-- A masked record is stored unrelayed (R156). -/
theorem relayInto_of_masked (h : s.masked r.kind r.lane = true) :
    s.relayInto i r = { s with alerts := s.alerts.set i (some { r with relayed := false }) } := if_pos h

/-- A record that is not masked is relayed where the notice queue has room (R156). -/
theorem relayInto_of_room (h : s.masked r.kind r.lane = false) (hn : s.notices.length < 128) : s.relayInto i r =
    { s with alerts := s.alerts.set i (some { r with relayed := true }), notices := s.notices ++ [.alert (some i) false r] } := by
  unfold State.relayInto
  rw [h, notice_of_room hn, State.noticeRoom, decide_eq_true hn]
  rfl

/-- A relay that finds the notice queue full is counted as a drop (R156, R170). -/
theorem relayInto_of_full (h : s.masked r.kind r.lane = false) (hn : 128 ≤ s.notices.length) : s.relayInto i r =
    { s with alerts := s.alerts.set i (some { r with relayed := false }), noticeDrops := bump s.noticeDrops } := by
  unfold State.relayInto
  rw [h, notice_of_full hn, State.noticeRoom, decide_eq_false (Nat.not_lt.mpr hn)]
  rfl

/-- An event with the key of a record coalesces into it (R153). -/
theorem raiseAlert_of_key (hd : s.alertsDistinct) (hi : s.alerts[i] = some r) (hk : r.hasKey e = true) :
    s.raiseAlert e = s.relayInto i (r.coalesce e s.tick) := by
  have found : s.findAlert e = some i := by
    unfold State.findAlert
    rw [← Fin.find?_eq_find?_finRange, Fin.find?_eq_some_iff]
    refine ⟨by rw [hi]; exact hk, fun j hj => ?_⟩
    cases hq : s.alerts[j] with
    | none => simp
    | some q =>
      refine Bool.eq_false_iff.mpr fun same => hj.ne ?_
      obtain ⟨kind, lane, slot⟩ := (hasKey_iff r e).mp hk
      obtain ⟨kind', lane', slot'⟩ := (hasKey_iff q e).mp same
      exact hd j i q r hq hi (kind'.trans kind.symm) (lane'.trans lane.symm) (slot'.trans slot.symm)
  unfold State.raiseAlert
  rw [found]
  dsimp only
  rw [hi]

/-- An event with a new key fills the lowest-numbered free record (R153). -/
theorem raiseAlert_of_free (hn : s.findAlert e = none) (hi : s.alerts[i] = none) (hl : ∀ k, k < i → s.alerts[k] ≠ none) :
    s.raiseAlert e = s.relayInto i (e.record s.tick) := by
  have free : s.freeAlert = some i := by
    unfold State.freeAlert
    rw [← Fin.find?_eq_find?_finRange, Fin.find?_eq_some_iff]
    exact ⟨by rw [hi]; rfl, fun j hj => by simpa using Option.isSome_iff_ne_none.mpr (hl j hj)⟩
  unfold State.raiseAlert
  rw [hn, free]

/-- At a full log an event with a new key is counted, and relayed as not logged unless it is masked (R155, R156). -/
theorem raiseAlert_of_overflow (hn : s.findAlert e = none) (hf : ∀ k : Fin 32, s.alerts[k] ≠ none) : s.raiseAlert e =
    let t := { s with overflow := true, overflowCount := bump s.overflowCount }
    if s.masked e.kind e.lane then t else t.notice (.alert none true (e.record s.tick)) := by
  have full : s.freeAlert = none := by
    unfold State.freeAlert
    rw [List.find?_eq_none]
    exact fun k _ => by simpa using hf k
  unfold State.raiseAlert
  rw [hn, full]
  rfl

end

/-- Settles O39: by whether a record has the event's key, whether one is free, and by the mask and the room in the notice queue. -/
theorem alertEventsCoalesceByKey : Obligations.AlertEventsCoalesceByKey := by
  intro s e
  dsimp only
  refine ⟨fun i r hd hi hr => ?key, fun i hn hi hl => ?free, fun hn hf => ?overflow⟩
  case key =>
    obtain ⟨q, hq, kind, lane, slot⟩ := hi
    obtain rfl : r = q := Option.some.inj (hr.symm.trans hq)
    have stored : r.coalesce e s.tick = ⟨e.kind, e.lane, e.slot, e.account, e.copy, e.sheet, r.first, s.tick, min (r.count + 1) 255,
        min (r.lost + e.lost) 65535, r.relayed⟩ := by
      rw [← kind, ← lane, ← slot]
      rfl
    rw [raiseAlert_of_key hd hr ((hasKey_iff r e).mpr ⟨kind, lane, slot⟩), stored]
    exact ⟨fun h => relayInto_of_masked h, fun h hn => relayInto_of_room h hn, fun h hn => relayInto_of_full h hn⟩
  case free =>
    have none_found : s.findAlert e = none := (findAlert_eq_none_iff s e).mpr fun k q hq hk => hn k ⟨q, hq, hk⟩
    rw [raiseAlert_of_free none_found hi hl]
    exact ⟨fun h => relayInto_of_masked h, fun h hn => relayInto_of_room h hn, fun h hn => relayInto_of_full h hn⟩
  case overflow =>
    have none_found : s.findAlert e = none := (findAlert_eq_none_iff s e).mpr fun k q hq hk => hn k ⟨q, hq, hk⟩
    rw [raiseAlert_of_overflow none_found hf]
    dsimp only
    refine ⟨fun h => if_pos h, fun h room => ?_, fun h full => ?_⟩
    · rw [h]
      exact notice_of_room (s := { s with overflow := true, overflowCount := bump s.overflowCount }) room _
    · rw [h]
      exact notice_of_full (s := { s with overflow := true, overflowCount := bump s.overflowCount }) full _

/-! ## ALERT-READ -/

/-- A number that is the sum of the powers of two that a test picks has exactly those bits. -/
theorem testBit_sum_powers {n : Nat} (p : Fin n → Bool) (k : Fin n) :
    (((List.finRange n).map fun i => if p i then 2 ^ i.val else 0).sum).testBit k = p k := by
  induction n with
  | zero => exact k.elim0
  | succ n ih =>
    have rest : ((List.finRange n).map fun i => if p i.succ then 2 ^ i.succ.val else 0).sum =
        2 * ((List.finRange n).map fun i => if p i.succ then 2 ^ i.val else 0).sum := by
      rw [← List.sum_map_mul_left]
      refine congrArg List.sum (List.map_congr_left fun i _ => ?_)
      split
      · rw [Fin.val_succ, Nat.pow_succ, Nat.mul_comm]
      · rfl
    have total : ((List.finRange (n + 1)).map fun i => if p i then 2 ^ i.val else 0).sum =
        (p 0).toNat + 2 * ((List.finRange n).map fun i => if p i.succ then 2 ^ i.val else 0).sum := by
      rw [List.finRange_succ, List.map_cons, List.sum_cons, List.map_map, Function.comp_def, rest]
      cases p 0 <;> rfl
    rw [total]
    cases k using Fin.cases with
    | zero =>
      rw [Fin.val_zero, Nat.testBit_zero, Nat.add_mul_mod_self_left]
      cases p 0 <;> rfl
    | succ k =>
      rw [Fin.val_succ, Nat.testBit_succ, Nat.add_mul_div_left _ _ (by decide), Nat.div_eq_of_lt (Bool.toNat_lt _), Nat.zero_add]
      exact ih (fun i => p i.succ) k

/-- Bit k of the flags of a test says whether record k is in use and picked (R177). -/
theorem getLsbD_alertFlags (s : State) (pick : AlertRecord → Bool) (k : Fin 32) :
    (val32 (s.alertFlags pick)).getLsbD k = (s.alerts[k]).any pick := by
  have flags : s.alertFlags pick = ((List.finRange 32).map fun i => if (s.alerts[i]).any pick then 2 ^ i.val else 0).sum := by
    refine congrArg List.sum (List.map_congr_left fun i _ => ?_)
    cases s.alerts[i] <;> rfl
  rw [val32, BitVec.getLsbD_ofNat, flags, testBit_sum_powers, decide_eq_true k.isLt, Bool.true_and]

@[simp] theorem taken_readLog (s : State) (w : Bool) (item : Nat) : (s.taken w).readLog item = s.readLog item := by
  simp [State.readLog, State.alertFlags]

theorem readLog_of_gt (s : State) {item : Nat} (h : 1 < item) : s.readLog item = (.range, 0, 0) := by
  obtain ⟨n, rfl⟩ : ∃ n, item = n + 2 := ⟨item - 2, by omega⟩
  rfl

theorem readLog_one (s : State) : s.readLog 1 = (.done, if s.overflow = true then 1 else 0, BitVec.ofNat 32 s.overflowCount) := by
  cases h : s.overflow <;> simp [State.readLog, h, flag32, val32]

section
variable (r : AlertRecord)

theorem keyValue_eq : r.keyValue = BitVec.ofNat 4 (alertKindCode r.kind) ++
    (match r.lane with | some l => BitVec.ofNat 5 l | none => 31#5) ++ (match r.slot with | some k => BitVec.ofNat 9 k | none => 511#9) ++
    BitVec.ofNat 3 0 ++ (match r.account with | some a => BitVec.ofNat 11 a | none => 2047#11) := by
  have lane : (match r.lane with | some l => BitVec.ofNat 5 l | none => 31#5).toNat = (r.lane.map (·.val)).getD 31 := by
    cases r.lane with
    | some l => exact Nat.mod_eq_of_lt (by omega)
    | none => rfl
  have slot : (match r.slot with | some k => BitVec.ofNat 9 k | none => 511#9).toNat = (r.slot.map (·.val)).getD 511 := by
    cases r.slot with
    | some k => exact Nat.mod_eq_of_lt (by omega)
    | none => rfl
  have account : (match r.account with | some a => BitVec.ofNat 11 a | none => 2047#11).toNat =
      (r.account.map (·.val)).getD 2047 := by
    cases r.account with
    | some a => exact Nat.mod_eq_of_lt (by omega)
    | none => rfl
  rw [ofNat_append, ofNat_append, ofNat_append, ofNat_append, lane, slot, account]
  refine congrArg (BitVec.ofNat 32) ?_
  simp only [BitVec.toNat_ofNat]
  omega

theorem alertRead_two (h : r.count < 256) : r.read 2 = (.done,
    BitVec.ofNat 16 0 ++ BitVec.ofNat 8 r.count ++ BitVec.ofNat 7 0 ++ BitVec.ofBool r.relayed, BitVec.ofNat 32 r.lost) := by
  have := Bool.toNat_lt r.relayed
  simp only [AlertRecord.read, Prod.mk.injEq, true_and, val32, and_true]
  rw [ofNat_append, ofNat_append, ofNat_append]
  refine congrArg (BitVec.ofNat 32) ?_
  simp only [BitVec.toNat_ofNat, BitVec.toNat_ofBool]
  omega

end

section
variable {s : State} {record item : Word32}

/-- The log as a whole is read by its item (R158). -/
theorem exec_alertRead_of_log (h : s.takeable (.alertRead wholeLog item) = true) {r : Result} {v1 v2 : Word32}
    (hv : s.readLog item.toNat = (r, v1, v2)) :
    ∃ t, exec (.alertRead wholeLog item) s = .next t ∧ Concludes (s.taken false) t [⟨s.queue.take, r, v1, v2⟩] := by
  show ∃ t, execAlertRead wholeLog item s = .next t ∧ _
  unfold execAlertRead
  refine takeDirective_reports h ?_
  rw [if_pos rfl, taken_readLog, hv]

/-- A record number above 31 is out of range (R158). -/
theorem exec_alertRead_of_record_gt (h : s.takeable (.alertRead record item) = true) (hr : 31 < record.toNat)
    (hl : record ≠ wholeLog) :
    ∃ t, exec (.alertRead record item) s = .next t ∧ Concludes (s.taken false) t [⟨s.queue.take, .range, 0, 0⟩] := by
  show ∃ t, execAlertRead record item s = .next t ∧ _
  unfold execAlertRead
  refine takeDirective_reports h ?_
  rw [if_neg hl, toIndex_of_ge (n := 32) hr]
  rfl

theorem ne_wholeLog {i : Fin 32} (hi : record.toNat = i) : record ≠ wholeLog := by
  rintro rfl
  have : (4294967295 : Nat) = i := hi
  omega

variable {i : Fin 32}

/-- A record has no item above 2 (R158). -/
theorem exec_alertRead_of_item_gt (h : s.takeable (.alertRead record item) = true) (hi : record.toNat = i) (hm : 2 < item.toNat) :
    ∃ t, exec (.alertRead record item) s = .next t ∧ Concludes (s.taken false) t [⟨s.queue.take, .range, 0, 0⟩] := by
  show ∃ t, execAlertRead record item s = .next t ∧ _
  unfold execAlertRead
  refine takeDirective_reports h ?_
  rw [if_neg (ne_wholeLog hi), toIndex_of_eq i hi]
  exact if_pos hm

/-- A free record has nothing to read (R158). -/
theorem exec_alertRead_of_free (h : s.takeable (.alertRead record item) = true) (hi : record.toNat = i) (hm : item.toNat ≤ 2)
    (hf : s.alerts[i] = none) :
    ∃ t, exec (.alertRead record item) s = .next t ∧ Concludes (s.taken false) t [⟨s.queue.take, .state, 0, 0⟩] := by
  show ∃ t, execAlertRead record item s = .next t ∧ _
  unfold execAlertRead
  refine takeDirective_reports h ?_
  rw [if_neg (ne_wholeLog hi), toIndex_of_eq i hi]
  dsimp only
  rw [if_neg (by omega), taken_alerts, hf]
  rfl

/-- A record in use gives its item's values (R158). -/
theorem exec_alertRead_of_values (h : s.takeable (.alertRead record item) = true) (hi : record.toNat = i) {q : AlertRecord}
    (hq : s.alerts[i] = some q) {n : Nat} (hm : item.toNat = n) (hn : n ≤ 2) {r : Result} {v1 v2 : Word32}
    (hv : q.read n = (r, v1, v2)) :
    ∃ t, exec (.alertRead record item) s = .next t ∧ Concludes (s.taken false) t [⟨s.queue.take, r, v1, v2⟩] := by
  show ∃ t, execAlertRead record item s = .next t ∧ _
  unfold execAlertRead
  refine takeDirective_reports h ?_
  rw [if_neg (ne_wholeLog hi), toIndex_of_eq i hi]
  dsimp only
  rw [if_neg (by omega), taken_alerts, hq]
  dsimp only
  rw [hm, hv]

end

/-- Settles O40: the log as a whole by its item, and a record by its number, its item and whether it is in use. -/
theorem alertReadReportsTheLog : Obligations.AlertReadReportsTheLog := by
  intro s record item h
  dsimp only
  refine ⟨exec_alertRead_of_record_gt h, fun hl => ?log, fun i hi => ⟨exec_alertRead_of_item_gt h hi, exec_alertRead_of_free h hi,
    fun r hr => ⟨fun h0 => ?item0, fun h1 => ?item1, fun h2 hc => ?item2⟩⟩⟩
  case log =>
    subst hl
    refine ⟨fun hm => exec_alertRead_of_log h (readLog_of_gt s hm), fun h0 => ?_, fun h1 => ?_⟩
    · subst h0
      refine ⟨_, _, exec_alertRead_of_log h rfl, fun k => ⟨?_, ?_⟩⟩
      · rw [getLsbD_alertFlags, Option.any_eq_true]
        simp [Option.ne_none_iff_exists']
      · rw [getLsbD_alertFlags, Option.any_eq_true]
        simp
    · subst h1
      exact exec_alertRead_of_log h (readLog_one s)
  case item0 =>
    refine exec_alertRead_of_values h hi hr (n := 0) (by rw [h0]; rfl) (by decide) ?_
    exact congrArg₂ (fun v w => (Result.done, v, w)) (keyValue_eq r) (pack16_eq_append _ _)
  case item1 => exact exec_alertRead_of_values h hi hr (n := 1) (by rw [h1]; rfl) (by decide) rfl
  case item2 => exact exec_alertRead_of_values h hi hr (n := 2) (by rw [h2]; rfl) (by decide) (alertRead_two r hc)

/-! ## ALERT-ACK -/

theorem occupiedAlerts_eq (s : State) : s.occupiedAlerts = (List.finRange 32).countP fun k => (s.alerts[k]).isSome := by
  have entries : s.alerts.toList = (List.finRange 32).map fun k => s.alerts[k] := by
    refine List.ext_getElem (by simp) fun k h _ => ?_
    simp
  rw [State.occupiedAlerts, entries, List.countP_map]
  rfl

/-- Settles O41: the log as a whole, and a record by its number and whether it is in use. -/
theorem alertAckFreesRecords : Obligations.AlertAckFreesRecords := by
  intro s record h
  dsimp only
  show (_ → _ → ∃ t, execAlertAck record s = .next t ∧ _) ∧ (_ → ∃ t, execAlertAck record s = .next t ∧ _) ∧
    ∀ i : Fin 32, _ → (_ → ∃ t, execAlertAck record s = .next t ∧ _) ∧ ∀ r, _ → ∃ t, execAlertAck record s = .next t ∧ _
  unfold execAlertAck
  refine ⟨fun hr hl => takeDirective_reports h ?range, fun hl => takeDirective_changes h _ ?log rfl (taken_todo s false),
    fun i hi => ⟨fun hn => takeDirective_reports h ?free, fun r hr => takeDirective_changes h _ ?used rfl (taken_todo s false)⟩⟩
  case range =>
    rw [if_neg hl, toIndex_of_ge (n := 32) hr]
    rfl
  case log =>
    rw [if_pos hl, ← occupiedAlerts_eq, taken_overflowCount, State.occupiedAlerts, State.occupiedAlerts, taken_alerts]
    rfl
  case free =>
    rw [if_neg (ne_wholeLog hi), toIndex_of_eq i hi]
    dsimp only
    rw [taken_alerts, hn]
    rfl
  case used =>
    rw [if_neg (ne_wholeLog hi), toIndex_of_eq i hi]
    dsimp only
    rw [taken_alerts, hr]
    rfl

end Sys2Proof.Machine
end

section
/-! PROOF. ALERT-MASK and the relaying of held records (R157, R158), and LANE-SET (R81 to R83). -/

namespace Sys2Proof.Machine

/-! ## The relaying of held records -/

/-- Whether a record waits for its relay and is of a kind just unmasked (R157). -/
def State.dueToRelay (s : State) (p : AlertRecord → Bool) (k : Fin 32) : Bool := (s.alerts[k]).any fun r => !r.relayed && p r

/-- The notice that relays a record as it stands (R157). -/
def State.relayNotice (s : State) (k : Fin 32) : Option Notice := (s.alerts[k]).map fun r => .alert (some k) false r

section
variable {s : State} {p : AlertRecord → Bool} {i : Fin 32}

theorem dueToRelay_iff : s.dueToRelay p i = true ↔ ∃ r, s.alerts[i] = some r ∧ r.relayed = false ∧ p r = true := by
  simp [State.dueToRelay, Option.any_eq_true]

theorem relayHeld_of_not_due (h : s.dueToRelay p i = false) : s.relayHeld p i = s := by
  unfold State.relayHeld
  cases hr : s.alerts[i] with
  | none => rfl
  | some r =>
    refine if_neg fun hp => ?_
    rw [State.dueToRelay, hr] at h
    exact Bool.eq_false_iff.mp h hp

theorem relayHeld_of_due {r : AlertRecord} (hr : s.alerts[i] = some r) (hp : (!r.relayed && p r) = true)
    (hn : s.notices.length < 128) : s.relayHeld p i =
      { s with alerts := s.alerts.set i (some { r with relayed := true }), notices := s.notices ++ [.alert (some i) false r] } := by
  unfold State.relayHeld
  rw [hr]
  dsimp only
  rw [if_pos hp, notice_of_room hn, State.noticeRoom, decide_eq_true hn]

/-- With room for all of them, the records due among those visited are relayed in the order of the visits, and no other changes. -/
theorem foldl_relayHeld (p : AlertRecord → Bool) (l : List (Fin 32)) (s : State) (hd : l.Nodup)
    (hn : s.notices.length + l.length ≤ 128) :
    ∃ alerts, l.foldl (fun t i => t.relayHeld p i) s =
        { s with alerts := alerts, notices := s.notices ++ (l.filter (s.dueToRelay p)).filterMap s.relayNotice } ∧
      ∀ k : Fin 32, alerts[k] =
        if k ∈ l ∧ s.dueToRelay p k = true then (s.alerts[k]).map fun r => { r with relayed := true } else s.alerts[k] := by
  induction l generalizing s with
  | nil => exact ⟨s.alerts, by simp, by simp⟩
  | cons i rest ih =>
    obtain ⟨fresh, hd⟩ := List.nodup_cons.mp hd
    rw [List.length_cons] at hn
    rw [List.foldl_cons]
    cases hp : s.dueToRelay p i with
    | false =>
      rw [relayHeld_of_not_due hp, List.filter_cons_of_neg (by simp [hp])]
      obtain ⟨alerts, ht, ha⟩ := ih s hd (by omega)
      refine ⟨alerts, ht, fun k => (ha k).trans ?_⟩
      by_cases hk : k = i
      · subst hk
        simp [hp]
      · simp [hk]
    | true =>
      obtain ⟨r, hr, hrelayed, hpr⟩ := dueToRelay_iff.mp hp
      have step := relayHeld_of_due (p := p) hr (by simp [hrelayed, hpr]) (by omega)
      rw [step, List.filter_cons_of_pos hp]
      obtain ⟨alerts, ht, ha⟩ := ih { s with
        alerts := s.alerts.set i (some { r with relayed := true }), notices := s.notices ++ [.alert (some i) false r] } hd (by
          rw [List.length_append, List.length_singleton]; omega)
      have read : ∀ k : Fin 32, k ≠ i → (s.alerts.set i (some { r with relayed := true }))[k] = s.alerts[k] := fun k hk => by
        simp [Ne.symm (Fin.val_ne_of_ne hk)]
      have ne_of_mem : ∀ k ∈ rest, k ≠ i := fun k hk e => fresh (e ▸ hk)
      have due : ∀ k, k ≠ i → State.dueToRelay { s with
          alerts := s.alerts.set i (some { r with relayed := true }), notices := s.notices ++ [.alert (some i) false r] } p k =
          s.dueToRelay p k := fun k hk => by
        unfold State.dueToRelay
        rw [read k hk]
      refine ⟨alerts, ht.trans ?_, fun k => (ha k).trans ?_⟩
      · rw [List.filter_congr fun k hk => due k (ne_of_mem k hk)]
        have notices : ∀ k ∈ rest.filter (s.dueToRelay p), State.relayNotice { s with
            alerts := s.alerts.set i (some { r with relayed := true }), notices := s.notices ++ [.alert (some i) false r] } k =
            s.relayNotice k := fun k hk => by
          unfold State.relayNotice
          rw [read k (ne_of_mem k (List.mem_of_mem_filter hk))]
        rw [List.filterMap_congr notices, List.filterMap_cons_some (show s.relayNotice i = some (.alert (some i) false r) by
          rw [State.relayNotice, hr]; rfl), List.append_assoc]
        rfl
      · by_cases hk : k = i
        · subst hk
          rw [if_neg fun h => fresh h.1, if_pos ⟨by simp, hp⟩, hr]
          simp
        · rw [due k hk, read k hk]
          simp [hk]

/-- Where no record waits for its relay, no change of a mask relays one (R157). -/
theorem relayUnmasked_of_relayed (h : ∀ (k : Fin 32) r, s.alerts[k] = some r → r.relayed = true) (p : AlertRecord → Bool) :
    s.relayUnmasked p = s := by
  refine foldl_eq_self _ fun k _ => relayHeld_of_not_due (Bool.eq_false_iff.mpr fun hd => ?_)
  obtain ⟨r, hr, hrelayed, -⟩ := dueToRelay_iff.mp hd
  rw [h k r hr] at hrelayed
  cases hrelayed

end

/-! ## ALERT-MASK -/

/-- The bit of an intake kind in the intake mask (R175). -/
theorem unmaskedAtIntake_iff (old : BitVec 4) (mask : Word32) (r : AlertRecord) :
    unmaskedAtIntake old (mask.setWidth 4) r = true ↔
      ∃ b, (match r.kind with
        | .overrun => some 0 | .sheetDamaged => some 1 | .recordShort => some 2 | .accountHold => some 3 | _ => none) = some b ∧
        old.getLsbD b = true ∧ mask.getLsbD b = false := by
  unfold unmaskedAtIntake
  cases r.kind <;> simp [AlertKind.isIntake, AlertKind.maskBit]

/-- Where every element has an image, `filterMap` keeps them all. -/
theorem map_some_filterMap {α β : Type} {f : α → Option β} (l : List α) (h : ∀ a ∈ l, f a ≠ none) :
    (l.filterMap f).map some = l.map f := by
  induction l with
  | nil => rfl
  | cons a rest ih =>
    obtain ⟨b, hb⟩ := Option.ne_none_iff_exists'.mp (h a (by simp))
    rw [List.filterMap_cons_some hb, List.map_cons, List.map_cons, hb, ih fun c hc => h c (by simp [hc])]

/-- Settles O42: the records due are relayed one by one, since the notice queue has room for each of the 32. -/
theorem alertMaskRelaysWhatItUnmasks : Obligations.AlertMaskRelaysWhatItUnmasks := by
  intro s mask h hn bit due
  have hdue : ∀ r, due r ↔ r.relayed = false ∧ unmaskedAtIntake s.intakeMask (mask.setWidth 4) r = true :=
    fun r => and_congr_right fun _ => (unmaskedAtIntake_iff s.intakeMask mask r).symm
  clear_value due
  obtain ⟨alerts, ht, ha⟩ := foldl_relayHeld (unmaskedAtIntake s.intakeMask (mask.setWidth 4)) (List.finRange 32)
    { s.taken false with intakeMask := mask.setWidth 4 } (List.nodup_finRange 32) (by simpa using hn)
  have waits : ∀ k, State.dueToRelay { s.taken false with intakeMask := mask.setWidth 4 }
      (unmaskedAtIntake s.intakeMask (mask.setWidth 4)) k = true ↔ ∃ r, s.alerts[k] = some r ∧ due r := fun k => by
    rw [dueToRelay_iff]
    simp only [hdue, taken_alerts]
  generalize hks : (List.finRange 32).filter (State.dueToRelay { s.taken false with intakeMask := mask.setWidth 4 }
    (unmaskedAtIntake s.intakeMask (mask.setWidth 4))) = ks at ht
  generalize hadded : ks.filterMap (State.relayNotice { s.taken false with intakeMask := mask.setWidth 4 }) = added at ht
  rw [taken_notices] at ht
  obtain ⟨t, hrun, hends⟩ : ∃ t, exec (.alertMask mask) s = .next t ∧
      Concludes { s.taken false with intakeMask := mask.extractLsb' 0 4, alerts := alerts, notices := s.notices ++ added } t
        [⟨s.queue.take, .done, 0#28 ++ s.intakeMask, BitVec.ofNat 32 added.length⟩] := by
    show ∃ t, execAlertMask mask s = .next t ∧ _
    unfold execAlertMask
    refine takeDirective_changes h _ ?_ rfl (taken_todo s false)
    dsimp only
    rw [taken_intakeMask, State.relayUnmasked, ht, BitVec.setWidth_eq_extractLsb' (by decide), setWidth_eq_append (m := 28)]
    dsimp only
    rw [taken_notices, List.length_append, Nat.add_sub_cancel_left]
    rfl
  have none_due : ∀ k, s.alerts[k] = none → ¬State.dueToRelay { s.taken false with intakeMask := mask.setWidth 4 }
      (unmaskedAtIntake s.intakeMask (mask.setWidth 4)) k = true := fun k hk hd => by
    obtain ⟨r, hr, -⟩ := (waits k).mp hd
    rw [hk] at hr
    cases hr
  refine ⟨t, alerts, added, hrun, hends, fun k hk => ?_, fun k r hr hd => ?_, fun k r hr hd => ?_, ks, ?_, fun k => ?_, ?_⟩
  · rw [ha k, if_neg fun hk' => none_due k hk hk'.2, taken_alerts, hk]
  · rw [ha k, if_pos ⟨List.mem_finRange k, (waits k).mpr ⟨r, hr, hd⟩⟩, taken_alerts, hr]
    rfl
  · rw [ha k, if_neg, taken_alerts, hr]
    rintro ⟨-, hk⟩
    obtain ⟨q, hq, hdq⟩ := (waits k).mp hk
    exact hd (Option.some.inj (hr.symm.trans hq) ▸ hdq)
  · exact hks ▸ (List.pairwise_lt_finRange 32).filter _
  · rw [← waits, ← hks, List.mem_filter]
    simp
  · rw [← hadded, map_some_filterMap]
    · refine List.map_congr_left fun k _ => ?_
      show ((s.taken false).alerts[k]).map _ = _
      rw [taken_alerts]
    · intro k hk
      rw [← hks, List.mem_filter] at hk
      obtain ⟨r, hr, -⟩ := (waits k).mp hk.2
      simp [State.relayNotice, hr]

/-- An event that notes one completion and leads to nothing else ends with it. -/
theorem concludes_answer {u v : State} (hu : u = { v with todo := u.todo }) (ht : v.todo = Todo.nothing)
    (hg : v.queue.resetTaken = false) (p : QueuePtr) (a : Result × Word32 × Word32) :
    Concludes u (v.answer p a).finish [⟨p, a.1, a.2.1, a.2.2⟩] := by
  have todo : (v.answer p a).todo = ⟨[], [], [], [⟨p, a.1, a.2.1, a.2.2⟩], false⟩ := by
    rw [State.answer, State.complete_todo, ht]
    rfl
  have ends := finish_concludes (v.answer p a) (by rw [todo]; simp) (by rw [todo]; simp) (by rw [todo]) hg (by rw [todo]; simp)
  rw [todo] at ends
  exact ends.of_todo hu

/-! ## A lane that waits for work -/

section
variable {s : State} {l : LaneNo}

/-- An enabled lane enters READY at the tail of its pool's ready-lane queue, and gives the pool a dispatch opportunity (R54, R82). -/
theorem enterIdle_of_enabled (h : (s.lane l).current.enable = true) : s.enterIdle l =
    ((s.setLane l { s.lane l with state := .ready }).setPool (s.lane l).current.pool { s.pool (s.lane l).current.pool with
      ready := (s.pool (s.lane l).current.pool).ready ++ [l] }).noteDispatch (s.lane l).current.pool := if_pos h

/-- A lane that is not enabled enters OFFLINE (R82). -/
theorem enterIdle_of_disabled (h : (s.lane l).current.enable = false) :
    s.enterIdle l = s.setLane l { s.lane l with state := .offline } := if_neg (by simp [h])

/-- A pool whose classes are empty has no job queued. -/
theorem queueOrder_congr {p q : Pool} (h : p.classes = q.classes) : p.queueOrder = q.queueOrder := by
  unfold Pool.queueOrder
  rw [h]

/-! ## LANE-SET -/

variable {set : Settings}

/-- A lane that is neither READY nor OFFLINE takes a set as it stands (R82). -/
theorem applySet_of_busy (hr : (s.lane l).state ≠ .ready) (ho : (s.lane l).state ≠ .offline) :
    s.applySet l set = s.setLane l { s.lane l with current := set } := by
  unfold State.applySet
  dsimp only
  split
  · contradiction
  · contradiction
  · rfl

/-- The table of R82 for a READY lane. -/
theorem applySet_of_ready (hr : (s.lane l).state = .ready) : s.applySet l set =
    if set.enable && set.pool == (s.lane l).current.pool then s.modLane l fun r => { r with current := set }
    else ((s.leaveReady l).modLane l fun r => { r with current := set }).enterIdle l := by
  unfold State.applySet
  dsimp only
  rw [hr]

theorem applySet_of_same_pool (hr : (s.lane l).state = .ready) (he : set.enable = true) (hp : set.pool = (s.lane l).current.pool) :
    s.applySet l set = s.setLane l { s.lane l with current := set } := by
  rw [applySet_of_ready hr, he, hp, beq_self_eq_true]
  rfl

/-- A READY lane that changes its pool or is no longer enabled leaves its ready-lane queue (R82). -/
theorem applySet_of_leaving (hr : (s.lane l).state = .ready) (h : set.enable = false ∨ set.pool ≠ (s.lane l).current.pool) :
    s.applySet l set = ((s.leaveReady l).modLane l fun r => { r with current := set }).enterIdle l := by
  rw [applySet_of_ready hr]
  refine if_neg ?_
  rw [Bool.and_eq_true, beq_iff_eq]
  rintro ⟨he, hp⟩
  rcases h with h | h
  · rw [he] at h
    cases h
  · exact h hp

theorem applySet_of_offline (ho : (s.lane l).state = .offline) :
    s.applySet l set = (s.modLane l fun r => { r with current := set }).enterIdle l := by
  unfold State.applySet
  simp only [ho]

theorem filter_bne_eq {α : Type} [DecidableEq α] (a : α) (xs : List α) : xs.filter (· != a) = xs.filter (· ≠ a) :=
  List.filter_congr fun x _ => by by_cases h : x = a <;> simp [h]

/-- A READY lane leaves its ready-lane queue (R54). -/
theorem leaveReady_eq : s.leaveReady l = s.setPool (s.lane l).current.pool { s.pool (s.lane l).current.pool with
    ready := (s.pool (s.lane l).current.pool).ready.filter (· ≠ l) } := by
  rw [← filter_bne_eq]
  rfl

/-- A READY lane that goes over to another pool joins the tail of its ready-lane queue (R82). -/
theorem applySet_of_other_pool (hr : (s.lane l).state = .ready) (he : set.enable = true) (hp : set.pool ≠ (s.lane l).current.pool) :
    s.applySet l set = (((s.leaveReady l).setLane l { s.lane l with current := set }).setPool set.pool
      { s.pool set.pool with ready := (s.pool set.pool).ready ++ [l] }).noteDispatch set.pool := by
  have lane : ((s.leaveReady l).modLane l fun r => { r with current := set }).lane l = { s.lane l with current := set } :=
    State.lane_modLane_self ..
  have pool : ((s.leaveReady l).modLane l fun r => { r with current := set }).pool set.pool = s.pool set.pool := by
    rw [State.pool_modLane, State.leaveReady, State.pool_modPool, if_neg (Ne.symm hp)]
  rw [applySet_of_leaving hr (.inr hp), enterIdle_of_enabled (by rw [lane]; exact he), lane]
  dsimp only
  rw [pool, State.modLane, setLane_setLane, ← hr]

/-- A READY lane that is no longer enabled leaves its ready-lane queue and is OFFLINE (R82). -/
theorem applySet_of_disabled (hr : (s.lane l).state = .ready) (he : set.enable = false) :
    s.applySet l set = (s.leaveReady l).setLane l { s.lane l with current := set, state := .offline } := by
  have lane : ((s.leaveReady l).modLane l fun r => { r with current := set }).lane l = { s.lane l with current := set } :=
    State.lane_modLane_self ..
  rw [applySet_of_leaving hr (.inl he), enterIdle_of_disabled (by rw [lane]; exact he), lane, State.modLane, setLane_setLane]

/-- An OFFLINE lane that becomes enabled is READY at the tail of its pool's ready-lane queue (R82). -/
theorem applySet_of_offline_enabled (ho : (s.lane l).state = .offline) (he : set.enable = true) :
    s.applySet l set = ((s.setLane l { s.lane l with current := set, state := .ready }).setPool set.pool
      { s.pool set.pool with ready := (s.pool set.pool).ready ++ [l] }).noteDispatch set.pool := by
  have lane : (s.modLane l fun r => { r with current := set }).lane l = { s.lane l with current := set } :=
    State.lane_modLane_self ..
  rw [applySet_of_offline ho, enterIdle_of_enabled (by rw [lane]; exact he), lane]
  dsimp only
  rw [State.pool_modLane, State.modLane, setLane_setLane]

theorem applySet_of_offline_disabled (ho : (s.lane l).state = .offline) (he : set.enable = false) :
    s.applySet l set = s.setLane l { s.lane l with current := set } := by
  have lane : (s.modLane l fun r => { r with current := set }).lane l = { s.lane l with current := set } :=
    State.lane_modLane_self ..
  rw [applySet_of_offline ho, enterIdle_of_disabled (by rw [lane]; exact he), lane, State.modLane, setLane_setLane]
  dsimp only
  rw [← ho]

/-- What the effect of a set on a lane with no job bound can touch. -/
theorem enterIdle_frame : s.enterIdle l = { s with
    lanes := (s.enterIdle l).lanes, pools := (s.enterIdle l).pools
    todo := { s.todo with pools := (s.enterIdle l).todo.pools } } := by
  unfold State.enterIdle
  split <;> rfl

theorem applySet_frame : s.applySet l set = { s with
    lanes := (s.applySet l set).lanes, pools := (s.applySet l set).pools
    todo := { s.todo with pools := (s.applySet l set).todo.pools } } := by
  unfold State.applySet
  dsimp only
  split
  · split
    · rfl
    · conv_lhs => rw [enterIdle_frame]
      rfl
  · conv_lhs => rw [enterIdle_frame]
    rfl
  · rfl

/-- Idle lanes that come and go leave the jobs queued as they are. -/
theorem enterIdle_classes (p : PoolNo) : ((s.enterIdle l).pool p).classes = (s.pool p).classes := by
  unfold State.enterIdle
  split
  · rw [State.pool_noteDispatch, State.pool_modPool, State.pool_modLane]
    split
    · rename_i h
      rw [h]
    · rfl
  · rw [State.pool_modLane]

theorem leaveReady_classes (p : PoolNo) : ((s.leaveReady l).pool p).classes = (s.pool p).classes := by
  unfold State.leaveReady
  rw [State.pool_modPool]
  split
  · rename_i h
    rw [h]
  · rfl

theorem applySet_classes (p : PoolNo) : ((s.applySet l set).pool p).classes = (s.pool p).classes := by
  unfold State.applySet
  dsimp only
  split
  · split
    · rw [State.pool_modLane]
    · rw [enterIdle_classes, State.pool_modLane, leaveReady_classes]
  · rw [enterIdle_classes, State.pool_modLane]
  · rw [State.pool_modLane]

/-- With no record waiting for its relay and no job queued, a set that takes effect at once does no more than that (R81, R82). -/
theorem setNow_of_quiet (hr : ∀ (k : Fin 32) r, s.alerts[k] = some r → r.relayed = true) (hq : ∀ p, (s.pool p).queueOrder = [])
    (p : QueuePtr) : s.setNow l set p = ({ s.applySet l set with todo := { s.todo with pools := [] } } : State).answer p
      (.done, val32 (laneStateCode ((s.applySet l set).lane l).state), 0) := by
  have alerts : (s.applySet l set).alerts = s.alerts := by rw [applySet_frame]
  have todo : (s.applySet l set).todo = { s.todo with pools := (s.applySet l set).todo.pools } := congrArg State.todo applySet_frame
  unfold State.setNow
  rw [relayUnmasked_of_relayed (by rw [alerts]; exact hr), dispatchNoted_idle _ fun q _ =>
    .inr ((queueOrder_congr (applySet_classes q)).trans (hq q)), todo]
  rfl

/-! ### The event -/

variable {lane silence escalation pool enable : Byte} {mask reoffer : Word16} {answer : Byte}

/-- The settings of a LANE-SET are its operands clamped into the ranges of Table 4.5. -/
theorem clampSettings_eq (hp : set.pool.val = min pool.toNat 7) (he : set.enable = true ↔ enable ≠ 0)
    (hm : set.mask = mask.extractLsb' 0 8) (hr : set.reoffer = max 10 (min 2550 reoffer.toNat) / 10 * 10)
    (ha : set.answer = max 1 (min 30 answer.toNat)) (hs : set.silence = max 2 (min 60 silence.toNat))
    (hx : set.escalation = min 60 escalation.toNat) :
    clampSettings silence escalation pool enable mask reoffer answer = set := by
  have enabled : (enable != 0) = set.enable := by
    rw [Bool.eq_iff_iff, bne_iff_ne, he]
  obtain ⟨p, e, m, r, a, si, x⟩ := set
  dsimp only at hp enabled hm hr ha hs hx
  have whichPool : (⟨min pool.toNat 7, by omega⟩ : PoolNo) = p := Fin.ext hp.symm
  rw [clampSettings, enabled, whichPool, clamp_eq_max_min (by decide), clamp_eq_max_min (by decide), clamp_eq_max_min (by decide),
    hm, hr, ha, hs, hx, BitVec.setWidth_eq_extractLsb' (by decide), Nat.min_comm escalation.toNat]

/-- A lane above 15 is out of range (R81). -/
theorem exec_laneSet_of_lane_gt (h : s.takeable (.laneSet lane silence escalation pool enable mask reoffer answer) = true)
    (hl : 15 < lane.toNat) : ∃ t, exec (.laneSet lane silence escalation pool enable mask reoffer answer) s = .next t ∧
      Concludes (s.taken false) t [⟨s.queue.take, .range, 0, 0⟩] := by
  show ∃ t, execLaneSet lane silence escalation pool enable mask reoffer answer s = .next t ∧ _
  unfold execLaneSet
  refine takeDirective_reports h ?_
  rw [toIndex_of_ge (n := 16) hl]
  rfl

/-- The effect of a LANE-SET whose lane is in range. -/
theorem exec_laneSet_of_lane (h : s.takeable (.laneSet lane silence escalation pool enable mask reoffer answer) = true)
    (hi : lane.toNat = l) (hs : clampSettings silence escalation pool enable mask reoffer answer = set) :
    exec (.laneSet lane silence escalation pool enable mask reoffer answer) s = .next
      (if (s.lane l).job.isSome then (s.taken false).setLater l set s.queue.take
        else (s.taken false).setNow l set s.queue.take).finish := by
  show execLaneSet lane silence escalation pool enable mask reoffer answer s = _
  unfold execLaneSet
  rw [takeDirective_of_takeable h, toIndex_of_eq l hi, hs]
  dsimp only
  rw [taken_lane]

/-- With no job bound, no record waiting for its relay and no job queued, a LANE-SET takes effect and ends (R81, R82). -/
theorem exec_laneSet_now (h : s.takeable (.laneSet lane silence escalation pool enable mask reoffer answer) = true)
    (hi : lane.toNat = l) (hs : clampSettings silence escalation pool enable mask reoffer answer = set)
    (hj : (s.lane l).job = none) (hr : ∀ (k : Fin 32) r, s.alerts[k] = some r → r.relayed = true)
    (hq : ∀ p, (s.pool p).queueOrder = []) {u v : State} (hv : (s.taken false).applySet l set = v)
    (hu : u = { v with todo := u.todo }) {code : Nat} (hc : laneStateCode (v.lane l).state = code) :
    ∃ t, exec (.laneSet lane silence escalation pool enable mask reoffer answer) s = .next t ∧
      Concludes u t [⟨s.queue.take, .done, BitVec.ofNat 32 code, 0⟩] := by
  subst hv hc
  have now := setNow_of_quiet (s := s.taken false) (l := l) (set := set) (by rw [taken_alerts]; exact hr)
    (fun p => by rw [taken_pool]; exact hq p) s.queue.take
  refine ⟨_, exec_laneSet_of_lane h hi hs, ?_⟩
  rw [hj, Option.isSome_none, if_neg (by decide), now]
  refine concludes_answer (u := u)
    (v := { (s.taken false).applySet l set with todo := { (s.taken false).todo with pools := [] } }) (hu.trans ?_) ?_ ?_ _ _
  · rfl
  · rw [taken_todo]
    rfl
  · show ((s.taken false).applySet l set).queue.resetTaken = false
    rw [applySet_frame]
    exact (taken_going s false).trans (takeable_going h)

end

/-- The state `s` with another directive queue, and nothing left to carry out. -/
def State.atQueue (s : State) (q : DirectiveQueue) : State := { s with queue := q, todo := Todo.nothing }

theorem lane_atQueue (s : State) (q : DirectiveQueue) (l : LaneNo) : (s.atQueue q).lane l = s.lane l := rfl

theorem pool_atQueue (s : State) (q : DirectiveQueue) (p : PoolNo) : (s.atQueue q).pool p = s.pool p := rfl

/-- A directive is carried out in the state before it, with the queue moved on. -/
theorem exists_taken_eq (s : State) (w : Bool) : ∃ q, s.taken w = s.atQueue q := ⟨_, taken_frame s w⟩

/-- Settles O30: by the lane number, the bound job and the set held before; with no job bound, by the table of R82. -/
theorem laneSetTakesEffectAtOnceOrWaits : Obligations.LaneSetTakesEffectAtOnceOrWaits := by
  intro s lane silence escalation pool enable mask reoffer answer h hr hq
  refine ⟨exec_laneSet_of_lane_gt h, fun l set hi hpool henable hmask hreoffer hanswer hsilence hescalation => ?_⟩
  have hs := clampSettings_eq hpool henable hmask hreoffer hanswer hsilence hescalation
  have now := fun hj {u v : State} hv hu {code : Nat} hc => exec_laneSet_now h hi hs hj hr hq (u := u) (v := v) hv hu (code := code) hc
  have later := exec_laneSet_of_lane h hi hs
  have going := (taken_going s false).trans (takeable_going h)
  obtain ⟨q, hq⟩ := exists_taken_eq s false
  dsimp only
  rw [hq] at now later going ⊢
  refine ⟨fun hj hp => ?held, fun earlier p hj hp hne => ?supersedes, fun hj => ⟨fun hr ho => ?busy, fun hr he hp => ?samePool,
    fun hr he hp => ?otherPool, fun hr he => ?disabled, fun ho he => ?offlineEnabled, fun ho he => ?offlineDisabled⟩⟩
  case held =>
    rw [later, if_pos (Option.isSome_iff_ne_none.mpr hj), State.setLater]
    refine congrArg _ ?_
    have none_held : ((s.atQueue q).lane l).pendingSet = none := hp
    rw [none_held]
    exact finish_nothing _ rfl
  case supersedes =>
    have held : ((s.atQueue q).lane l).pendingSet = some (earlier, p) := hp
    rw [later, if_pos (Option.isSome_iff_ne_none.mpr hj), State.setLater, held]
    refine ⟨_, rfl, ?_⟩
    exact (concludes_answer (v := (s.atQueue q).modLane l fun r =>
      { r with pendingSet := some (set, s.queue.take) }) rfl rfl going p (.superseded, 0, 0))
  case busy =>
    exact now hj (applySet_of_busy (s := s.atQueue q) hr ho) rfl (by rw [State.lane_setLane_self]; rfl)
  case samePool =>
    exact now hj (applySet_of_same_pool (s := s.atQueue q) hr he hp) rfl
      (by rw [State.lane_setLane_self]; exact congrArg laneStateCode hr)
  case otherPool =>
    refine now hj (applySet_of_other_pool (s := s.atQueue q) hr he hp) ?_
      (by rw [State.lane_noteDispatch, State.lane_setPool, State.lane_setLane_self]; exact congrArg laneStateCode hr)
    rw [leaveReady_eq, lane_atQueue, pool_atQueue, pool_atQueue]
    unfold State.noteDispatch State.setPool State.setLane
    rfl
  case disabled =>
    refine now hj (applySet_of_disabled (s := s.atQueue q) hr he) ?_ (by rw [State.lane_setLane_self]; rfl)
    rw [leaveReady_eq]
    rfl
  case offlineEnabled =>
    exact now hj (applySet_of_offline_enabled (s := s.atQueue q) ho he) rfl
      (by rw [State.lane_noteDispatch, State.lane_setPool, State.lane_setLane_self]; rfl)
  case offlineDisabled =>
    exact now hj (applySet_of_offline_disabled (s := s.atQueue q) ho he) rfl
      (by rw [State.lane_setLane_self]; exact congrArg laneStateCode ho)

end Sys2Proof.Machine
end

section
/-! PROOF. POOL-RESERVE by its tests (R28), and the free queues it leaves (R29): settles O33. -/

namespace Sys2Proof.Machine

/-! ## Ranges of blocks -/

/-- The blocks of the extents `b` to `e` are those from the first block of `b` to the last of `e` (R25). -/
theorem inExtents_iff (b e k : Nat) : inExtents b e k = true ↔ b * 256 ≤ k ∧ k < (e + 1) * 256 := by
  simp only [inExtents, Config.extentBlocks, Bool.and_eq_true, decide_eq_true_eq]
  omega

theorem mem_blockRange (b e k : Nat) : k ∈ blockRange b e ↔ b * 256 ≤ k ∧ k < (e + 1) * 256 := by
  simp only [blockRange, Config.extentBlocks, List.mem_map, List.mem_range]
  exact ⟨fun ⟨d, hd, he⟩ => by omega, fun ⟨hl, hu⟩ => ⟨k - b * 256, by omega, by omega⟩⟩

theorem sortedLT_blockRange (b e : Nat) : (blockRange b e).SortedLT :=
  (List.pairwise_lt_range.map _ fun _ _ h => by omega).sortedLT

/-- Filtering the blocks of an extent range is filtering all blocks by it too (R25). -/
theorem filter_blockRange (b e : Nat) (he : e ≤ 255) (q : Nat → Bool) :
    (blockRange b e).filter q = (List.range 65536).filter fun k => decide (b * 256 ≤ k ∧ k < (e + 1) * 256) && q k := by
  have sorted : ((blockRange b e).filter q).SortedLT := ((sortedLT_blockRange b e).pairwise.filter _).sortedLT
  have sorted' : ((List.range 65536).filter fun k => decide (b * 256 ≤ k ∧ k < (e + 1) * 256) && q k).SortedLT :=
    (List.pairwise_lt_range.filter _).sortedLT
  refine List.Perm.eq_of_sortedLE sorted.sortedLE sorted'.sortedLE
    ((List.perm_ext_iff_of_nodup sorted.nodup sorted'.nodup).mpr fun k => ?_)
  simp only [List.mem_filter, mem_blockRange, List.mem_range, Bool.and_eq_true, decide_eq_true_eq]
  exact ⟨fun ⟨h, hq⟩ => ⟨by omega, h, hq⟩, fun ⟨_, h, hq⟩ => ⟨h, hq⟩⟩

theorem blockRange_eq (b e : Nat) (he : e ≤ 255) :
    blockRange b e = (List.range 65536).filter fun k => decide (b * 256 ≤ k ∧ k < (e + 1) * 256) := by
  have whole := filter_blockRange b e he fun _ => true
  simpa using whole

theorem blockRange_outside (b e b' e' : Nat) (he : e ≤ 255) : (blockRange b e).filter (fun k => !inExtents b' e' k) =
    (List.range 65536).filter fun k => decide ((b * 256 ≤ k ∧ k < (e + 1) * 256) ∧ ¬(b' * 256 ≤ k ∧ k < (e' + 1) * 256)) := by
  rw [filter_blockRange b e he]
  refine List.filter_congr fun k _ => ?_
  rw [Bool.eq_iff_iff]
  simp [← inExtents_iff]

/-! ## The tests -/

section
variable (s : State) (p : PoolNo) (b e : Nat)

/-- The second test of R28. -/
theorem overlaps_iff : s.overlaps p b e = true ↔
    ∃ q, q ≠ p ∧ b ≤ e ∧ (s.pool q).base ≤ (s.pool q).limit ∧ b ≤ (s.pool q).limit ∧ (s.pool q).base ≤ e := by
  simp only [State.overlaps, Pool.reserved, Bool.and_eq_true, List.any_eq_true, List.mem_finRange, true_and, bne_iff_ne,
    decide_eq_true_eq]
  exact ⟨fun ⟨hbe, q, ⟨⟨hq, hr⟩, hb⟩, he⟩ => ⟨q, hq, hbe, hr, hb, he⟩, fun ⟨q, hq, hbe, hr, hb, he⟩ => ⟨hbe, q, ⟨⟨hq, hr⟩, hb⟩, he⟩⟩

/-- The blocks of the old and new ranges that are in chains (R28). -/
theorem chained_eq : s.chained p b e = (s.jobs.toList.map fun j => j.chain.countP fun k =>
    decide ((b * 256 ≤ k ∧ k < (e + 1) * 256) ∨ ((s.pool p).base * 256 ≤ k ∧ k < ((s.pool p).limit + 1) * 256))).sum := by
  unfold State.chained
  refine congrArg List.sum (List.map_congr_left fun j _ => List.countP_congr fun k _ => ?_)
  simp [inExtents_iff]

/-- The shared free count after the change (R28). -/
theorem sharedAfter_eq (ho : (s.pool p).limit ≤ 255) (he : e ≤ 255) : s.sharedAfter p b e = s.sharedFree.length +
    ((List.range 65536).filter fun k => decide (((s.pool p).base * 256 ≤ k ∧ k < ((s.pool p).limit + 1) * 256) ∧
      ¬(b * 256 ≤ k ∧ k < (e + 1) * 256))).length -
    ((List.range 65536).filter fun k => decide ((b * 256 ≤ k ∧ k < (e + 1) * 256) ∧
      ¬((s.pool p).base * 256 ≤ k ∧ k < ((s.pool p).limit + 1) * 256))).length := by
  rw [← blockRange_outside _ _ _ _ ho, ← blockRange_outside _ _ _ _ he]
  rfl

/-- The third test of R28. -/
theorem reserveBusy_iff : s.reserveBusy p b e = true ↔
    0 < s.chained p b e ∨ 0 < s.promiseTotal p ∨ s.sharedAfter p b e < s.sharedTotal := by
  simp only [State.reserveBusy, Bool.or_eq_true, decide_eq_true_eq, or_assoc]

/-- The queues that R29 rebuilds. -/
theorem rebuild_eq (ho : (s.pool p).limit ≤ 255) (he : e ≤ 255) : s.rebuild p b e =
    { s with
      sharedFree := s.sharedFree.filter (fun k => decide ¬(b * 256 ≤ k ∧ k < (e + 1) * 256)) ++
        (List.range 65536).filter fun k => decide (((s.pool p).base * 256 ≤ k ∧ k < ((s.pool p).limit + 1) * 256) ∧
          ¬(b * 256 ≤ k ∧ k < (e + 1) * 256))
      pools := s.pools.set p { s.pool p with
        base := b, limit := e, free := (List.range 65536).filter fun k => decide (b * 256 ≤ k ∧ k < (e + 1) * 256) } } := by
  have outside : (fun k => !inExtents b e k) = fun k => decide ¬(b * 256 ≤ k ∧ k < (e + 1) * 256) := by
    funext k
    rw [Bool.eq_iff_iff]
    simp [← inExtents_iff]
  rw [← blockRange_eq b e he, ← blockRange_outside _ _ _ _ ho, ← outside]
  rfl

end

/-! ## The event -/

/-- Settles O33: by the tests of R28 in order, and then the queues of R29. -/
theorem poolReserveMovesFreeBlocks : Obligations.PoolReserveMovesFreeBlocks := by
  intro s pool base limit h
  show (_ → ∃ t, execPoolReserve pool base limit s = .next t ∧ _) ∧ ∀ p : PoolNo, _ → _ → _ → _ → _ →
    (_ → ∃ t, execPoolReserve pool base limit s = .next t ∧ _) ∧ (_ → _ → ∃ t, execPoolReserve pool base limit s = .next t ∧ _) ∧
    (_ → _ → _ → ∃ t, execPoolReserve pool base limit s = .next t ∧ _)
  unfold execPoolReserve
  obtain ⟨q, hq⟩ := exists_taken_eq s false
  refine ⟨fun hr => takeDirective_reports h ?_, fun p hi hb he _ hoe => ?_⟩
  · rcases hr with hp | hb
    · rw [toIndex_of_ge (n := 8) hp]
      rfl
    · cases toIndex 8 pool.toNat with
      | none => rfl
      | some k => exact if_pos (by simpa using hb)
  have busy := reserveBusy_iff (s.atQueue q) p base.toNat limit.toNat
  rw [chained_eq, sharedAfter_eq (s.atQueue q) _ _ _ hoe he] at busy
  have free : (((s.atQueue q).rebuild p base.toNat limit.toNat).pool p).free.length = (limit.toNat + 1 - base.toNat) * 256 := by
    rw [State.rebuild, State.pool_modPool_self, blockRange, List.length_map, List.length_range, Config.extentBlocks]
  refine ⟨fun hm => takeDirective_reports h ?_, fun hm hbusy => takeDirective_reports h ?_,
    fun hm hbusy hw => takeDirective_changes h _ ?_ rfl (taken_todo s false)⟩
  all_goals
    rw [toIndex_of_eq p hi, hq]
    dsimp only
    rw [if_neg (by simp; omega)]
  · exact if_pos ((overlaps_iff _ _ _ _).mpr hm)
  · rw [if_neg (mt (overlaps_iff (s.atQueue q) _ _ _).mp hm), if_pos (busy.mpr hbusy), chained_eq]
    rfl
  · rw [if_neg (mt (overlaps_iff (s.atQueue q) _ _ _).mp hm), if_neg (mt busy.mp hbusy), walk_of_none ((s.atQueue q).rebuild p base.toNat limit.toNat) hw, free,
      rebuild_eq (s.atQueue q) _ _ _ hoe he]
    rfl

end Sys2Proof.Machine
end

section
/-! PROOF. Hold reasons (R49, R50) and the leaving of a lane (R56, R83) step by step; JOB-HOLD and JOB-RELEASE (R57 to R59):
settles O35 and O36. -/

namespace Sys2Proof.Machine

/-! ## Notices -/

/-- The state `s` with another notice queue and drop count. -/
def State.atNotices (s : State) (ns : List Notice) (drops : Nat) : State := { s with notices := ns, noticeDrops := drops }

/-- A notice changes the notice queue or its drop count alone (R170). -/
theorem exists_notice_eq (s : State) (n : Notice) : ∃ ns drops, s.notice n = s.atNotices ns drops := by
  unfold State.notice
  split
  · exact ⟨_, _, rfl⟩
  · exact ⟨_, _, rfl⟩

theorem notice_setJob (s : State) (i : Slot) (j : Job) (n : Notice) : (s.setJob i j).notice n = (s.notice n).setJob i j := by
  unfold State.notice State.noticeRoom
  by_cases h : s.notices.length < Config.noticePlaces <;> simp [h, State.setJob]

theorem notice_setPool (s : State) (p : PoolNo) (r : Pool) (n : Notice) : (s.setPool p r).notice n = (s.notice n).setPool p r := by
  unfold State.notice State.noticeRoom
  by_cases h : s.notices.length < Config.noticePlaces <;> simp [h, State.setPool]

/-! ## What a completion noted leaves -/

section
variable (s : State) (p : QueuePtr) (r : Result) (v1 v2 : Word32)

theorem setJob_complete (i : Slot) (j : Job) : (s.complete p r v1 v2).setJob i j = (s.setJob i j).complete p r v1 v2 := rfl

theorem setPool_complete (k : PoolNo) (q : Pool) : (s.complete p r v1 v2).setPool k q = (s.setPool k q).complete p r v1 v2 := rfl

theorem setLane_complete (l : LaneNo) (q : Lane) : (s.complete p r v1 v2).setLane l q = (s.setLane l q).complete p r v1 v2 := rfl

theorem noteRequeued_complete (i : Slot) : (s.complete p r v1 v2).noteRequeued i = (s.noteRequeued i).complete p r v1 v2 := rfl

theorem noteDispatch_complete (k : PoolNo) : (s.complete p r v1 v2).noteDispatch k = (s.noteDispatch k).complete p r v1 v2 := rfl

theorem transmit_complete (l : LaneNo) (f : LinkFrame) : (s.complete p r v1 v2).transmit l f = (s.transmit l f).complete p r v1 v2 := rfl

end

/-! ## The end of an event -/

/-- An event that leaves `v`, whose noted pools are idle and that raised no headroom, ends with its completions in any state that
differs from `v` by what is left to carry out alone. -/
theorem finish_concludes_as {u v : State} {done : List Completion} (hu : u = { v with todo := u.todo }) (hd : v.todo.done = done)
    (hp : ∀ p ∈ v.todo.pools, v.idle p) (hr : v.todo.risen = []) (hx : v.todo.reset = false) (hg : v.queue.resetTaken = false)
    (hn : (done.map fun c => ringPlace c.ptr).Nodup) : Concludes u v.finish done := by
  subst hd
  exact (finish_concludes v hp (by rw [hr]; exact fun _ h => by cases h) hx hg hn).of_todo hu

theorem inQueueOrder_swap (p : QueuePtr) {a b : Completion} (h : ringPlace a.ptr ≠ ringPlace b.ptr) :
    inQueueOrder p [a, b] = inQueueOrder p [b, a] := by
  have apart : (a.ptr - p).toNat ≠ (b.ptr - p).toNat := fun he =>
    h (congrArg ringPlace (sub_left_injective (BitVec.eq_of_toNat_eq he)))
  show insertCompletion p a [b] = insertCompletion p b [a]
  simp only [insertCompletion]
  by_cases hle : (a.ptr - p).toNat ≤ (b.ptr - p).toNat
  · rw [if_pos hle, if_neg (by omega)]
  · rw [if_neg hle, if_pos (by omega)]

/-- The order in which an event notes two completions of different entries does not matter (R164). -/
theorem Concludes.swap {u t : State} {a b : Completion} (h : Concludes u t [a, b]) (hab : ringPlace a.ptr ≠ ringPlace b.ptr) :
    Concludes u t [b, a] where
  tables := h.tables
  results c hc := h.results c (List.Perm.mem_iff (List.Perm.swap b a []) |>.mpr hc)
  others q hq := h.others q fun c hc => hq c (List.Perm.mem_iff (List.Perm.swap b a []) |>.mp hc)
  directives := h.directives
  take := h.take
  tail := h.tail
  ext := h.ext
  going := h.going
  notices := h.notices
  folded := by rw [← inQueueOrder_swap _ hab]; exact h.folded

/-! ## Leaving a lane -/

section
variable {s : State} {i : Slot} {l : LaneNo}

/-- A lane given the record `r` that then waits for work, READY or OFFLINE as it is enabled (R54, R82). -/
def State.waitsAs (s : State) (l : LaneNo) (r : Lane) : State :=
  if r.current.enable = true then
    ((s.setLane l { r with state := .ready }).setPool r.current.pool
      { s.pool r.current.pool with ready := (s.pool r.current.pool).ready ++ [l] }).noteDispatch r.current.pool
  else s.setLane l { r with state := .offline }

theorem enterIdle_setLane (s : State) (l : LaneNo) (r : Lane) : (s.setLane l r).enterIdle l = s.waitsAs l r := by
  unfold State.waitsAs
  split
  · rename_i h
    rw [enterIdle_of_enabled (by rw [State.lane_setLane_self]; exact h), State.lane_setLane_self, setLane_setLane, State.pool_setLane]
  · rename_i h
    rw [enterIdle_of_disabled (by rw [State.lane_setLane_self]; simpa using h), State.lane_setLane_self, setLane_setLane]

theorem lane_waitsAs (s : State) (l : LaneNo) (r : Lane) :
    (s.waitsAs l r).lane l = { r with state := if r.current.enable = true then .ready else .offline } := by
  unfold State.waitsAs
  split
  · rw [State.lane_noteDispatch, State.lane_setPool, State.lane_setLane_self]
  · rw [State.lane_setLane_self]

@[simp] theorem job_waitsAs (s : State) (l : LaneNo) (r : Lane) (k : Slot) : (s.waitsAs l r).job k = s.job k := by
  unfold State.waitsAs
  split
  · rw [State.job_noteDispatch, State.job_setPool, State.job_setLane]
  · rw [State.job_setLane]

/-- What a lane that waits for work changes: its record, its pool's ready-lane queue, and the dispatch opportunity noted. -/
theorem waitsAs_eq (s : State) (l : LaneNo) (r : Lane) : s.waitsAs l r = { s with
    lanes := s.lanes.set l { r with state := if r.current.enable = true then .ready else .offline }
    pools := if r.current.enable = true then s.pools.set r.current.pool { s.pool r.current.pool with
      ready := (s.pool r.current.pool).ready ++ [l] } else s.pools
    todo := (s.waitsAs l r).todo } := by
  unfold State.waitsAs
  by_cases h : r.current.enable = true
  · simp only [if_pos h]
    rfl
  · simp only [if_neg h]
    rfl

/-- A lane that waits for work notes nothing but a dispatch opportunity. -/
theorem waitsAs_todo (s : State) (l : LaneNo) (r : Lane) :
    ∃ ps, (s.waitsAs l r).todo = { s.todo with pools := ps } := by
  unfold State.waitsAs
  split
  · exact ⟨_, rfl⟩
  · exact ⟨_, rfl⟩

theorem waitsAs_classes (s : State) (l : LaneNo) (r : Lane) (p : PoolNo) : ((s.waitsAs l r).pool p).classes = (s.pool p).classes := by
  unfold State.waitsAs
  split
  · rw [State.pool_noteDispatch, State.pool_setPool, State.pool_setLane]
    split
    · rename_i h
      rw [h]
    · rfl
  · rw [State.pool_setLane]

/-- The code of the state of a lane that waits for work (R72). -/
theorem idleCode_eq (enable : Bool) :
    val32 (laneStateCode (if enable = true then .ready else .offline)) = if enable = true then 2 else 6 := by
  split
  · rfl
  · rfl

/-- A BOUND lane where no set is held is left waiting for work (R56). -/
theorem leaveLane_of_bound (hl : (s.job i).lane = some l) (hb : (s.lane l).state = .bound) (hp : (s.lane l).pendingSet = none) :
    s.leaveLane i = (s.setJob i { s.job i with lane := none }).waitsAs l
      { s.lane l with job := none, reoffer := none, retained := none } := by
  unfold State.leaveLane
  rw [hl]
  dsimp only
  unfold State.unbind
  dsimp only [State.modLane, State.modJob]
  rw [State.lane_setLane_self, State.lane_setJob, if_pos hb, hp]
  dsimp only
  rw [enterIdle_setLane]
  rfl

/-- At a BOUND lane where a set is held, the set becomes current as the job leaves, and its LANE-SET completes (R56, R82, R83). -/
theorem leaveLane_of_bound_held {new : Settings} {p : QueuePtr} (hl : (s.job i).lane = some l) (hb : (s.lane l).state = .bound)
    (hp : (s.lane l).pendingSet = some (new, p)) (hr : ∀ (k : Fin 32) x, s.alerts[k] = some x → x.relayed = true) :
    s.leaveLane i = ((s.setJob i { s.job i with lane := none }).waitsAs l
      { s.lane l with job := none, reoffer := none, retained := none, pendingSet := none, current := new }).complete p .done
        (val32 (laneStateCode (if new.enable = true then .ready else .offline))) 1 := by
  have alerts : ∀ t : State, (t.enterIdle l).alerts = t.alerts := fun t => by rw [enterIdle_frame]
  unfold State.leaveLane
  rw [hl]
  dsimp only
  unfold State.unbind
  dsimp only [State.modLane, State.modJob]
  rw [State.lane_setLane_self, State.lane_setJob, if_pos hb, hp]
  dsimp only
  rw [relayUnmasked_of_relayed (by rw [State.complete_alerts, alerts]; exact hr), enterIdle_setLane, lane_waitsAs]
  rfl

/-! ## Hold reasons -/

variable {r : Reason}

theorem raiseReason_of_held (h : (s.job i).state = .held ∨ (s.job i).state = .holding) :
    s.raiseReason i r = s.setJob i { s.job i with reasons := (s.job i).reasons.add r } := by
  unfold State.raiseReason
  rcases h with h | h
  · rw [h]
    rfl
  · rw [h]
    rfl

/-- A pool record without a slot in one of its classes (R52). -/
def Pool.without (p : Pool) (k : Fin 4) (i : Slot) : Pool := { p with classes := p.classes.set k (p.classes[k].filter (· ≠ i)) }

/-- A QUEUED job leaves its class (R49, R52). -/
theorem leaveQueue_eq :
    s.leaveQueue i = s.setPool (s.job i).pool ((s.pool (s.job i).pool).without (s.job i).prio i) := by
  rw [Pool.without, ← filter_bne_eq]
  rfl

theorem raiseReason_of_queued (h : (s.job i).state = .queued) : s.raiseReason i r =
    ((s.setJob i { s.job i with reasons := (s.job i).reasons.add r }).leaveQueue i).enterHeld i := by
  unfold State.raiseReason
  rw [h]
  rfl

/-- Whether a bound job has sheets out, by its lane's record (R48). -/
theorem sheetsInFlight_iff (hl : (s.job i).lane = some l) :
    s.sheetsInFlight i = true ↔ (s.lane l).offer ≠ none ∨ (s.lane l).inflight ≠ [] := by
  unfold State.sheetsInFlight
  rw [hl, Bool.or_eq_true, Option.isSome_iff_ne_none, Bool.not_eq_true', ← Bool.not_eq_true, List.isEmpty_iff]

theorem raiseReason_of_printing_out (h : (s.job i).state = .printing) (ho : s.sheetsInFlight i = true) : s.raiseReason i r =
    s.setJob i { s.job i with reasons := (s.job i).reasons.add r, state := .holding } := by
  unfold State.raiseReason
  rw [h]
  dsimp only
  rw [if_pos ho, modJob_modJob]
  rfl

theorem raiseReason_of_printing_idle (h : (s.job i).state = .printing) (ho : s.sheetsInFlight i = false) :
    s.raiseReason i r = (s.setJob i { s.job i with reasons := (s.job i).reasons.add r }).enterHeld i := by
  unfold State.raiseReason
  rw [h]
  dsimp only
  rw [if_neg (by rw [ho]; decide)]
  rfl

/-- A job that holds no JOB-HOLD enters HELD with its notice, and leaves its lane (R50). -/
theorem enterHeld_of_no_hold (hp : (s.job i).pendingHold = none) : s.enterHeld i =
    ((s.notice (.held i (s.job i).tag (s.job i).reasons)).setJob i { s.job i with state := .held }).leaveLane i := by
  have same : ({ s.job i with state := .held, pendingHold := none } : Job) = { s.job i with state := .held } :=
    congrArg (fun h => { s.job i with state := .held, pendingHold := h }) hp.symm
  unfold State.enterHeld
  rw [hp, State.modJob, same, notice_setJob]
  rfl

end

/-! ## JOB-HOLD -/

section
variable {s : State} {i : Slot} {slot tag : Word32}

theorem tagDiffers_iff (j : Job) (tag : Word32) : j.tagDiffers tag = true ↔ tag ≠ 0#16 ++ j.tag := by
  rw [Job.tagDiffers, bne_iff_ne, setWidth_eq_append (m := 16), ne_comm]

theorem tag_in_range (t : Word16) : (0#16 ++ t).toNat ≤ 65535 := by
  rw [append_toNat]
  simp only [BitVec.toNat_ofNat]
  omega

/-- A MISMATCH reports the job's tag (R57). -/
theorem mismatch_eq (j : Job) : j.mismatch = (.mismatch, 0#16 ++ j.tag, 0) := by
  rw [Job.mismatch, setWidth_eq_append (m := 16)]

/-- A JOB-HOLD of a job that holds none yet raises OPERATOR, and waits where the job is then HOLDING (R57). -/
theorem holdJob_of_no_hold {p : QueuePtr} (hc : (s.job i).state ≠ .cancelling) (hp : (s.job i).pendingHold = none) {t : State}
    (ht : s.raiseReason i .operator = t) : s.holdJob i p = if (t.job i).state = .holding then
        t.modJob i fun j => { j with pendingHold := some p }
      else t.answer p (.done, val32 (reasonsCode (t.job i).reasons), 0) := by
  have same : s.modJob i (fun j => { j with pendingHold := none }) = s := by
    refine Eq.trans (congrArg (s.setJob i) ?_) (setJob_job s i)
    rw [← hp]
  subst ht
  unfold State.holdJob
  rw [if_neg hc, hp]
  dsimp only [State.completeOpt]
  rw [same]

/-- A JOB-HOLD of a HOLDING job takes the place of the one it holds, which completes with SUPERSEDED (R57). -/
theorem holdJob_of_holding {p : QueuePtr} (hs : (s.job i).state = .holding) : s.holdJob i p =
    (s.completeOpt (s.job i).pendingHold .superseded 0 0).setJob i
      { s.job i with reasons := { (s.job i).reasons with operator := true }, pendingHold := some p } := by
  unfold State.holdJob
  rw [if_neg (by rw [hs]; decide)]
  dsimp only
  rw [raiseReason_of_held (.inr (by rw [State.job_modJob_self, State.job_completeOpt]; exact hs)), if_pos (by
    rw [State.job_setJob_self, State.job_modJob_self, State.job_completeOpt]; exact hs)]
  simp only [State.modJob, State.job_setJob_self, setJob_setJob, State.job_completeOpt]
  rfl

theorem holdJob_of_holding_free {p : QueuePtr} (hs : (s.job i).state = .holding) (hp : (s.job i).pendingHold = none) :
    s.holdJob i p = s.setJob i
      { s.job i with reasons := { (s.job i).reasons with operator := true }, pendingHold := some p } := by
  rw [holdJob_of_holding hs, hp]
  rfl

/-- A job with OPERATOR among its hold reasons (R57). -/
def Job.onOperator (j : Job) : Job := { j with reasons := { j.reasons with operator := true } }

/-- A JOB-HOLD of a CANCELLING job changes nothing (R57). -/
theorem holdJob_of_cancelling {p : QueuePtr} (hs : (s.job i).state = .cancelling) :
    s.holdJob i p = s.answer p (refusal .superseded) := if_pos hs

theorem holdJob_of_held {p : QueuePtr} (hs : (s.job i).state = .held) (hp : (s.job i).pendingHold = none) : s.holdJob i p =
    (s.setJob i (s.job i).onOperator).answer p (.done, val32 (reasonsCode (s.job i).onOperator.reasons), 0) := by
  rw [holdJob_of_no_hold (by rw [hs]; decide) hp (raiseReason_of_held (.inl hs)), State.job_setJob_self, if_neg]
  · rfl
  · dsimp only
    rw [hs]
    decide

/-- A QUEUED job is held at once, and leaves its class (R49, R57). -/
theorem holdJob_of_queued {p : QueuePtr} (hs : (s.job i).state = .queued) (hp : (s.job i).pendingHold = none)
    (hl : (s.job i).lane = none) : s.holdJob i p =
      (((s.notice (.held i (s.job i).tag (s.job i).onOperator.reasons)).setPool (s.job i).pool
        ((s.pool (s.job i).pool).without (s.job i).prio i)).setJob i
        { (s.job i).onOperator with state := .held }).answer p (.done, val32 (reasonsCode (s.job i).onOperator.reasons), 0) := by
  have left : (s.setJob i (s.job i).onOperator).leaveQueue i = (s.setJob i (s.job i).onOperator).setPool (s.job i).pool
      ((s.pool (s.job i).pool).without (s.job i).prio i) := by
    rw [leaveQueue_eq, State.job_setJob_self]
    rfl
  have raised := (raiseReason_of_queued (r := .operator) hs).trans (congrArg (fun t => State.enterHeld t i) left)
  rw [enterHeld_of_no_hold (by rw [State.job_setPool, State.job_setJob_self]; exact hp), State.job_setPool, State.job_setJob_self,
    leaveLane_of_unbound _ _ (by rw [State.job_setJob_self]; exact hl), notice_setPool, notice_setJob] at raised
  rw [holdJob_of_no_hold (by rw [hs]; decide) hp raised, State.job_setJob_self, if_neg (by simp)]
  refine congrArg (fun t => State.answer t p _) ?_
  show ((State.setJob _ i _).setJob i _).setPool _ _ = (State.setJob _ i _).setPool _ _
  rw [setJob_setJob]
  rfl

/-- A PRINTING job with sheets out becomes HOLDING, and its JOB-HOLD waits (R49, R57). -/
theorem holdJob_of_printing_out {p : QueuePtr} (hs : (s.job i).state = .printing) (hp : (s.job i).pendingHold = none)
    (ho : s.sheetsInFlight i = true) :
    s.holdJob i p = s.setJob i { (s.job i).onOperator with state := .holding, pendingHold := some p } := by
  rw [holdJob_of_no_hold (by rw [hs]; decide) hp (raiseReason_of_printing_out hs ho), State.job_setJob_self, if_pos rfl,
    State.modJob, State.job_setJob_self, setJob_setJob]
  rfl

/-- A PRINTING job with nothing out is held at once, and leaves its lane (R49, R50, R57). -/
theorem holdJob_of_printing_idle {p : QueuePtr} (hs : (s.job i).state = .printing) (hp : (s.job i).pendingHold = none)
    (ho : s.sheetsInFlight i = false) {t : State} (ht : ((s.notice (.held i (s.job i).tag (s.job i).onOperator.reasons)).setJob i
      { (s.job i).onOperator with state := .held }).leaveLane i = t) (hj : (t.job i).state ≠ .holding)
    (hr : (t.job i).reasons = (s.job i).onOperator.reasons) :
    s.holdJob i p = t.answer p (.done, val32 (reasonsCode (s.job i).onOperator.reasons), 0) := by
  have raised := raiseReason_of_printing_idle (r := .operator) hs ho
  rw [enterHeld_of_no_hold (by rw [State.job_setJob_self]; exact hp), State.job_setJob_self, notice_setJob, setJob_setJob] at raised
  rw [holdJob_of_no_hold (by rw [hs]; decide) hp (raised.trans ht), if_neg hj, hr]

/-! ### How a JOB-HOLD ends -/

section
variable {p : QueuePtr} {l : LaneNo}

/-- A PRINTING job with nothing out is held, and its BOUND lane, where no set is held, waits for work (R50, R56, R57). -/
theorem holdJob_of_idle (hs : (s.job i).state = .printing) (hp : (s.job i).pendingHold = none) (hl : (s.job i).lane = some l)
    (ho : (s.lane l).offer = none) (hi : (s.lane l).inflight = []) (hb : (s.lane l).state = .bound)
    (hn : (s.lane l).pendingSet = none) :
    s.holdJob i p = (((s.notice (.held i (s.job i).tag (s.job i).onOperator.reasons)).setJob i
      { (s.job i).onOperator with state := .held, lane := none }).waitsAs l
        { s.lane l with job := none, reoffer := none, retained := none }).answer p
          (.done, val32 (reasonsCode (s.job i).onOperator.reasons), 0) := by
  have left := leaveLane_of_bound (s := (s.notice (.held i (s.job i).tag (s.job i).onOperator.reasons)).setJob i
      { (s.job i).onOperator with state := .held }) (i := i) (l := l)
    (by rw [State.job_setJob_self]; exact hl) (by rw [State.lane_setJob, State.lane_notice]; exact hb)
    (by rw [State.lane_setJob, State.lane_notice]; exact hn)
  rw [State.job_setJob_self, setJob_setJob, State.lane_setJob, State.lane_notice] at left
  refine holdJob_of_printing_idle hs hp ?_ left ?_ ?_
  · rw [← Bool.not_eq_true, sheetsInFlight_iff hl, ho, hi]
    simp
  · rw [job_waitsAs, State.job_setJob_self]
    simp
  · rw [job_waitsAs, State.job_setJob_self]

/-- Where a set is held, it becomes current as the job leaves (R82, R83). -/
theorem holdJob_of_idle_held {new : Settings} {p' : QueuePtr} (hs : (s.job i).state = .printing) (hp : (s.job i).pendingHold = none)
    (hl : (s.job i).lane = some l) (ho : (s.lane l).offer = none) (hi : (s.lane l).inflight = []) (hb : (s.lane l).state = .bound)
    (hn : (s.lane l).pendingSet = some (new, p')) (hr : ∀ (k : Fin 32) x, s.alerts[k] = some x → x.relayed = true) :
    s.holdJob i p = ((((s.notice (.held i (s.job i).tag (s.job i).onOperator.reasons)).setJob i
      { (s.job i).onOperator with state := .held, lane := none }).waitsAs l
        { s.lane l with job := none, reoffer := none, retained := none, pendingSet := none, current := new }).complete p' .done
          (val32 (laneStateCode (if new.enable = true then .ready else .offline))) 1).answer p
            (.done, val32 (reasonsCode (s.job i).onOperator.reasons), 0) := by
  have left := leaveLane_of_bound_held (s := (s.notice (.held i (s.job i).tag (s.job i).onOperator.reasons)).setJob i
      { (s.job i).onOperator with state := .held }) (i := i) (l := l)
    (by rw [State.job_setJob_self]; exact hl) (by rw [State.lane_setJob, State.lane_notice]; exact hb)
    (by rw [State.lane_setJob, State.lane_notice]; exact hn) (by rw [State.setJob_alerts, State.notice_alerts]; exact hr)
  rw [State.job_setJob_self, setJob_setJob, State.lane_setJob, State.lane_notice] at left
  refine holdJob_of_printing_idle hs hp ?_ left ?_ ?_
  · rw [← Bool.not_eq_true, sheetsInFlight_iff hl, ho, hi]
    simp
  · rw [State.job_complete, job_waitsAs, State.job_setJob_self]
    simp
  · rw [State.job_complete, job_waitsAs, State.job_setJob_self]

variable (quiet : s.todo = Todo.nothing) (going : s.queue.resetTaken = false)
include quiet going

theorem concludes_holdJob_of_held (hs : (s.job i).state = .held) (hp : (s.job i).pendingHold = none) :
    Concludes { s with jobs := s.jobs.set i (s.job i).onOperator } (s.holdJob i p).finish
      [⟨p, .done, val32 (reasonsCode (s.job i).onOperator.reasons), 0⟩] := by
  rw [holdJob_of_held hs hp]
  exact concludes_answer (v := s.setJob i (s.job i).onOperator) rfl quiet going p (.done, _, 0)

theorem concludes_holdJob_of_queued (hs : (s.job i).state = .queued) (hp : (s.job i).pendingHold = none)
    (hl : (s.job i).lane = none) :
    Concludes { s.notice (.held i (s.job i).tag (s.job i).onOperator.reasons) with
        jobs := s.jobs.set i { (s.job i).onOperator with state := .held }
        pools := s.pools.set (s.job i).pool ((s.pool (s.job i).pool).without (s.job i).prio i) } (s.holdJob i p).finish
      [⟨p, .done, val32 (reasonsCode (s.job i).onOperator.reasons), 0⟩] := by
  rw [holdJob_of_queued hs hp hl]
  obtain ⟨ns, drops, hn⟩ := exists_notice_eq s (.held i (s.job i).tag (s.job i).onOperator.reasons)
  rw [hn]
  exact concludes_answer (v := ((s.atNotices ns drops).setPool _ _).setJob i _) rfl quiet going p (.done, _, 0)

variable {l : LaneNo}

/-- A lane left waiting, where no job is queued, ends the event with the completions noted. -/
theorem concludes_waitsAs {r : Lane} {done : List Completion} {u v : State} (hq : ∀ k, (s.pool k).queueOrder = [])
    (hv : v = { s.waitsAs l r with todo := { (s.waitsAs l r).todo with done := (s.waitsAs l r).todo.done ++ done } })
    (hu : u = { s with
      lanes := s.lanes.set l { r with state := if r.current.enable = true then .ready else .offline }
      pools := if r.current.enable = true then s.pools.set r.current.pool { s.pool r.current.pool with
        ready := (s.pool r.current.pool).ready ++ [l] } else s.pools
      todo := u.todo })
    (hn : (done.map fun c => ringPlace c.ptr).Nodup) : Concludes u v.finish done := by
  obtain ⟨ps, ht⟩ := waitsAs_todo s l r
  rw [quiet] at ht
  have idle : ∀ k, (s.waitsAs l r).idle k := fun k => .inr ((queueOrder_congr (waitsAs_classes s l r k)).trans (hq k))
  have queue : (s.waitsAs l r).queue = s.queue := by rw [waitsAs_eq]
  subst hv
  refine finish_concludes_as ?_ ?_ (fun k _ => idle k) ?_ ?_ (by rw [← going, ← queue]) hn
  · rw [hu, waitsAs_eq]
  · rw [ht]
    rfl
  · rw [ht]
    rfl
  · rw [ht]
    rfl

theorem concludes_holdJob_of_idle (hs : (s.job i).state = .printing) (hp : (s.job i).pendingHold = none)
    (hl : (s.job i).lane = some l) (ho : (s.lane l).offer = none) (hi : (s.lane l).inflight = []) (hb : (s.lane l).state = .bound)
    (hn : (s.lane l).pendingSet = none) (hq : ∀ k, (s.pool k).queueOrder = []) {r : Lane}
    (hr : { s.lane l with job := none, reoffer := none, retained := none } = r) :
    Concludes { s.notice (.held i (s.job i).tag (s.job i).onOperator.reasons) with
        jobs := s.jobs.set i { (s.job i).onOperator with state := .held, lane := none }
        lanes := s.lanes.set l { r with state := if r.current.enable = true then .ready else .offline }
        pools := if r.current.enable = true then s.pools.set r.current.pool { s.pool r.current.pool with
          ready := (s.pool r.current.pool).ready ++ [l] } else s.pools } (s.holdJob i p).finish
      [⟨p, .done, val32 (reasonsCode (s.job i).onOperator.reasons), 0⟩] := by
  rw [holdJob_of_idle hs hp hl ho hi hb hn, hr]
  obtain ⟨ns, drops, notice⟩ := exists_notice_eq s (.held i (s.job i).tag (s.job i).onOperator.reasons)
  rw [notice]
  exact concludes_waitsAs (s := (s.atNotices ns drops).setJob i { (s.job i).onOperator with state := .held, lane := none })
    (r := r) quiet going hq rfl rfl (by simp)

theorem concludes_holdJob_of_idle_held {new : Settings} {p' : QueuePtr} (hs : (s.job i).state = .printing)
    (hp : (s.job i).pendingHold = none) (hl : (s.job i).lane = some l) (ho : (s.lane l).offer = none)
    (hi : (s.lane l).inflight = []) (hb : (s.lane l).state = .bound) (hn : (s.lane l).pendingSet = some (new, p'))
    (hne : ringPlace p' ≠ ringPlace p) (ha : ∀ (k : Fin 32) x, s.alerts[k] = some x → x.relayed = true)
    (hq : ∀ k, (s.pool k).queueOrder = []) {r : Lane}
    (hr : { s.lane l with job := none, reoffer := none, retained := none, pendingSet := none, current := new } = r) :
    Concludes { s.notice (.held i (s.job i).tag (s.job i).onOperator.reasons) with
        jobs := s.jobs.set i { (s.job i).onOperator with state := .held, lane := none }
        lanes := s.lanes.set l { r with state := if r.current.enable = true then .ready else .offline }
        pools := if r.current.enable = true then s.pools.set r.current.pool { s.pool r.current.pool with
          ready := (s.pool r.current.pool).ready ++ [l] } else s.pools } (s.holdJob i p).finish
      [⟨p, .done, val32 (reasonsCode (s.job i).onOperator.reasons), 0⟩,
        ⟨p', .done, val32 (laneStateCode (if new.enable = true then .ready else .offline)), 1⟩] := by
  rw [holdJob_of_idle_held hs hp hl ho hi hb hn ha, hr]
  obtain ⟨ns, drops, notice⟩ := exists_notice_eq s (.held i (s.job i).tag (s.job i).onOperator.reasons)
  rw [notice]
  refine (concludes_waitsAs (s := (s.atNotices ns drops).setJob i { (s.job i).onOperator with state := .held, lane := none })
    (r := r) (done := [⟨p', .done, _, 1⟩, ⟨p, .done, _, 0⟩]) quiet going hq ?_ rfl (by simpa using hne)).swap hne
  simp only [State.answer, State.complete, List.append_assoc, List.cons_append, List.nil_append]

/-- A JOB-HOLD of a HOLDING job that holds one already completes the earlier one (R57). -/
theorem concludes_holdJob_of_holding {p' : QueuePtr} (hs : (s.job i).state = .holding) (hp : (s.job i).pendingHold = some p') :
    Concludes { s with jobs := s.jobs.set i { (s.job i).onOperator with pendingHold := some p } } (s.holdJob i p).finish
      [⟨p', .superseded, 0, 0⟩] := by
  rw [holdJob_of_holding hs, hp]
  exact concludes_answer (v := s.setJob i { (s.job i).onOperator with pendingHold := some p }) rfl quiet going p' (.superseded, 0, 0)

end

/-! ### The event -/

/-- A JOB-HOLD that names a job by its tag acts on that job (R57). -/
theorem exec_jobHold (h : s.takeable (.jobHold slot tag) = true) (hi : slot.toNat = i) (hf : (s.job i).state ≠ .free)
    (ht : tag = 0#16 ++ (s.job i).tag) :
    exec (.jobHold slot tag) s = .next ((s.taken false).holdJob i s.queue.take).finish := by
  show execJobHold slot tag s = _
  unfold execJobHold
  rw [takeDirective_of_takeable h, slotOf_of_in_range hi (by rw [ht]; exact tag_in_range _)]
  dsimp only
  rw [taken_job, if_neg hf, if_neg (by rw [tagDiffers_iff, not_not]; exact ht)]

/-- The refusals of JOB-HOLD (R57). -/
theorem exec_jobHold_refused (h : s.takeable (.jobHold slot tag) = true) {r : Result} {v1 : Word32}
    (hr : (match slotOf slot tag with
      | none => refusal .range
      | some i => if (s.job i).state = .free then refusal .state else (s.job i).mismatch) = (r, v1, 0))
    (ht : ∀ i, slotOf slot tag = some i → (s.job i).state ≠ .free → (s.job i).tagDiffers tag = true) :
    ∃ t, exec (.jobHold slot tag) s = .next t ∧ Concludes (s.taken false) t [⟨s.queue.take, r, v1, 0⟩] := by
  show ∃ t, execJobHold slot tag s = .next t ∧ _
  unfold execJobHold
  refine takeDirective_reports h ?_
  rw [← hr]
  cases hs : slotOf slot tag with
  | none => rfl
  | some i =>
    dsimp only
    rw [taken_job]
    by_cases hf : (s.job i).state = .free
    · rw [if_pos hf, if_pos hf]
    · rw [if_neg hf, if_neg hf, if_pos (ht i hs hf)]

end

/-- Settles O35: by range, state and tag, and then by the state of the job and what its lane has out. -/
theorem jobHoldActsByTheJobState : Obligations.JobHoldActsByTheJobState := by
  intro s slot tag h
  refine ⟨fun hr => exec_jobHold_refused h (by rw [slotOf_of_out_of_range hr]; rfl)
    (by rw [slotOf_of_out_of_range hr]; exact fun _ h => by cases h), fun i hi ht => ?_⟩
  have named := slotOf_of_in_range hi ht
  have run := exec_jobHold h hi
  have going := (taken_going s false).trans (takeable_going h)
  obtain ⟨q, hq⟩ := exists_taken_eq s false
  intro j held set jobs
  have code : set = val32 (reasonsCode j.onOperator.reasons) := reasonsCode_eq j.onOperator.reasons 29
  clear_value set
  subst code
  refine ⟨fun hf => exec_jobHold_refused h (by rw [named]; exact if_pos hf) ?_, fun hf hd => exec_jobHold_refused h ?_ ?_, ?_, ?_, ?_⟩
  · rw [named]
    rintro k ⟨⟩ hn
    exact absurd hf hn
  · rw [named]
    dsimp only
    rw [if_neg hf, mismatch_eq]
  · rw [named]
    rintro k ⟨⟩ -
    exact (tagDiffers_iff _ _).mpr hd
  all_goals rw [hq] at run going ⊢
  · intro hd hc
    have ended := run (by rw [hc]; decide) hd
    rw [holdJob_of_cancelling (s := s.atQueue q) hc] at ended
    exact ⟨_, ended, concludes_answer (v := s.atQueue q) rfl rfl going s.queue.take (.superseded, 0, 0)⟩
  · intro hd hp
    have ended := fun hf => run hf hd
    refine ⟨fun hs => ?held, fun hs hl => ?queued, fun l hs hl ho => ?out, fun l hs hl ho hi hb hn hw => ?idle,
      fun l new p hs hl ho hi hb hn hne hr hw => ?idleHeld, fun hs => ?holding⟩
    case held =>
      exact ⟨_, ended (by rw [hs]; decide), concludes_holdJob_of_held (s := s.atQueue q) rfl going hs hp⟩
    case queued =>
      exact ⟨_, ended (by rw [hs]; decide), concludes_holdJob_of_queued (s := s.atQueue q) rfl going hs hp hl⟩
    case out =>
      rw [ended (by rw [hs]; decide), holdJob_of_printing_out (s := s.atQueue q) hs hp
        ((sheetsInFlight_iff (s := s.atQueue q) hl).mpr ho)]
      exact congrArg _ (finish_nothing _ rfl)
    case idle =>
      exact ⟨_, ended (by rw [hs]; decide), concludes_holdJob_of_idle (s := s.atQueue q) rfl going hs hp hl ho hi hb hn hw rfl⟩
    case idleHeld =>
      have held := concludes_holdJob_of_idle_held (s := s.atQueue q) rfl going hs hp hl ho hi hb hn hne hr hw rfl
      rw [idleCode_eq] at held
      exact ⟨_, ended (by rw [hs]; decide), held⟩
    case holding =>
      rw [ended (by rw [hs]; decide), holdJob_of_holding_free (s := s.atQueue q) hs hp]
      exact congrArg _ (finish_nothing _ rfl)
  · intro p hd hs hp
    exact ⟨_, run (by rw [hs]; decide) hd, concludes_holdJob_of_holding (s := s.atQueue q) rfl going hs hp⟩

/-! ## JOB-RELEASE -/

section
variable {s : State} {i : Slot} {slot tag : Word32} {p : QueuePtr} {l : LaneNo}

/-- The conditions of R95 under which lane `l` offers the record `rec` of the job of slot `i`. -/
structure State.Offers (s : State) (l : LaneNo) (i : Slot) (rec : SheetRecord) : Prop where
  job : (s.lane l).job = some i
  printing : (s.job i).state = .printing
  bound : (s.lane l).state = .bound
  offer : (s.lane l).offer = none
  abort : (s.lane l).abort = false
  reoffer : (s.lane l).reoffer = none
  room : (s.lane l).inflight.length < (s.lane l).cap.depth
  record : (s.job i).recordAt (s.job i).send = some rec
  spooled : rec.cond = .spooled

theorem offerable_eq_some_iff {rec : SheetRecord} : s.offerable l = some (i, rec) ↔ s.Offers l i rec := by
  unfold State.offerable
  dsimp only
  constructor
  · intro h
    split at h
    · rename_i k hk
      split at h
      · rename_i hc
        split at h
        · rename_i rec' hrec
          split at h
          · rename_i hsp
            cases h
            simp only [Bool.and_eq_true, decide_eq_true_eq, Option.isNone_iff_eq_none, Bool.not_eq_true'] at hc
            obtain ⟨⟨⟨⟨⟨hp, hb⟩, ho⟩, ha⟩, hr⟩, hd⟩ := hc
            exact ⟨hk, hp, hb, ho, ha, hr, hd, hrec, hsp⟩
          · cases h
        · cases h
      · cases h
    · cases h
  · intro h
    simp [h.job, h.printing, h.bound, h.offer, h.abort, h.reoffer, h.room, h.record, h.spooled]

theorem offerable_eq_none (h : ∀ i rec, ¬s.Offers l i rec) : s.offerable l = none := by
  rw [Option.eq_none_iff_forall_ne_some]
  exact fun ⟨i, rec⟩ he => h i rec (offerable_eq_some_iff.mp he)

theorem offerBound_of_bound (h : (s.job i).lane = some l) : s.offerBound i = s.offerStep l := by
  unfold State.offerBound
  rw [h]

/-- A lane with an offer outstanding offers nothing more (R95). -/
theorem offerStep_of_offer (h : (s.lane l).offer ≠ none) : s.offerStep l = s :=
  offerStep_of_none s l (offerable_eq_none fun _ _ o => h o.offer)

theorem unholdJob_of_left {left : Reasons} (hl : (s.job i).reasons.afterRelease = left) (he : left.isEmpty = false) :
    s.unholdJob i p = (s.setJob i { s.job i with reasons := left }).answer p (.done, val32 (reasonsCode left), 0) := by
  subst hl
  unfold State.unholdJob
  dsimp only
  rw [if_neg (by rw [he]; decide)]
  rfl

/-- A QUEUED or PRINTING job has no hold reason to lose (R59). -/
theorem unholdJob_of_free_running (hs : (s.job i).state = .queued ∨ (s.job i).state = .printing)
    (hr : (s.job i).reasons = ⟨false, false, false⟩) : s.unholdJob i p = s.answer p (.done, 0, 0) := by
  have same : s.modJob i (fun j => { j with reasons := (s.job i).reasons.afterRelease }) = s := by
    refine Eq.trans (congrArg (s.setJob i) ?_) (setJob_job s i)
    rw [hr, Reasons.afterRelease, ← hr]
  unfold State.unholdJob
  dsimp only
  rw [same, hr]
  rcases hs with hs | hs
  · rw [hs]
    rfl
  · rw [hs]
    rfl

/-- A pool record with a slot at the front of one of its classes (R51). -/
def Pool.behind (p : Pool) (k : Fin 4) (i : Slot) : Pool := { p with classes := p.classes.set k (i :: p.classes[k]) }

/-- The first job that an event requeues stands at the front of its class (R51). -/
theorem requeue_of_first (hq : s.todo.requeued = []) : s.requeue i =
    (((s.setJob i { s.job i with state := .queued }).setPool (s.job i).pool
      ((s.pool (s.job i).pool).behind (s.job i).prio i)).noteRequeued i).noteDispatch (s.job i).pool := by
  rw [State.requeue, State.joinFront, State.modPool]
  simp only [State.modJob, State.job_setJob_self, State.setJob_todo, hq, insertRequeued_nil, State.pool_setJob]
  rfl

/-- A HELD job with nothing left is requeued at the front of its class (R51, R59). -/
theorem unholdJob_of_held (hs : (s.job i).state = .held) (hf : (s.job i).reasons.funds = false) (hq : s.todo.requeued = []) :
    s.unholdJob i p = ((((s.setJob i { s.job i with state := .queued, reasons := ⟨false, false, false⟩ }).setPool (s.job i).pool
      ((s.pool (s.job i).pool).behind (s.job i).prio i)).noteRequeued i).noteDispatch (s.job i).pool).answer p (.done, 0, 0) := by
  have left : (s.job i).reasons.afterRelease = ⟨false, false, false⟩ := by
    rw [Reasons.afterRelease, hf]
  unfold State.unholdJob
  dsimp only
  rw [left, hs, if_pos (by decide)]
  dsimp only
  rw [requeue_of_first (by rw [State.answer, State.complete_todo, State.modJob_todo]; exact hq), State.answer, State.job_complete,
    State.modJob, State.job_setJob_self, State.pool_complete, State.pool_setJob]
  dsimp only
  rw [setJob_complete, setPool_complete, noteRequeued_complete, noteDispatch_complete, setJob_setJob]
  rfl

/-- A HOLDING job with nothing left is PRINTING again (R59). -/
theorem unholdJob_of_holding (hs : (s.job i).state = .holding) (hf : (s.job i).reasons.funds = false) (hl : (s.job i).lane = some l)
    (ho : (s.lane l).offer ≠ none) : s.unholdJob i p =
      ((s.setJob i { s.job i with state := .printing, reasons := ⟨false, false, false⟩, pendingHold := none }).answer p
        (.done, 0, 0)).completeOpt (s.job i).pendingHold .superseded 0 0 := by
  have left : (s.job i).reasons.afterRelease = ⟨false, false, false⟩ := by
    rw [Reasons.afterRelease, hf]
  unfold State.unholdJob
  dsimp only
  rw [left, hs, if_pos (by decide)]
  dsimp only
  rw [offerBound_of_bound (l := l) (by
      rw [State.job_modJob_self, State.job_completeOpt, State.answer, State.job_complete, State.job_modJob_self]; exact hl),
    offerStep_of_offer (by simpa [State.answer] using ho), State.answer]
  cases (s.job i).pendingHold with
  | none =>
    simp only [State.completeOpt, State.modJob, State.job_complete, State.job_setJob_self, setJob_complete, setJob_setJob]
    rfl
  | some q =>
    simp only [State.completeOpt, State.modJob, State.job_complete, State.job_setJob_self, setJob_complete, setJob_setJob]
    rfl

/-! ### The event -/

/-- A JOB-RELEASE that names a job by its tag acts on that job (R59). -/
theorem exec_jobRelease (h : s.takeable (.jobRelease slot tag) = true) (hi : slot.toNat = i) (hf : (s.job i).state ≠ .free)
    (hc : (s.job i).state ≠ .cancelling) (ht : tag = 0#16 ++ (s.job i).tag) :
    exec (.jobRelease slot tag) s = .next ((s.taken false).unholdJob i s.queue.take).finish := by
  show execJobRelease slot tag s = _
  unfold execJobRelease
  rw [takeDirective_of_takeable h, slotOf_of_in_range hi (by rw [ht]; exact tag_in_range _)]
  dsimp only
  rw [taken_job, if_neg (by simp [hf, hc]), if_neg (by rw [tagDiffers_iff, not_not]; exact ht)]

/-- The refusals of JOB-RELEASE (R59). -/
theorem exec_jobRelease_refused (h : s.takeable (.jobRelease slot tag) = true) {r : Result} {v1 : Word32}
    (hr : (match slotOf slot tag with
      | none => refusal .range
      | some i => if (s.job i).state = .free || (s.job i).state = .cancelling then refusal .state else (s.job i).mismatch) = (r, v1, 0))
    (ht : ∀ i, slotOf slot tag = some i → (s.job i).state ≠ .free → (s.job i).state ≠ .cancelling →
      (s.job i).tagDiffers tag = true) :
    ∃ t, exec (.jobRelease slot tag) s = .next t ∧ Concludes (s.taken false) t [⟨s.queue.take, r, v1, 0⟩] := by
  show ∃ t, execJobRelease slot tag s = .next t ∧ _
  unfold execJobRelease
  refine takeDirective_reports h ?_
  rw [← hr]
  cases hs : slotOf slot tag with
  | none => rfl
  | some i =>
    dsimp only
    rw [taken_job]
    by_cases hf : ((s.job i).state = .free || (s.job i).state = .cancelling) = true
    · rw [if_pos hf, if_pos hf]
    · rw [if_neg hf, if_neg hf]
      simp only [Bool.or_eq_true, decide_eq_true_eq, not_or] at hf
      rw [if_pos (ht i hs hf.1 hf.2)]

variable (quiet : s.todo = Todo.nothing) (going : s.queue.resetTaken = false)
include quiet going

theorem concludes_unholdJob_of_funds (hf : (s.job i).reasons.funds = true) :
    Concludes { s with jobs := s.jobs.set i { s.job i with reasons := ⟨false, true, false⟩ } } (s.unholdJob i p).finish
      [⟨p, .done, 2, 0⟩] := by
  rw [unholdJob_of_left (left := ⟨false, true, false⟩) (by rw [Reasons.afterRelease, hf]) rfl]
  exact concludes_answer (v := s.setJob i { s.job i with reasons := ⟨false, true, false⟩ }) rfl quiet going p (.done, _, 0)

theorem concludes_unholdJob_of_held (hs : (s.job i).state = .held) (hf : (s.job i).reasons.funds = false)
    (hr : (s.pool (s.job i).pool).ready = []) :
    Concludes { s with
        jobs := s.jobs.set i { s.job i with state := .queued, reasons := ⟨false, false, false⟩ }
        pools := s.pools.set (s.job i).pool ((s.pool (s.job i).pool).behind (s.job i).prio i) } (s.unholdJob i p).finish
      [⟨p, .done, 0, 0⟩] := by
  rw [unholdJob_of_held hs hf (by rw [quiet]; rfl)]
  refine finish_concludes_as ?_ ?_ ?_ ?_ ?_ going (by simp)
  · rfl
  · show s.todo.done ++ [_] = _
    rw [quiet]
    rfl
  · show ∀ k ∈ s.todo.pools ++ [(s.job i).pool], _
    rw [quiet]
    intro k hk
    rw [List.mem_singleton.mp hk]
    refine .inl ?_
    rw [State.answer, State.pool_complete, State.pool_noteDispatch, State.pool_noteRequeued, State.pool_setPool_self]
    exact hr
  · show s.todo.risen = []
    rw [quiet]
    rfl
  · show s.todo.reset = false
    rw [quiet]
    rfl

theorem concludes_unholdJob_of_holding (hs : (s.job i).state = .holding) (hf : (s.job i).reasons.funds = false)
    (hl : (s.job i).lane = some l) (ho : (s.lane l).offer ≠ none) {done : List Completion}
    (hd : [⟨p, .done, 0, 0⟩] ++ ((s.job i).pendingHold.map fun q => ⟨q, .superseded, 0, 0⟩).toList = done)
    (hn : (done.map fun c => ringPlace c.ptr).Nodup) :
    Concludes { s with
        jobs := s.jobs.set i { s.job i with state := .printing, reasons := ⟨false, false, false⟩, pendingHold := none } } (s.unholdJob i p).finish done := by
  subst hd
  rw [unholdJob_of_holding hs hf hl ho]
  cases hp : (s.job i).pendingHold with
  | none =>
    exact concludes_answer (v := s.setJob i { s.job i with state := .printing, reasons := ⟨false, false, false⟩, pendingHold := none })
      rfl quiet going p (.done, 0, 0)
  | some q =>
    rw [hp] at hn
    refine finish_concludes_as ?_ ?_ ?_ ?_ ?_ going hn
    · rfl
    · show (s.todo.done ++ [_]) ++ [_] = _
      rw [quiet]
      rfl
    · show ∀ k ∈ s.todo.pools, _
      rw [quiet]
      exact fun _ h => by cases h
    · show s.todo.risen = []
      rw [quiet]
      rfl
    · show s.todo.reset = false
      rw [quiet]
      rfl

end

/-- Settles O36: by range, state and tag, and then by the state of the job and the hold reasons left. -/
theorem jobReleaseActsByTheSetLeft : Obligations.JobReleaseActsByTheSetLeft := by
  intro s slot tag h
  refine ⟨fun hr => exec_jobRelease_refused h (by rw [slotOf_of_out_of_range hr]; rfl)
    (by rw [slotOf_of_out_of_range hr]; exact fun _ h => by cases h), fun i hi ht => ?_⟩
  have named := slotOf_of_in_range hi ht
  have run := exec_jobRelease h hi
  have going := (taken_going s false).trans (takeable_going h)
  obtain ⟨q, hq⟩ := exists_taken_eq s false
  intro j jobs
  refine ⟨fun hf => exec_jobRelease_refused h ?_ ?_, fun hf hc hd => exec_jobRelease_refused h ?_ ?_, fun hd =>
    ⟨fun hs hr => ?running, fun hs hf => ?funds, fun hs hf hr => ?held, fun l hs hf hl ho => ?holding⟩⟩
  · rw [named]
    exact if_pos (by simpa using hf)
  · rw [named]
    rintro k ⟨⟩ hn hc
    exact absurd hf (not_or.mpr ⟨hn, hc⟩)
  · rw [named]
    dsimp only
    rw [if_neg (by simpa using ⟨hf, hc⟩), mismatch_eq]
  · rw [named]
    rintro k ⟨⟩ - -
    exact (tagDiffers_iff _ _).mpr hd
  all_goals rw [hq] at run going ⊢
  case running =>
    have ended := run (by rcases hs with hs | hs <;> rw [hs] <;> decide) (by rcases hs with hs | hs <;> rw [hs] <;> decide) hd
    rw [unholdJob_of_free_running (s := s.atQueue q) hs hr] at ended
    exact ⟨_, ended, concludes_answer (v := s.atQueue q) rfl rfl going s.queue.take (.done, 0, 0)⟩
  case funds =>
    exact ⟨_, run (by rcases hs with hs | hs <;> rw [hs] <;> decide) (by rcases hs with hs | hs <;> rw [hs] <;> decide) hd,
      concludes_unholdJob_of_funds (s := s.atQueue q) rfl going hf⟩
  case held =>
    exact ⟨_, run (by rw [hs]; decide) (by rw [hs]; decide) hd, concludes_unholdJob_of_held (s := s.atQueue q) rfl going hs hf hr⟩
  case holding =>
    have ended := run (by rw [hs]; decide) (by rw [hs]; decide) hd
    refine ⟨fun hp => ⟨_, ended, concludes_unholdJob_of_holding (s := s.atQueue q) rfl going hs hf hl ho ?_ (by simp)⟩, fun p hp hne =>
      ⟨_, ended, concludes_unholdJob_of_holding (s := s.atQueue q) rfl going hs hf hl ho ?_ (by simpa using Ne.symm hne)⟩⟩
    · have none_held : ((s.atQueue q).job i).pendingHold = none := hp
      rw [none_held]
      rfl
    · have held : ((s.atQueue q).job i).pendingHold = some p := hp
      rw [held]
      rfl

end Sys2Proof.Machine
end

section
/-! PROOF. The release of a job (R45, R68), the closing of intake where it leads to nothing more (R22, R41), and JOB-CANCEL (R60):
settles O37. -/

namespace Sys2Proof.Machine

section
variable {s : State} {i : Slot} {l : LaneNo}

/-! ## Blocks that return -/

/-- Where no pool has a reservation every block is in the shared region (R26). -/
theorem regionOf_of_unreserved (h : ∀ p, (s.pool p).reserved = false) (b : Nat) : s.regionOf b = none := by
  refine List.find?_eq_none.mpr fun p _ hp => ?_
  have reserved : (s.pool p).reserved = true := by
    simp only [inExtents, Bool.and_eq_true, decide_eq_true_eq] at hp
    exact decide_eq_true (hp.1.trans hp.2)
  rw [h p] at reserved
  cases reserved

/-- Where no pool has a reservation, blocks return to the tail of the shared free queue (R27). -/
theorem freeBlocks_of_unreserved (bs : List Nat) (h : ∀ p, (s.pool p).reserved = false) :
    s.freeBlocks bs = { s with sharedFree := s.sharedFree ++ bs } := by
  induction bs generalizing s with
  | nil =>
    rw [List.append_nil]
    rfl
  | cons b rest ih =>
    have first : s.freeBlock b = { s with sharedFree := s.sharedFree ++ [b] } := by
      unfold State.freeBlock
      rw [regionOf_of_unreserved h]
    show (s.freeBlock b).freeBlocks rest = _
    rw [first, ih (s := { s with sharedFree := s.sharedFree ++ [b] }) h, List.append_assoc]
    rfl

/-! ## Leaving the wait list -/

/-- The only job that waits leaves the wait list empty (R37). -/
theorem leaveWait_of_alone (h : ∀ k ∈ s.waitList, k = i) : s.leaveWait i = { s with waitList := [] } := by
  unfold State.leaveWait
  rw [List.filter_eq_nil_iff.mpr fun k hk => by simp [h k hk]]

/-! ## The release of a job -/

/-- The notice of a job's release (R68). -/
def Job.farewell (j : Job) (i : Slot) (cancelled : Bool) : Notice :=
  if cancelled then .cancelled i j.tag j.totals else .done i j.tag j.totals

/-- A QUEUED job out of its class, and another as it is (R52). -/
def State.unqueue (s : State) (i : Slot) : State := if (s.job i).state = .queued then s.leaveQueue i else s

@[simp] theorem job_unqueue (k : Slot) : (s.unqueue i).job k = s.job k := by
  unfold State.unqueue
  split
  · rw [leaveQueue_eq, State.job_setPool]
  · rfl

theorem pool_leaveQueue (p : PoolNo) : (s.leaveQueue i).pool p =
    if (s.job i).pool = p then (s.pool p).without (s.job i).prio i else s.pool p := by
  rw [leaveQueue_eq, State.pool_setPool]
  split
  · rename_i h
    rw [h]
  · rfl

/-- A job that leaves its class leaves the reservations and the ready-lane queues as they are. -/
theorem reserved_unqueue (p : PoolNo) : ((s.unqueue i).pool p).reserved = (s.pool p).reserved := by
  unfold State.unqueue
  split
  · rw [pool_leaveQueue]
    split
    · rfl
    · rfl
  · rfl

theorem ready_unqueue (p : PoolNo) : ((s.unqueue i).pool p).ready = (s.pool p).ready := by
  unfold State.unqueue
  split
  · rw [pool_leaveQueue]
    split
    · rfl
    · rfl
  · rfl

/-- The state `s` with other pool records. -/
def State.atPools (s : State) (ps : Vector Pool 8) : State := { s with pools := ps }

/-- What leaving a class changes. -/
theorem exists_unqueue_eq : ∃ ps, s.unqueue i = s.atPools ps := by
  unfold State.unqueue
  split
  · exact ⟨_, rfl⟩
  · exact ⟨_, rfl⟩

/-- What the release of the job of slot `i` does to a state which its lane and its queue have left already, where its blocks are `bs` and
no other job waits (R8, R45, R68). -/
def State.vacate (s : State) (i : Slot) (bs : List Nat) : State :=
  (State.forgetSlot { s with sharedFree := s.sharedFree ++ bs, waitList := [] } i).setJob i Job.vacant

/-- The release of a job without a lane, where no pool has a reservation and no other job waits (R45, R68). -/
theorem releaseJob_of_unbound (hl : (s.job i).lane = none) (hp : ∀ p, (s.pool p).reserved = false) (hw : ∀ k ∈ s.waitList, k = i)
    (c : Bool) : s.releaseJob i c =
      ((((s.notice ((s.job i).farewell i c)).unqueue i).vacate i (s.job i).chain).completeOpt (s.job i).pendingCancel .done 0 0).completeOpt
        (s.job i).pendingHold .state 0 0 := by
  have job : (s.notice ((s.job i).farewell i c)).job i = s.job i := State.job_notice ..
  have unqueued : (if (s.job i).state = .queued then (s.notice ((s.job i).farewell i c)).leaveQueue i
      else s.notice ((s.job i).farewell i c)) = (s.notice ((s.job i).farewell i c)).unqueue i := by
    rw [State.unqueue, job]
  have waits : ((s.notice ((s.job i).farewell i c)).unqueue i).waitList = s.waitList := by
    obtain ⟨ps, hps⟩ := exists_unqueue_eq (s := s.notice ((s.job i).farewell i c)) (i := i)
    rw [hps]
    exact State.notice_waitList ..
  unfold State.releaseJob
  dsimp only
  rw [← Job.farewell, unqueued, leaveLane_of_unbound _ _ (by rw [job_unqueue, job]; exact hl),
    freeBlocks_of_unreserved _ (fun p => by rw [reserved_unqueue, State.pool_notice]; exact hp p),
    leaveWait_of_alone (by rw [waits]; exact hw)]
  exact walk_of_none _ (by simp [State.forgetSlot])

theorem cache_vacate (bs : List Nat) (c : Fin 64) : (s.vacate i bs).cache[c] =
    if s.cache[c].slot = i then { s.cache[c] with valid := false } else s.cache[c] := by
  show (mapVector (fun e => if e.slot = i then { e with valid := false } else e) s.cache)[c.val] = _
  rw [getElem_mapVector]
  rfl

/-- A notice depends on the notice queue and its drop count alone (R170). -/
theorem notice_eq_of_notices {b : State} (hn : s.notices = b.notices) (hd : s.noticeDrops = b.noticeDrops) (n : Notice) :
    s.notice n = s.atNotices (b.notice n).notices (b.notice n).noticeDrops := by
  unfold State.notice State.noticeRoom
  rw [hn]
  split
  · rw [← hd]
    rfl
  · rw [hd, ← hn]
    rfl

/-- The state `b` with the job of slot `i` changed to `j`, other jobs waiting and other things left to carry out. -/
def State.atJob (b : State) (i : Slot) (j : Job) (w : List Slot) (d : Todo) : State := { b.setJob i j with waitList := w, todo := d }

theorem notice_atJob (b : State) (j : Job) (w : List Slot) (d : Todo) (n : Notice) :
    (b.atJob i j w d).notice n = (b.atJob i j w d).atNotices (b.notice n).notices (b.notice n).noticeDrops :=
  notice_eq_of_notices (s := b.atJob i j w d) (b := b) rfl rfl n

/-- A job that is released from a state that differs from `b` in that job and in who waits is released from `b` (R45, R68). -/
theorem released_vacate {b : State} {j : Job} {w : List Slot} {d d' : Todo} {n : Notice} (hstate : j.state = (b.job i).state)
    (hpool : j.pool = (b.job i).pool) (hprio : j.prio = (b.job i).prio) :
    Released b { ((((b.atJob i j w d).notice n).unqueue i).vacate i (b.job i).chain) with todo := d' } i n := by
  have job : ((b.atJob i j w d).notice n).job i = j := by
    rw [State.job_notice]
    exact State.job_setJob_self ..
  have jobs : ∀ k, k ≠ i → ((b.atJob i j w d).notice n).job k = b.job k := fun k hk => by
    rw [State.job_notice]
    exact (State.job_setJob ..).trans (if_neg (Ne.symm hk))
  have pools : ((b.atJob i j w d).notice n).pools = b.pools := State.notice_pools ..
  rw [notice_atJob] at job jobs pools ⊢
  generalize hns : (b.notice n).notices = ns at job jobs pools
  generalize hdrops : (b.notice n).noticeDrops = drops at job jobs pools
  have left := leaveQueue_eq (s := (b.atJob i j w d).atNotices ns drops) (i := i)
  rw [job, hpool, hprio] at left
  have leaves : (b.job i).state = .queued → (((b.atJob i j w d).atNotices ns drops).unqueue i).pools =
      b.pools.set (b.job i).pool ((b.pool (b.job i).pool).without (b.job i).prio i) := fun hq => by
    rw [State.unqueue, if_pos (by rw [job, hstate]; exact hq), left]
    rfl
  have stays : (b.job i).state = .held → (((b.atJob i j w d).atNotices ns drops).unqueue i).pools = b.pools := fun hq => by
    rw [State.unqueue, if_neg (by rw [job, hstate, hq]; decide)]
    rfl
  obtain ⟨ps, hps⟩ := exists_unqueue_eq (s := (b.atJob i j w d).atNotices ns drops) (i := i)
  rw [hps] at leaves stays ⊢
  exact
    { frame := by
        rw [hns, hdrops]
        unfold State.vacate State.forgetSlot State.setJob State.atPools State.atNotices State.atJob
        dsimp only
        rfl
      slot := State.job_setJob_self ..
      others := fun k hk => (State.job_setJob ..).trans ((if_neg (Ne.symm hk)).trans (jobs k hk))
      cache := cache_vacate _
      blocks := rfl
      left := leaves
      unqueued := stays }

/-! ## The closing of intake -/

/-- A job that has records left, and whose confirm cursor has not passed the last one on the final copy, is not complete (R67). -/
theorem completed_eq_false {j : Job} (hr : j.records ≠ []) (hc : j.confirm.copy ≠ j.copies ∨ j.confirm.pos < j.records.length) :
    j.completed = false := by
  unfold Job.completed
  have some_left : j.records.isEmpty = false := by simpa using hr
  rw [some_left, Bool.false_or]
  refine Bool.and_eq_false_imp.mpr fun _ => Bool.and_eq_false_imp.mpr fun hcopy => decide_eq_false ?_
  rw [beq_iff_eq] at hcopy
  rcases hc with hc | hc
  · exact absurd hcopy hc
  · omega

/-- A job whose intake is closed and whose promise is returned (R22, R41). -/
def Job.closed (j : Job) : Job := { j with intakeOpen := false, granted := j.allocated, promised := 0, promisedShared := 0 }

/-- The closing of the intake of a job without a lane and without a sheet in progress, where no other job waits and the job does not
complete by it (R22, R41). -/
theorem closeIntake_of_unbound (hl : (s.job i).lane = none) (hi : (s.job i).inProgress = none) (hw : ∀ k ∈ s.waitList, k = i)
    (hc : (s.job i).closed.completed = false) :
    s.closeIntake i = ({ s.setJob i (s.job i).closed with waitList := [] } : State).noteSendable i := by
  have damage : s.damageInProgress i .short = s := by
    unfold State.damageInProgress
    rw [hi]
  have returned : (s.modJob i fun j => { j with intakeOpen := false }).returnPromise i =
      { s.setJob i (s.job i).closed with waitList := [] } := by
    unfold State.returnPromise
    dsimp only
    rw [modJob_modJob, leaveWait_of_alone (by rw [State.modJob_waitList]; exact hw)]
    split
    · exact walk_of_none _ rfl
    · rfl
  unfold State.closeIntake
  dsimp only
  rw [damage, returned]
  have job : ({ s.setJob i (s.job i).closed with waitList := [] } : State).job i = (s.job i).closed := State.job_setJob_self ..
  rw [job, if_neg (by rw [Job.closed, hl]; decide), State.testCompletion, job,
    if_neg (by rw [hc]; simp)]

/-! ## Cancelling -/

theorem completeOpt_none (r : Result) (v1 v2 : Word32) : s.completeOpt none r v1 v2 = s := rfl

/-- A cancel of a job whose intake is closed, or is not closed by it, and that has nothing in flight (R60, R68). -/
theorem cancelJob_of_unbound {t : State} (ht : (if (s.job i).intakeOpen then s.closeIntake i else s) = t)
    (hf : (t.job i).state ≠ .free) (hh : (t.job i).pendingHold = none) (hl : (t.job i).lane = none) (directive : Option QueuePtr) :
    s.cancelJob i directive = (t.completeOpt directive .done 0 0).releaseJob i true := by
  have same : t.modJob i (fun j => { j with pendingHold := none }) = t := by
    refine Eq.trans (congrArg (t.setJob i) ?_) (setJob_job t i)
    rw [← hh]
  have idle : t.sheetsInFlight i = false := by
    unfold State.sheetsInFlight
    rw [hl]
  unfold State.cancelJob
  dsimp only
  rw [ht, if_neg hf, hh, completeOpt_none, if_neg (by rw [same, idle]; decide), same]

/-- A cancel of a job with sheets in flight (R60, R61, R120). -/
theorem cancelJob_of_bound {t : State} (ht : (if (s.job i).intakeOpen then s.closeIntake i else s) = t)
    (hf : (t.job i).state ≠ .free) (hl : (t.job i).lane = some l) (hi : (t.lane l).offer ≠ none ∨ (t.lane l).inflight ≠ [])
    (directive : Option QueuePtr) : s.cancelJob i directive =
      ((t.setJob i { t.job i with state := .cancelling, pendingHold := none, pendingCancel := directive }).sendAbort l).completeOpt
        (t.job i).pendingHold .superseded 0 0 := by
  have flight : ((t.completeOpt (t.job i).pendingHold .superseded 0 0).modJob i fun j => { j with pendingHold := none }).sheetsInFlight i
      = true := by
    rw [sheetsInFlight_iff (l := l) (by rw [State.job_modJob_self, State.job_completeOpt]; exact hl)]
    simpa using hi
  have lane : (((t.completeOpt (t.job i).pendingHold .superseded 0 0).modJob i fun j => { j with pendingHold := none }).job i).lane
      = some l := by
    rw [State.job_modJob_self, State.job_completeOpt]
    exact hl
  unfold State.cancelJob
  dsimp only
  rw [ht, if_neg hf, if_pos flight, lane]
  dsimp only
  rw [modJob_modJob, State.modJob, State.job_completeOpt]
  cases (t.job i).pendingHold with
  | none => rfl
  | some p => rfl

/-- An event in which the job of slot `i` is released without its lane ends with the completions noted, where no lane is READY. -/
theorem concludes_vacate {b : State} {j : Job} {w : List Slot} {d d' : Todo} {n : Notice} {bs : List Nat} {done : List Completion}
    (hd : d = { Todo.nothing with pools := d.pools, requeued := d.requeued, done := done }) (hg : b.queue.resetTaken = false)
    (hr : b.noLaneReady) (hn : (done.map fun c => ringPlace c.ptr).Nodup) :
    Concludes { ((((b.atJob i j w d).notice n).unqueue i).vacate i bs) with todo := d' }
      ((((b.atJob i j w d).notice n).unqueue i).vacate i bs).finish done := by
  have ready : ∀ p, ((((b.atJob i j w d).notice n).unqueue i).pool p).ready = [] := fun p => by
    rw [ready_unqueue, State.pool_notice]
    exact hr p
  have todo : (((b.atJob i j w d).notice n).unqueue i).todo = d := by
    obtain ⟨ps, hps⟩ := exists_unqueue_eq (s := (b.atJob i j w d).notice n) (i := i)
    rw [hps]
    exact State.notice_todo ..
  have queue : (((b.atJob i j w d).notice n).unqueue i).queue = b.queue := by
    obtain ⟨ps, hps⟩ := exists_unqueue_eq (s := (b.atJob i j w d).notice n) (i := i)
    rw [hps]
    exact State.notice_queue ..
  generalize ((b.atJob i j w d).notice n).unqueue i = t at ready todo queue
  have todo' : (t.vacate i bs).todo = d := todo
  refine finish_concludes_as rfl ?_ (fun p _ => .inl (ready p)) ?_ ?_ ?_ hn
  · rw [todo', hd]
  · rw [todo', hd]
    rfl
  · rw [todo', hd]
    rfl
  · show t.queue.resetTaken = false
    rw [queue]
    exact hg

/-! ## JOB-CANCEL -/

variable {p : QueuePtr} (quiet : s.todo = Todo.nothing) (going : s.queue.resetTaken = false)
include quiet going

/-- A QUEUED or HELD job is released at once (R60). -/
theorem concludes_cancelJob_of_unbound (hs : (s.job i).state = .queued ∨ (s.job i).state = .held) (hl : (s.job i).lane = none)
    (hh : (s.job i).pendingHold = none) (hc : (s.job i).pendingCancel = none) (hi : (s.job i).inProgress = none)
    (hr : (s.job i).records ≠ []) (hf : (s.job i).confirm.copy ≠ (s.job i).copies ∨ (s.job i).confirm.pos < (s.job i).records.length)
    (hp : ∀ p, (s.pool p).reserved = false) (hw : ∀ k ∈ s.waitList, k = i) (hn : s.noLaneReady) :
    ∃ u, Concludes u (s.cancelJob i (some p)).finish [⟨p, .done, 0, 0⟩] ∧ Released s u i ((s.job i).farewell i true) := by
  have live : (s.job i).state ≠ .free := by
    rcases hs with hs | hs
    · rw [hs]
      decide
    · rw [hs]
      decide
  obtain ⟨j, w, ps, ht, hstate, hpool, hprio, hchain, hlane, hhold, hcancel, hfare, hwait⟩ : ∃ j w ps,
      (if (s.job i).intakeOpen then s.closeIntake i else s) = s.atJob i j w { Todo.nothing with pools := ps } ∧
      j.state = (s.job i).state ∧ j.pool = (s.job i).pool ∧ j.prio = (s.job i).prio ∧ j.chain = (s.job i).chain ∧ j.lane = none ∧
      j.pendingHold = none ∧ j.pendingCancel = none ∧ j.farewell i true = (s.job i).farewell i true ∧ ∀ k ∈ w, k = i := by
    by_cases ho : (s.job i).intakeOpen = true
    · rw [if_pos ho, closeIntake_of_unbound hl hi hw (completed_eq_false hr hf)]
      unfold State.noteSendable
      split
      · refine ⟨(s.job i).closed, [], [((s.setJob i (s.job i).closed).job i).pool], ?_, rfl, rfl, rfl, rfl, hl, hh, hc, rfl, by simp⟩
        unfold State.noteDispatch State.atJob
        dsimp only [State.setJob_todo]
        rw [quiet]
        rfl
      · refine ⟨(s.job i).closed, [], [], ?_, rfl, rfl, rfl, rfl, hl, hh, hc, rfl, by simp⟩
        unfold State.atJob
        dsimp only
        rw [State.setJob_todo, quiet]
        rfl
    · rw [if_neg ho]
      refine ⟨s.job i, s.waitList, [], ?_, rfl, rfl, rfl, rfl, hl, hh, hc, rfl, hw⟩
      unfold State.atJob
      rw [setJob_job]
      show s = { s with todo := Todo.nothing }
      rw [← quiet]
  have job : (s.atJob i j w { Todo.nothing with pools := ps }).job i = j := State.job_setJob_self ..
  have cancelled := cancelJob_of_unbound ht (by rw [job, hstate]; exact live) (by rw [job]; exact hhold) (by rw [job]; exact hlane)
    (some p)
  have completes : (s.atJob i j w { Todo.nothing with pools := ps }).completeOpt (some p) .done 0 0 =
      s.atJob i j w { Todo.nothing with pools := ps, done := [⟨p, .done, 0, 0⟩] } := rfl
  have job' : (s.atJob i j w { Todo.nothing with pools := ps, done := [⟨p, .done, 0, 0⟩] }).job i = j := State.job_setJob_self ..
  have released := releaseJob_of_unbound (s := s.atJob i j w { Todo.nothing with pools := ps, done := [⟨p, .done, 0, 0⟩] })
    (by rw [job']; exact hlane) hp hwait true
  rw [job', hhold, hcancel, completeOpt_none, completeOpt_none, hchain, hfare] at released
  rw [completes, released] at cancelled
  rw [cancelled]
  exact ⟨_, concludes_vacate (d' := Todo.nothing) rfl going hn (by simp), released_vacate hstate hpool hprio⟩

omit going in
/-- A job with sheets in flight becomes CANCELLING, and its lane sends ABORT (R60, R61, R120). -/
theorem finish_cancelJob_of_bound (ho : (s.job i).intakeOpen = false) (hf : (s.job i).state ≠ .free) (hl : (s.job i).lane = some l)
    (hi : (s.lane l).offer ≠ none ∨ (s.lane l).inflight ≠ []) (hh : (s.job i).pendingHold = none) (directive : Option QueuePtr) :
    (s.cancelJob i directive).finish = { s with
      jobs := s.jobs.set i { s.job i with state := .cancelling, pendingHold := none, pendingCancel := directive }
      lanes := s.lanes.set l { s.lane l with
        abort := true, reoffer := none, timeouts := 0, answer := some ((s.lane l).current.answer * 1000) }
      sent := s.sent ++ [Sent.link l LinkFrame.abort.bytes] } := by
  rw [cancelJob_of_bound (t := s) (if_neg (by rw [ho]; decide)) hf hl hi, hh, completeOpt_none]
  refine (finish_nothing _ ?_).trans ?_
  · exact quiet
  · unfold State.settled
    rw [← quiet]
    rfl

/-- An earlier JOB-HOLD completes as the job becomes CANCELLING (R58, R61). -/
theorem concludes_cancelJob_of_bound (ho : (s.job i).intakeOpen = false) (hf : (s.job i).state ≠ .free)
    (hl : (s.job i).lane = some l) (hi : (s.lane l).offer ≠ none ∨ (s.lane l).inflight ≠ []) {q : QueuePtr}
    (hh : (s.job i).pendingHold = some q) (directive : Option QueuePtr) :
    Concludes { s with
      jobs := s.jobs.set i { s.job i with state := .cancelling, pendingHold := none, pendingCancel := directive }
      lanes := s.lanes.set l { s.lane l with
        abort := true, reoffer := none, timeouts := 0, answer := some ((s.lane l).current.answer * 1000) }
      sent := s.sent ++ [Sent.link l LinkFrame.abort.bytes] } (s.cancelJob i directive).finish [⟨q, .superseded, 0, 0⟩] := by
  rw [cancelJob_of_bound (t := s) (if_neg (by rw [ho]; decide)) hf hl hi, hh]
  exact concludes_answer (v := (s.setJob i { s.job i with
    state := .cancelling, pendingHold := none, pendingCancel := directive }).sendAbort l) rfl quiet going q (.superseded, 0, 0)

end

/-! ### The event -/

section
variable {s : State} {i : Slot} {slot tag : Word32}

/-- A JOB-CANCEL that names a job by its tag acts on that job (R60). -/
theorem exec_jobCancel (h : s.takeable (.jobCancel slot tag) = true) (hi : slot.toNat = i) (hf : (s.job i).state ≠ .free)
    (ht : tag = 0#16 ++ (s.job i).tag) : exec (.jobCancel slot tag) s = .next
      (if (s.job i).state = .cancelling then (s.taken false).answer s.queue.take (refusal .superseded)
        else (s.taken false).cancelJob i (some s.queue.take)).finish := by
  show execJobCancel slot tag s = _
  unfold execJobCancel
  rw [takeDirective_of_takeable h, slotOf_of_in_range hi (by rw [ht]; exact tag_in_range _)]
  dsimp only
  rw [taken_job, if_neg hf, if_neg (by rw [tagDiffers_iff, not_not]; exact ht)]

/-- The refusals of JOB-CANCEL (R60). -/
theorem exec_jobCancel_refused (h : s.takeable (.jobCancel slot tag) = true) {r : Result} {v1 : Word32}
    (hr : (match slotOf slot tag with
      | none => refusal .range
      | some i => if (s.job i).state = .free then refusal .state else (s.job i).mismatch) = (r, v1, 0))
    (ht : ∀ i, slotOf slot tag = some i → (s.job i).state ≠ .free → (s.job i).tagDiffers tag = true) :
    ∃ t, exec (.jobCancel slot tag) s = .next t ∧ Concludes (s.taken false) t [⟨s.queue.take, r, v1, 0⟩] := by
  show ∃ t, execJobCancel slot tag s = .next t ∧ _
  unfold execJobCancel
  refine takeDirective_reports h ?_
  rw [← hr]
  cases hs : slotOf slot tag with
  | none => rfl
  | some i =>
    dsimp only
    rw [taken_job]
    by_cases hf : (s.job i).state = .free
    · rw [if_pos hf, if_pos hf]
    · rw [if_neg hf, if_neg hf, if_pos (ht i hs hf)]

end

/-- Settles O37: by range, state and tag, and then by what the job has in flight. -/
theorem jobCancelReleasesOrStopsTheLane : Obligations.JobCancelReleasesOrStopsTheLane := by
  intro s slot tag h
  refine ⟨fun hr => exec_jobCancel_refused h (by rw [slotOf_of_out_of_range hr]; rfl)
    (by rw [slotOf_of_out_of_range hr]; exact fun _ h => by cases h), fun i hi ht => ?_⟩
  have named := slotOf_of_in_range hi ht
  have run := exec_jobCancel h hi
  have going := (taken_going s false).trans (takeable_going h)
  obtain ⟨q, hq⟩ := exists_taken_eq s false
  intro j
  refine ⟨fun hf => exec_jobCancel_refused h (by rw [named]; exact if_pos hf) ?_, fun hf hd => exec_jobCancel_refused h ?_ ?_,
    fun hd hc => ?cancelling, fun hd hs hl hh hc hi hr hf hp hw hn => ?release, fun l hd hs ho hl hi => ?stop⟩
  · rw [named]
    rintro k ⟨⟩ hn
    exact absurd hf hn
  · rw [named]
    dsimp only
    rw [if_neg hf, mismatch_eq]
  · rw [named]
    rintro k ⟨⟩ -
    exact (tagDiffers_iff _ _).mpr hd
  all_goals rw [hq] at run going ⊢
  case cancelling =>
    have ended := run (by rw [hc]; decide) hd
    rw [if_pos hc] at ended
    exact ⟨_, ended, concludes_answer (v := s.atQueue q) rfl rfl going s.queue.take (.superseded, 0, 0)⟩
  case release =>
    have ended := run (by rcases hs with hs | hs <;> rw [hs] <;> decide) hd
    rw [if_neg (by rcases hs with hs | hs <;> rw [hs] <;> decide)] at ended
    obtain ⟨u, hu, released⟩ := concludes_cancelJob_of_unbound (s := s.atQueue q) (p := s.queue.take) rfl going hs hl hh hc hi hr hf hp
      hw hn
    exact ⟨u, ⟨_, ended, hu⟩, released⟩
  case stop =>
    have live : (s.job i).state ≠ .free := by rcases hs with hs | hs <;> rw [hs] <;> decide
    have ended := run live hd
    rw [if_neg (by rcases hs with hs | hs <;> rw [hs] <;> decide)] at ended
    refine ⟨fun hp => ?_, fun p hp hne => ?_⟩
    · rw [ended, finish_cancelJob_of_bound (s := s.atQueue q) rfl ho live hl hi hp]
      rfl
    · exact ⟨_, ended, concludes_cancelJob_of_bound (s := s.atQueue q) rfl going ho live hl hi hp _⟩

end Sys2Proof.Machine
end

section
/-! PROOF. The accepted OPEN (R4) and its initial grant (R38 to R40): settles O44. -/

namespace Sys2Proof.Machine

/-! ## Totals over the job table -/

theorem sum_map_filter_eq {α : Type} (p : α → Bool) (f : α → Nat) (l : List α) :
    ((l.filter p).map f).sum = (l.map fun a => if p a then f a else 0).sum := by
  induction l with
  | nil => rfl
  | cons a rest ih =>
    by_cases h : p a = true
    · simp [h, ih]
    · simp [h, ih]

/-- A figure that a new record in a table has in common with the old one is the same all over the table. -/
theorem map_toList_set {α β : Type} {n : Nat} (v : Vector α n) (k : Fin n) (a : α) (g : α → β) (h : g a = g v[k]) :
    (v.set k a).toList.map g = v.toList.map g := by
  refine List.ext_getElem (by simp) fun m h1 h2 => ?_
  simp only [List.getElem_map, Vector.getElem_toList, Vector.getElem_set]
  split
  · rename_i e
    subst e
    exact h
  · rfl

/-- What a job record adds to its pool's promise total (R32). -/
def Job.promisedIn (j : Job) (p : PoolNo) : Nat := if j.state != .free && j.pool == p then j.promised else 0

/-- What a job record adds to the shared promise total (R32). -/
def Job.sharedPart (j : Job) : Nat := if j.state != .free then j.promisedShared else 0

section
variable {s : State} {i : Slot}

theorem promiseTotal_eq (p : PoolNo) : s.promiseTotal p = (s.jobs.toList.map fun j => j.promisedIn p).sum :=
  sum_map_filter_eq ..

theorem sharedTotal_eq : s.sharedTotal = (s.jobs.toList.map Job.sharedPart).sum :=
  sum_map_filter_eq ..

theorem promiseTotal_setJob {j : Job} {p : PoolNo} (h : j.promisedIn p = (s.job i).promisedIn p) :
    (s.setJob i j).promiseTotal p = s.promiseTotal p := by
  rw [promiseTotal_eq, promiseTotal_eq]
  exact congrArg List.sum (map_toList_set s.jobs i j (fun j => j.promisedIn p) h)

theorem sharedTotal_setJob {j : Job} (h : j.sharedPart = (s.job i).sharedPart) : (s.setJob i j).sharedTotal = s.sharedTotal := by
  rw [sharedTotal_eq, sharedTotal_eq]
  exact congrArg List.sum (map_toList_set s.jobs i j Job.sharedPart h)

/-! ## The walk of a list with one job -/

/-- An item that finds room joins the notice queue (R170). -/
theorem notice_atNotices (h : s.notices.length < 128) (n : Notice) : s.notice n = s.atNotices (s.notices ++ [n]) s.noticeDrops :=
  notice_of_room h n

theorem walk_of_one (h : s.waitList = [i]) : s.walk = s.grantTo i := by
  unfold State.walk
  rw [h]
  rfl

theorem due_iff : s.due i = true ↔ (s.job i).intakeOpen = true ∧ (s.job i).outstanding < (s.pool (s.job i).pool).refillMark := by
  rw [State.due, Bool.and_eq_true, decide_eq_true_eq]

theorem grantTo_of_zero (h : s.grantSize i = 0) : s.grantTo i = s := if_pos h

/-- The visit of a walk that grants `g` units to a job, `r` of them from its pool's region (R39, R40). -/
theorem grantTo_of_pos {g r : Nat} (hg : s.grantSize i = g) (h0 : g ≠ 0) (hr : min g (s.poolUnpromised (s.job i).pool) = r) :
    s.grantTo i =
      let t := (s.notice (.credit i (s.job i).tag ((s.job i).granted + g))).setJob i ((s.job i).grant g r)
      if t.due i then t else t.leaveWait i := by
  subst hg hr
  unfold State.grantTo
  rw [if_neg h0]
  dsimp only
  rw [State.job_modJob_self, State.modJob, notice_setJob]
  rfl

/-! ## The accepted OPEN -/

variable {j : Job} {p : PoolNo}

/-- A pool record with a slot at the tail of one of its classes (R4). -/
def Pool.joined (p : Pool) (k : Fin 4) (i : Slot) : Pool := { p with classes := p.classes.set k (p.classes[k] ++ [i]) }

theorem joinTail_eq : s.joinTail i =
    (s.setPool (s.job i).pool ((s.pool (s.job i).pool).joined (s.job i).prio i)).noteDispatch (s.job i).pool := rfl

/-- The state in which the job of an accepted OPEN joins the wait list (R4). -/
def State.entered (s : State) (i : Slot) (j : Job) : State :=
  (((s.setJob i j).fillCache j.tag i).setPool j.pool ((s.pool j.pool).joined j.prio i)).noteDispatch j.pool

theorem joinTail_eq_entered : ((s.setJob i j).fillCache j.tag i).joinTail i = s.entered i j := by
  have job : ((s.setJob i j).fillCache j.tag i).job i = j := State.job_setJob_self ..
  rw [joinTail_eq, job]
  rfl

theorem job_entered : (s.entered i j).job i = j := State.job_setJob_self ..

/-- The state in which the walk of an accepted OPEN grants the first credit (R4). -/
def State.accepting (s : State) (i : Slot) (j : Job) : State :=
  { s.entered i j with waitList := [i], notices := s.notices ++ [.accepted i j.tag] }

theorem acceptOpen_eq (ho : j.intakeOpen = true) (hz : j.outstanding = 0) (hw : s.waitList = []) (hn : s.notices.length < 128) :
    s.acceptOpen i j = (s.accepting i j).walk := by
  have due : (s.entered i j).due i = true := by
    rw [due_iff, job_entered, hz]
    refine ⟨ho, ?_⟩
    unfold Pool.refillMark
    omega
  have waits : (s.entered i j).waitList = [] := hw
  have joined : (s.entered i j).joinWait i = { s.entered i j with waitList := [i] } := by
    unfold State.joinWait
    rw [due, waits]
    rfl
  unfold State.acceptOpen
  rw [joinTail_eq_entered, joined, notice_of_room (s := { s.entered i j with waitList := [i] }) hn]
  rfl

/-- The pool's part of the first grant is as it was before the OPEN (R39). -/
theorem grantSize_accepting (hf : (s.job i).state = .free) (h0 : j.promised = 0) (h1 : j.promisedShared = 0) :
    (s.accepting i j).poolUnpromised j.pool = s.poolUnpromised j.pool ∧
      (s.accepting i j).grantSize i = min (s.pool j.pool).allowance (s.poolUnpromised j.pool + s.sharedUnpromised) := by
  have none_promised : ∀ p, (s.job i).promisedIn p = 0 := fun p => by
    unfold Job.promisedIn
    rw [hf]
    rfl
  have none_shared : (s.job i).sharedPart = 0 := by
    unfold Job.sharedPart
    rw [hf]
    rfl
  have promises : (s.accepting i j).promiseTotal j.pool = s.promiseTotal j.pool :=
    promiseTotal_setJob (s := s) (by rw [none_promised, Job.promisedIn, h0, ite_self])
  have shared : (s.accepting i j).sharedTotal = s.sharedTotal :=
    sharedTotal_setJob (s := s) (by rw [none_shared, Job.sharedPart, h1, ite_self])
  have pool : (s.accepting i j).pool j.pool = (s.pool j.pool).joined j.prio i := State.pool_setPool_self ..
  have own : (s.accepting i j).poolUnpromised j.pool = s.poolUnpromised j.pool := by
    unfold State.poolUnpromised
    rw [promises, pool]
    rfl
  have job : (s.accepting i j).job i = j := job_entered
  refine ⟨own, ?_⟩
  unfold State.grantSize
  rw [job, pool, own, State.sharedUnpromised, shared, Job.outstanding, h0, h1]
  rfl

/-- The record of an accepted OPEN after its first grant, its place on the wait list and the notices (R38 to R40). -/
theorem walk_accepting {g r : Nat} (hf : (s.job i).state = .free) (ho : j.intakeOpen = true) (h0 : j.promised = 0)
    (h1 : j.promisedShared = 0) (h2 : j.granted = 0)
    (hg : min (s.pool j.pool).allowance (s.poolUnpromised j.pool + s.sharedUnpromised) = g) (hr : min g (s.poolUnpromised j.pool) = r)
    (hn : s.notices.length + 2 ≤ 128) : (s.accepting i j).walk =
      { s.entered i (j.grant g r) with
        waitList := if g < (s.pool j.pool).refillMark then [i] else []
        notices := s.notices ++ .accepted i j.tag :: (if g = 0 then [] else [.credit i j.tag g]) } := by
  obtain ⟨own, size⟩ := grantSize_accepting (j := j) hf h0 h1
  have job : (s.accepting i j).job i = j := job_entered
  rw [walk_of_one rfl]
  by_cases hz : g = 0
  · subst hz
    have ungranted : j.grant 0 r = j := by
      have none_drawn : r = 0 := by omega
      rw [none_drawn]
      rfl
    rw [grantTo_of_zero (size.trans hg), ungranted, if_pos (by unfold Pool.refillMark; omega)]
    rfl
  · have granted := grantTo_of_pos (s := s.accepting i j) (r := r) (size.trans hg) hz (by rw [job, own]; exact hr)
    rw [job, h2, notice_atNotices (s := s.accepting i j) (by
      show (s.notices ++ [_]).length < 128
      rw [List.length_append, List.length_singleton]
      omega)] at granted
    have due : ∀ ns drops, (((s.accepting i j).atNotices ns drops).setJob i (j.grant g r)).due i = true ↔
        g < (s.pool j.pool).refillMark := fun ns drops => by
      have sum : (j.grant g r).outstanding = g := by
        unfold Job.outstanding Job.grant
        dsimp only
        omega
      have same : (j.grant g r).pool = j.pool := rfl
      have pool : ((s.accepting i j).atNotices ns drops).pool j.pool = (s.pool j.pool).joined j.prio i := State.pool_setPool_self ..
      rw [due_iff, State.job_setJob_self, sum, same, State.pool_setJob, pool]
      exact and_iff_right ho
    have jobs : (s.jobs.set i j).set i (j.grant g r) = s.jobs.set i (j.grant g r) := Vector.set_set ..
    rw [granted, Nat.zero_add, if_neg hz]
    dsimp only
    by_cases hm : g < (s.pool j.pool).refillMark
    · rw [if_pos ((due _ _).mpr hm), if_pos hm]
      unfold State.accepting State.entered State.setJob
      dsimp only [State.noteDispatch, State.setPool, State.fillCache, State.atNotices]
      rw [jobs, List.append_assoc]
      rfl
    · rw [if_neg (mt (due _ _).mp hm), if_neg hm, leaveWait_of_alone (by
        show ∀ k ∈ [i], k = i
        simp)]
      unfold State.accepting State.entered State.setJob
      dsimp only [State.noteDispatch, State.setPool, State.fillCache, State.atNotices]
      rw [jobs, List.append_assoc]
      rfl

end

section
variable {s : State} {tag account : Word16} {pool : Byte} {i : Slot} {a : AccountNo} {p : PoolNo}

/-- An OPEN that no test refuses (R3). -/
theorem openTest_ok (hb : ¬(s.searchOpen tag).isSome = true) (hf : s.freeSlot = some i) (ha : account.toNat = a)
    (ho : (s.account a).isOpen = true) (hp : pool.toNat = p) : s.openTest tag account pool = .ok (i, a, p) := by
  unfold State.openTest
  rw [if_neg hb, hf, toIndex_of_eq a ha, toIndex_of_eq p hp]
  simp [ho]

theorem freeSlot_eq_some (hi : (s.job i).state = .free) (hl : ∀ k, k < i → (s.job k).state ≠ .free) : s.freeSlot = some i := by
  refine List.find?_eq_some_iff_getElem.mpr ⟨by simpa using hi, i, by simp, by simp, fun k hk => ?_⟩
  simpa using hl ⟨k, by omega⟩ hk

/-- An OPEN that its tests accept (R3, R4). -/
theorem exec_openJob_of_ok (hs : s.resetLow = false) (h : s.openTest tag account pool = .ok (i, a, p)) (prio : Byte)
    (copies first last : Word16) : exec (.openJob tag account pool prio copies first last) s =
      .next (s.begin.acceptOpen i (Job.opened tag a p prio copies first last)).finish := by
  have ht : s.begin.openTest tag account pool = .ok (i, a, p) := h
  show execOpenJob tag account pool prio copies first last s = _
  unfold execOpenJob event
  rw [if_neg (by rw [hs]; decide)]
  dsimp only
  rw [ht]

end

/-- The number of copies of an OPEN: 0 counts as 1, and above 999 as 999 (R4). -/
theorem clampCopies_eq (n : Nat) : clampCopies n = if n = 0 then 1 else min n 999 := by
  unfold clampCopies clamp
  split
  · split
    · rfl
    · omega
  · split
    · split <;> omega
    · split <;> omega

/-- Settles O44: the tests pass, the record is filled, and the walk visits the new job alone. -/
theorem openFillsTheLowestFreeSlot : Obligations.OpenFillsTheLowestFreeSlot := by
  intro s tag account pool prio copies first last i a p c hs hb hi hl ha ho hp hc hw hr hn g job
  have busy : ¬(s.searchOpen tag).isSome = true := by
    rw [searchOpen_isSome_iff]
    rintro ⟨k, hlive, htag, hopen⟩
    exact hb k hlive hopen htag
  have walked := walk_accepting (s := s.begin) (i := i) (j := Job.opened tag a p prio copies first last) (g := g)
    (r := min g (s.poolUnpromised p)) hi rfl rfl rfl rfl rfl rfl hn
  have accepted := (acceptOpen_eq (s := s.begin) (i := i) (j := Job.opened tag a p prio copies first last) rfl rfl hw
    (by show s.notices.length < 128; omega)).trans walked
  rw [exec_openJob_of_ok hs (openTest_ok busy (freeSlot_eq_some hi hl) ha ho hp), accepted]
  have granted : (Job.opened tag a p prio copies first last).grant g (min g (s.poolUnpromised p)) = job := by
    have prio_eq : clampPriority prio.toNat = c := Fin.ext hc.symm
    unfold Job.opened Job.grant
    dsimp only
    rw [prio_eq, clampCopies_eq, Job.vacant, Nat.zero_add, Nat.zero_add, Nat.zero_add]
    rfl
  rw [granted]
  refine congrArg _ ((finish_quiet _ ?_ ?_ ?_ ?_).trans ?_)
  · intro k hk
    rw [List.mem_singleton.mp (show k ∈ [p] from hk)]
    exact .inl ((congrArg Pool.ready (State.pool_setPool_self ..)).trans hr)
  · exact fun _ h => by cases h
  · rfl
  · rfl
  · unfold State.settled State.entered
    dsimp only [State.noteDispatch, State.setPool, State.setJob, State.fillCache]
    rfl

end Sys2Proof.Machine
end

section
/-! PROOF. How a spool frame reaches its job (R6, R7, R11), and what damaging a sheet does while intake is open (R13, R102): settles O45. -/

namespace Sys2Proof.Machine

/-! ## What is left to carry out is not read -/

/-- The state `s` with other things left to carry out. -/
def State.withTodo (s : State) (d : Todo) : State := { s with todo := d }

section
variable (s : State) (d : Todo) (i : Slot)

theorem begin_eq_withTodo : s.begin = s.withTodo Todo.nothing := rfl

theorem withTodo_withTodo (d' : Todo) : (s.withTodo d).withTodo d' = s.withTodo d' := rfl

theorem modJob_withTodo (f : Job → Job) : (s.withTodo d).modJob i f = (s.modJob i f).withTodo d := rfl

theorem notice_withTodo (n : Notice) : (s.withTodo d).notice n = (s.notice n).withTodo d := by
  unfold State.notice State.noticeRoom State.withTodo
  by_cases h : s.notices.length < Config.noticePlaces
  · simp only [h, decide_true, if_true]
  · simp only [h, decide_false, Bool.false_eq_true, if_false]

theorem raiseAlert_withTodo (e : AlertEvent) : (s.withTodo d).raiseAlert e = (s.raiseAlert e).withTodo d := by
  rw [raiseAlert_congr s (s.withTodo d) e (fun _ => rfl) rfl rfl rfl]
  conv_rhs => rw [raiseAlert_frame]
  rfl

theorem freeBlock_withTodo (b : Nat) : (s.withTodo d).freeBlock b = (s.freeBlock b).withTodo d := by
  have region : (s.withTodo d).regionOf b = s.regionOf b := rfl
  unfold State.freeBlock
  rw [region]
  split
  · rfl
  · rfl

/-- A fold of steps that do not read what is left to carry out does not read it. -/
theorem foldl_withTodo {α : Type} {f : State → α → State} (hf : ∀ t a, f (t.withTodo d) a = (f t a).withTodo d) (l : List α) :
    l.foldl f (s.withTodo d) = (l.foldl f s).withTodo d := by
  induction l generalizing s with
  | nil => rfl
  | cons a rest ih =>
    rw [List.foldl_cons, List.foldl_cons, hf, ih]

theorem freeBlocks_withTodo (bs : List Nat) : (s.withTodo d).freeBlocks bs = (s.freeBlocks bs).withTodo d :=
  foldl_withTodo s d (fun t b => freeBlock_withTodo t d b) bs

theorem setJob_withTodo (j : Job) : (s.withTodo d).setJob i j = (s.setJob i j).withTodo d := rfl

theorem grantTo_withTodo : (s.withTodo d).grantTo i = (s.grantTo i).withTodo d := by
  have size : (s.withTodo d).grantSize i = s.grantSize i := rfl
  have job : (s.withTodo d).job i = s.job i := rfl
  have own : (s.withTodo d).poolUnpromised (s.job i).pool = s.poolUnpromised (s.job i).pool := rfl
  have visited : ∀ t : State, (if (t.withTodo d).due i then t.withTodo d else (t.withTodo d).leaveWait i) =
      (if t.due i then t else t.leaveWait i).withTodo d := fun t => by
    rw [apply_ite (fun t => State.withTodo t d)]
    rfl
  by_cases hz : s.grantSize i = 0
  · rw [grantTo_of_zero (size.trans hz), grantTo_of_zero hz]
  · rw [grantTo_of_pos (size.trans rfl) hz rfl, grantTo_of_pos rfl hz rfl, job, own, notice_withTodo, setJob_withTodo]
    exact visited _

theorem walk_withTodo : (s.withTodo d).walk = s.walk.withTodo d :=
  foldl_withTodo s d (fun t i => grantTo_withTodo t d i) s.waitList

theorem releasePass_withTodo : (s.withTodo d).releasePass i = (s.releasePass i).withTodo d := by
  have job : (s.withTodo d).job i = s.job i := rfl
  unfold State.releasePass
  rw [job]
  by_cases hp : (s.job i).hasPassed = true
  · rw [if_pos hp, if_pos hp]
    dsimp only
    have set : ∀ j, (s.withTodo d).setJob i j = (s.setJob i j).withTodo d := fun _ => rfl
    rw [set, freeBlocks_withTodo, walk_withTodo, apply_ite (fun t => State.withTodo t d)]
  · rw [if_neg hp, if_neg hp]

end

/-! ## What a grant and a release pass leave -/

section
variable {s : State} {i : Slot}

/-- A job record with other credit (R31). -/
def Job.atCredit (j : Job) (g p q : Nat) : Job := { j with granted := g, promised := p, promisedShared := q }

/-- The state `s` with other job records, another wait list and another notice queue: what a walk can change (R39, R40). -/
def State.atWalk (s : State) (js : Vector Job 256) (w : List Slot) (ns : List Notice) (drops : Nat) : State :=
  { s with jobs := js, waitList := w, notices := ns, noticeDrops := drops }

theorem exists_grantTo_eq : ∃ js w ns drops, s.grantTo i = s.atWalk js w ns drops := by
  by_cases hz : s.grantSize i = 0
  · exact ⟨s.jobs, s.waitList, s.notices, s.noticeDrops, grantTo_of_zero hz⟩
  · obtain ⟨ns, drops, hn⟩ := exists_notice_eq s (.credit i (s.job i).tag ((s.job i).granted + s.grantSize i))
    rw [grantTo_of_pos rfl hz rfl, hn]
    dsimp only
    split
    · exact ⟨_, _, ns, drops, rfl⟩
    · exact ⟨_, _, ns, drops, rfl⟩

theorem exists_walk_eq : ∃ js w ns drops, s.walk = s.atWalk js w ns drops := by
  unfold State.walk
  generalize s.waitList = l
  induction l generalizing s with
  | nil => exact ⟨s.jobs, s.waitList, s.notices, s.noticeDrops, rfl⟩
  | cons k rest ih =>
    obtain ⟨js, w, ns, drops, h⟩ := exists_grantTo_eq (s := s) (i := k)
    obtain ⟨js', w', ns', drops', h'⟩ := ih (s := s.grantTo k)
    exact ⟨js', w', ns', drops', by rw [List.foldl_cons, h', h]; rfl⟩

/-- A grant gives a job credit, and changes nothing else in the job table (R39). -/
theorem job_grantTo (k : Slot) : ∃ g p q, (s.grantTo i).job k = (s.job k).atCredit g p q := by
  by_cases hz : s.grantSize i = 0
  · rw [grantTo_of_zero hz]
    exact ⟨_, _, _, rfl⟩
  · rw [grantTo_of_pos rfl hz rfl]
    have visited : ∀ t : State, t.job k = s.job k → ∃ g p q,
        (t.setJob i ((s.job i).grant (s.grantSize i) (min (s.grantSize i) (s.poolUnpromised (s.job i).pool)))).job k =
          (s.job k).atCredit g p q := fun t ht => by
      rw [State.job_setJob]
      split
      · rename_i e
        subst e
        exact ⟨_, _, _, rfl⟩
      · rw [ht]
        exact ⟨_, _, _, rfl⟩
    dsimp only
    split
    · exact visited _ (State.job_notice ..)
    · exact visited _ (State.job_notice ..)

theorem job_walk (k : Slot) : ∃ g p q, s.walk.job k = (s.job k).atCredit g p q := by
  unfold State.walk
  generalize s.waitList = l
  induction l generalizing s with
  | nil => exact ⟨_, _, _, rfl⟩
  | cons m rest ih =>
    obtain ⟨g, p, q, h⟩ := job_grantTo (s := s) (i := m) k
    obtain ⟨g', p', q', h'⟩ := ih (s := s.grantTo m)
    exact ⟨g', p', q', by rw [List.foldl_cons, h', h]; rfl⟩

/-- The state `s` with another shared free queue and other pool records. -/
def State.atFree (s : State) (free : List Nat) (ps : Vector Pool 8) : State := { s with sharedFree := free, pools := ps }

/-- Blocks that return change the free queues alone (R27). -/
theorem exists_freeBlocks_eq (bs : List Nat) : ∃ free ps, s.freeBlocks bs = s.atFree free ps := by
  unfold State.freeBlocks
  induction bs generalizing s with
  | nil => exact ⟨s.sharedFree, s.pools, rfl⟩
  | cons b rest ih =>
    obtain ⟨free, ps, h⟩ : ∃ free ps, s.freeBlock b = s.atFree free ps := by
      unfold State.freeBlock
      split
      · exact ⟨_, _, rfl⟩
      · exact ⟨_, _, rfl⟩
    obtain ⟨free', ps', h'⟩ := ih (s := s.freeBlock b)
    exact ⟨free', ps', by rw [List.foldl_cons, h', h]; rfl⟩

/-- The record that a release pass leaves, before the walk it may give (R43, R44). -/
def Job.afterPass (j : Job) : Job := { j.passRecords with
  chain := j.passRecords.chain.drop j.passRecords.freeable, released := j.passRecords.released + j.passRecords.freeable }

/-- A release pass leaves the stream cache and the RESET pin, and whether intake is open (R43, R44). -/
theorem releasePass_leaves : (s.releasePass i).cache = s.cache ∧ (s.releasePass i).resetLow = s.resetLow ∧
    ((s.releasePass i).job i).intakeOpen = (s.job i).intakeOpen := by
  unfold State.releasePass
  split
  · obtain ⟨free, ps, h⟩ := exists_freeBlocks_eq (s := s.setJob i (s.job i).afterPass)
      ((s.job i).passRecords.chain.take (s.job i).passRecords.freeable)
    have job : ((s.setJob i (s.job i).afterPass).atFree free ps).job i = (s.job i).afterPass := State.job_setJob_self ..
    have freed : (((s.setJob i (s.job i).afterPass).atFree free ps).job i).intakeOpen = (s.job i).intakeOpen := by
      rw [job]
      rfl
    dsimp only
    rw [← Job.afterPass, h]
    split
    · obtain ⟨js, w, ns, drops, hw⟩ := exists_walk_eq (s := (s.setJob i (s.job i).afterPass).atFree free ps)
      obtain ⟨g, p, q, hk⟩ := job_walk (s := (s.setJob i (s.job i).afterPass).atFree free ps) i
      refine ⟨by rw [hw]; rfl, by rw [hw]; rfl, ?_⟩
      rw [hk]
      exact freed
    · exact ⟨rfl, rfl, freed⟩
  · exact ⟨rfl, rfl, rfl⟩

/-! ## Settling and damage while intake is open -/

/-- A job whose intake is open has not completed (R67). -/
theorem completed_of_open {j : Job} (h : j.intakeOpen = true) : j.completed = false := by
  unfold Job.completed
  rw [h]
  simp

/-- While intake is open a settling is the moves of the cursors and the release pass (R90, R91). -/
theorem settle_of_open (h : (s.job i).intakeOpen = true) :
    s.settle i = (s.modJob i fun j => j.settleSend.settleConfirm).releasePass i := by
  have still : (((s.modJob i fun j => j.settleSend.settleConfirm).releasePass i).job i).intakeOpen = true := by
    rw [releasePass_leaves.2.2, State.job_modJob_self]
    exact h
  unfold State.settle State.testCompletion
  rw [if_neg (by rw [completed_of_open still]; simp)]

/-- A settling while intake is open leaves the stream cache, the RESET pin and the intake open, and does not read what is left to carry
out. -/
theorem settleBound_leaves (ho : (s.job i).intakeOpen = true) :
    (s.settleBound i).cache = s.cache ∧ (s.settleBound i).resetLow = s.resetLow ∧ ((s.settleBound i).job i).intakeOpen = true ∧
      ∀ d, (s.withTodo d).settleBound i = (s.settleBound i).withTodo d := by
  unfold State.settleBound
  by_cases hl : (s.job i).lane.isSome = true
  · have settled : ∀ d, (s.withTodo d).settle i = (s.settle i).withTodo d := fun d => by
      rw [settle_of_open (s := s.withTodo d) ho, settle_of_open ho, modJob_withTodo, releasePass_withTodo]
    rw [if_pos hl, settle_of_open ho]
    obtain ⟨hcache, hreset, hopen⟩ := releasePass_leaves (s := s.modJob i fun j => j.settleSend.settleConfirm) (i := i)
    refine ⟨hcache, hreset, ?_, fun d => ?_⟩
    · rw [hopen, State.job_modJob_self]
      exact ho
    · rw [← settle_of_open ho, ← settled]
      exact if_pos hl
  · rw [if_neg hl]
    exact ⟨rfl, rfl, ho, fun d => if_neg hl⟩

/-- The sheet in progress, damaged (R13). -/
def Job.spoilLast (j : Job) (reason : DamageReason) : Job :=
  { j with records := modLast (fun r => { r with cond := .damaged reason }) j.records, damaged := bump j.damaged }

/-- The alert of a damaged sheet (R13). -/
def damageAlert (i : Slot) (account : AccountNo) (reason : DamageReason) (sheet : Nat) : AlertEvent :=
  intakeAlert (if reason = .overrun then .overrun else .sheetDamaged) i account sheet

theorem damageInProgress_of_none (h : (s.job i).inProgress = none) (reason : DamageReason) : s.damageInProgress i reason = s := by
  unfold State.damageInProgress
  rw [h]

theorem damageInProgress_of_some {rec : SheetRecord} (h : (s.job i).inProgress = some rec) (reason : DamageReason) :
    s.damageInProgress i reason = ((s.setJob i ((s.job i).spoilLast reason)).raiseAlert
      (damageAlert i (s.job i).account reason rec.number)).settleBound i := by
  unfold State.damageInProgress State.countDamage
  rw [h]
  dsimp only
  rw [modJob_modJob, State.job_modJob_self]
  rfl

/-- Raising an alert leaves the job table (R153). -/
theorem job_raiseAlert (e : AlertEvent) (k : Slot) : (s.raiseAlert e).job k = s.job k := by
  rw [raiseAlert_frame]
  rfl

/-- Damage of a sheet while intake is open leaves the stream cache, the RESET pin and the intake open, and does not read what is left to
carry out. -/
theorem damageInProgress_leaves (ho : (s.job i).intakeOpen = true) (reason : DamageReason) :
    (s.damageInProgress i reason).cache = s.cache ∧ (s.damageInProgress i reason).resetLow = s.resetLow ∧
      ((s.damageInProgress i reason).job i).intakeOpen = true ∧
      ∀ d, (s.withTodo d).damageInProgress i reason = (s.damageInProgress i reason).withTodo d := by
  cases h : (s.job i).inProgress with
  | none =>
    have h' : ∀ d, ((s.withTodo d).job i).inProgress = none := fun _ => h
    rw [damageInProgress_of_none h]
    exact ⟨rfl, rfl, ho, fun d => damageInProgress_of_none (h' d) reason⟩
  | some rec =>
    have h' : ∀ d, ((s.withTodo d).job i).inProgress = some rec := fun _ => h
    rw [damageInProgress_of_some h]
    obtain ⟨hcache, hreset, hopen, htodo⟩ := settleBound_leaves (i := i) (s := (s.setJob i ((s.job i).spoilLast reason)).raiseAlert
      (damageAlert i (s.job i).account reason rec.number)) (by rw [job_raiseAlert, State.job_setJob_self]; exact ho)
    refine ⟨hcache.trans ?_, hreset.trans ?_, hopen, fun d => ?_⟩
    · rw [raiseAlert_frame]
      rfl
    · rw [raiseAlert_frame]
      rfl
    · rw [damageInProgress_of_some (h' d), ← htodo, ← raiseAlert_withTodo]
      rfl

end

/-! ## Classification and the sequence check -/

section
variable {s : State} {tag seq : Word16} {i : Slot} {handle : State → Slot → State}

theorem matchesTag_iff (e : CacheEntry) : e.matchesTag tag = true ↔ e.valid = true ∧ e.high = tag.toNat / 64 := by
  rw [CacheEntry.matchesTag, Bool.and_eq_true, beq_iff_eq]

theorem classify_of_unknown (hm : ¬s.cache[cacheIndex tag].matchesTag tag = true) (ho : s.searchOpen tag = none) :
    s.classify tag = ({ s with unknownStream := bump s.unknownStream }, none) := by
  unfold State.classify
  rw [if_neg hm, ho]

theorem classify_of_miss (hm : ¬s.cache[cacheIndex tag].matchesTag tag = true) (ho : s.searchOpen tag = some i) :
    s.classify tag = (s.fillCache tag i, some i) := by
  unfold State.classify
  rw [if_neg hm, ho]

theorem classify_of_hit (hm : s.cache[cacheIndex tag].matchesTag tag = true) (hi : s.cache[cacheIndex tag].slot = i)
    (ho : (s.job i).intakeOpen = true) : s.classify tag = (s, some i) := by
  unfold State.classify
  rw [if_pos hm, hi, if_pos ho]

theorem classify_of_closed (hm : s.cache[cacheIndex tag].matchesTag tag = true)
    (ho : (s.job s.cache[cacheIndex tag].slot).intakeOpen = false) :
    s.classify tag = ({ s with closedStream := bump s.closedStream }, none) := by
  unfold State.classify
  rw [if_pos hm, if_neg (by rw [ho]; decide)]

theorem spoolFrame_congr {t : State} (h : s.classify tag = t.classify tag) :
    s.spoolFrame tag seq handle = t.spoolFrame tag seq handle := by
  unfold State.spoolFrame
  rw [h]

theorem spoolFrame_of_dropped {t : State} (h : s.classify tag = (t, none)) : s.spoolFrame tag seq handle = t := by
  unfold State.spoolFrame
  rw [h]

/-- A frame in sequence is handled once its job expects the next one (R11). -/
theorem spoolFrame_of_expected {t : State} (h : s.classify tag = (t, some i)) (hq : seq = (t.job i).expected) :
    s.spoolFrame tag seq handle = handle (t.setJob i { t.job i with expected := seq + 1 }) i := by
  unfold State.spoolFrame
  rw [h]
  dsimp only
  unfold State.sequence
  rw [if_pos hq]
  rfl

/-- A repeated frame is counted (R11). -/
theorem spoolFrame_of_repeated {t : State} (h : s.classify tag = (t, some i)) (hq : seq = (t.job i).expected - 1) :
    s.spoolFrame tag seq handle = { t with duplicates := bump t.duplicates } := by
  have other : seq ≠ (t.job i).expected := by
    rw [hq]
    bv_omega
  unfold State.spoolFrame
  rw [h]
  dsimp only
  unfold State.sequence
  rw [if_neg other, if_pos hq]

/-- A frame out of sequence damages the sheet in progress for GAP, and is handled (R11). -/
theorem spoolFrame_of_gap {t : State} (h : s.classify tag = (t, some i)) (hn : seq ≠ (t.job i).expected)
    (hp : seq ≠ (t.job i).expected - 1) : s.spoolFrame tag seq handle =
      handle ((t.damageInProgress i .gap).modJob i fun j => { j with expected := seq + 1 }) i := by
  unfold State.spoolFrame
  rw [h]
  dsimp only
  unfold State.sequence
  rw [if_neg hn, if_neg hp]

/-- The frames that carry a stream tag and a sequence number are handled by their kind once they are classified (R1). -/
theorem exists_handle {f : Instr} (hf : (∃ number cls sides covA covB length, f = .sheet tag seq number cls sides covA covB length) ∨
    (∃ payload, f = .data tag seq payload) ∨ f = .close tag seq ∨ f = .cancel tag seq) :
    ∃ handle : State → Slot → State, ∀ s, exec f s = event s fun t => t.spoolFrame tag seq handle := by
  rcases hf with ⟨number, cls, sides, covA, covB, length, rfl⟩ | ⟨payload, rfl⟩ | rfl | rfl
  · exact ⟨_, fun _ => rfl⟩
  · exact ⟨_, fun _ => rfl⟩
  · exact ⟨_, fun _ => rfl⟩
  · exact ⟨_, fun _ => rfl⟩

/-- What a frame of kind `f` does while RESET is high. -/
theorem exec_of_handle {f : Instr} (run : ∀ s, exec f s = event s fun t => t.spoolFrame tag seq handle) (hs : s.resetLow = false) :
    exec f s = .next (s.begin.spoolFrame tag seq handle).finish := by
  rw [run]
  exact congrArg _ (if_neg (by rw [hs]; decide))

/-- A frame out of sequence is handled as the one expected once the sheet in progress is damaged (R11). -/
theorem exec_of_gap {f : Instr} (run : ∀ s, exec f s = event s fun t => t.spoolFrame tag seq handle) (hs : s.resetLow = false)
    (hm : s.cache[cacheIndex tag].matchesTag tag = true) (hi : s.cache[cacheIndex tag].slot = i) (ho : (s.job i).intakeOpen = true)
    (hn : seq ≠ (s.job i).expected) (hp : seq ≠ (s.job i).expected - 1) :
    exec f s = exec f ((s.damageInProgress i .gap).modJob i fun j => { j with expected := seq }) := by
  obtain ⟨hcache, hreset, hopen, htodo⟩ := damageInProgress_leaves ho .gap
  have damaged : s.begin.damageInProgress i .gap = (s.damageInProgress i .gap).begin := htodo Todo.nothing
  have now := spoolFrame_of_gap (handle := handle) (classify_of_hit (s := s.begin) hm hi ho) hn hp
  rw [damaged] at now
  generalize s.damageInProgress i .gap = t at hcache hreset hopen now ⊢
  have expecting : (t.modJob i fun j => { j with expected := seq }) = t.setJob i { t.job i with expected := seq } := rfl
  rw [expecting]
  have job : (t.setJob i { t.job i with expected := seq }).begin.job i = { t.job i with expected := seq } :=
    State.job_setJob_self t i _
  have same : (t.setJob i { t.job i with expected := seq }).begin.cache = s.cache := hcache
  have hits : (t.setJob i { t.job i with expected := seq }).begin.classify tag =
      ((t.setJob i { t.job i with expected := seq }).begin, some i) :=
    classify_of_hit (by rw [same]; exact hm) (by rw [same]; exact hi) (by rw [job]; exact hopen)
  have later := spoolFrame_of_expected (handle := handle) hits (by rw [job])
  rw [job, show ∀ j, (t.setJob i { t.job i with expected := seq }).begin.setJob i j = t.begin.setJob i j from
    setJob_setJob t.begin i _] at later
  rw [exec_of_handle run hs, now, exec_of_handle (s := t.setJob i { t.job i with expected := seq }) run (hreset.trans hs), later]
  rfl

end

/-- Settles O45: by the cache entry of the tag, the open job of the tag, and the sequence number. -/
theorem framesFindTheirJobAndTheirPlace : Obligations.FramesFindTheirJobAndTheirPlace := by
  intro s tag seq f hs hf
  obtain ⟨handle, run⟩ := exists_handle hf
  intro e matching openOn
  have hit : s.cache[cacheIndex tag].matchesTag tag = true ↔ matching := matchesTag_iff _
  have going := fun {t : State} => exec_of_handle (s := t) run
  refine ⟨fun hm ho => ?unknown, fun i hm ho hu => ?miss, fun hm hc => ?closed, fun hm ho hq => ?repeated,
    fun hm ho hn hp => ?gap⟩
  case unknown =>
    have none_open : s.begin.searchOpen tag = none := by
      rw [← Option.not_isSome_iff_eq_none, searchOpen_isSome_iff]
      exact fun ⟨i, hi⟩ => ho i hi
    rw [going hs, spoolFrame_of_dropped (classify_of_unknown (s := s.begin) (mt hit.mp hm) none_open)]
    exact congrArg _ (finish_nothing _ rfl)
  case miss =>
    have found : s.begin.searchOpen tag = some i := by
      have some_open := (searchOpen_isSome_iff s.begin tag).mpr ⟨i, ho⟩
      obtain ⟨k, hk⟩ := Option.isSome_iff_exists.mp some_open
      rw [hk, hu k ((isOpenOn_iff _ _).mp (List.find?_some (p := fun k => (s.begin.job k).isOpenOn tag) hk))]
    have entry : (s.begin.fillCache tag i).cache[cacheIndex tag] = ⟨true, tag.toNat / 64, i⟩ := Vector.getElem_set_self ..
    have hits : (s.begin.fillCache tag i).classify tag = (s.begin.fillCache tag i, some i) :=
      classify_of_hit ((matchesTag_iff _).mpr (by rw [entry]; exact ⟨rfl, rfl⟩)) (by rw [entry]) ho.2.2
    rw [going hs, going (by exact hs)]
    exact congrArg (fun t => Host.Outcome.next (State.finish t)) (spoolFrame_congr ((classify_of_miss (s := s.begin) (mt hit.mp hm)
      found).trans hits.symm))
  case closed =>
    rw [going hs, spoolFrame_of_dropped (classify_of_closed (s := s.begin) (hit.mpr hm) hc)]
    exact congrArg _ (finish_nothing _ rfl)
  case repeated =>
    rw [going hs, spoolFrame_of_repeated (classify_of_hit (s := s.begin) (hit.mpr hm) rfl ho) hq]
    exact congrArg _ (finish_nothing _ rfl)
  case gap =>
    exact exec_of_gap run hs (hit.mpr hm) rfl ho hn hp

end Sys2Proof.Machine
end

section
/-! PROOF. How the cursors of a job move past a record that is, or becomes, SKIPPED or DAMAGED (R89 to R91, R102), and the SHEET header
(R14 to R17): settles O46. -/

namespace Sys2Proof.Machine

/-! ## Moves of a cursor while intake is open -/

section
variable {j : Job} {c : Cursor} {n : Nat} {r : SheetRecord}

/-- While intake is open a cursor moves over SKIPPED and DAMAGED records alone (R90). -/
theorem cursorMove_eq_none_iff (ho : j.intakeOpen = true) :
    j.cursorMove c = none ↔ ∀ r, j.records[c.pos]? = some r → r.cond.passable = false := by
  unfold Job.cursorMove
  rw [ho]
  cases h : j.records[c.pos]? with
  | none => simp
  | some r => simp

theorem cursorMove_of_passable (h : j.records[c.pos]? = some r) (hp : r.cond.passable = true) :
    j.cursorMove c = some { c with pos := c.pos + 1 } := by
  unfold Job.cursorMove
  rw [h]
  exact if_pos hp

/-- A cursor past the end of the list stands still while intake is open (R90). -/
theorem cursorMove_of_end (ho : j.intakeOpen = true) (h : j.records.length ≤ c.pos) : j.cursorMove c = none := by
  rw [cursorMove_eq_none_iff ho, List.getElem?_eq_none h]
  exact fun _ h => by cases h

theorem positions_pos (j : Job) : ∃ m, j.positions = m + 1 :=
  ⟨_, (Nat.succ_pred_eq_of_pos (Nat.mul_pos (Nat.succ_pos _) (Nat.succ_pos _))).symm⟩

/-- A cursor beyond the record at position `n`, where it stood on that. -/
def Cursor.past (c : Cursor) (n : Nat) : Cursor := if c.pos = n then { c with pos := n + 1 } else c

/-- A cursor that stands on the last record of the list settles past it where that is passable (R90). -/
theorem settleBy_last (ho : j.intakeOpen = true) (hn : j.records.length = n + 1) (hr : j.records[n]? = some r)
    (hp : r.cond.passable = true) (hc : c.pos = n ∨ j.cursorMove c = none) : j.settleBy j.positions c = c.past n := by
  unfold Cursor.past
  by_cases h : c.pos = n
  · obtain ⟨m, hm⟩ := positions_pos j
    have next : j.cursorMove c = some { c with pos := n + 1 } := by
      rw [cursorMove_of_passable (h ▸ hr) hp, h]
    rw [if_pos h, hm, Job.settleBy, next]
    exact settleBy_of_none _ _ _ (cursorMove_of_end ho (by rw [hn]))
  · rw [if_neg h, settleBy_of_none _ _ _ (hc.resolve_left h)]

/-- The confirm cursor does so too, where the send cursor is on the same copy and not before it (R91). -/
theorem settleBehind_last (ho : j.intakeOpen = true) (hn : j.records.length = n + 1) (hr : j.records[n]? = some r)
    (hp : r.cond.passable = true) (hc : c.pos = n ∨ j.cursorMove c = none) (hcopy : c.copy = j.send.copy)
    (hs : c.pos = n → n < j.send.pos) : j.settleBehind j.positions c = c.past n := by
  unfold Cursor.past
  by_cases h : c.pos = n
  · obtain ⟨m, hm⟩ := positions_pos j
    have next : j.cursorMove c = some { c with pos := n + 1 } := by
      rw [cursorMove_of_passable (h ▸ hr) hp, h]
    have behind : c.behind j.send = true := by
      simp [Cursor.behind, hcopy, h, hs h]
    rw [if_pos h, hm, Job.settleBehind, if_pos behind, next]
    exact settleBehind_of_none _ _ _ (cursorMove_of_end ho (by rw [hn]))
  · rw [if_neg h, settleBehind_of_none _ _ _ (hc.resolve_left h)]

/-- A job whose cursors stand, but for a passable record at the end of the list that they may stand on. -/
structure Job.StandsBut (j : Job) (n : Nat) : Prop where
  copy : j.confirm.copy = j.send.copy
  order : j.confirm.pos ≤ j.send.pos
  send : j.send.pos = n ∨ j.cursorMove j.send = none
  confirm : j.confirm.pos = n ∨ j.cursorMove j.confirm = none

/-- Both cursors settle past the last record where that is passable (R90, R91). -/
theorem settle_past (ho : j.intakeOpen = true) (hn : j.records.length = n + 1) (hr : j.records[n]? = some r)
    (hp : r.cond.passable = true) (hs : j.StandsBut n) :
    j.settleSend.settleConfirm = { j with send := j.send.past n, confirm := j.confirm.past n } := by
  have send : j.settleSend = { j with send := j.send.past n } := by
    unfold Job.settleSend
    rw [settleBy_last ho hn hr hp hs.send]
  have confirm := settleBehind_last (j := { j with send := j.send.past n }) (c := j.confirm) ho hn hr hp hs.confirm
    (by unfold Cursor.past; split <;> exact hs.copy) (fun h => by
      have order := hs.order
      show n < (j.send.past n).pos
      unfold Cursor.past
      split
      · exact Nat.lt_succ_self n
      · omega)
  rw [send, Job.settleConfirm]
  show { j with send := j.send.past n, confirm := Job.settleBehind { j with send := j.send.past n } _ j.confirm } = _
  rw [confirm]

end

/-! ## The settling that a passable last record brings -/

section
variable {s : State} {i : Slot} {n : Nat} {r : SheetRecord}

theorem releasePass_of_not_passed (h : (s.job i).hasPassed = false) : s.releasePass i = s := if_neg (by rw [h]; decide)

/-- The release pass of a job that has passed records, where no pool has a reservation and no job waits (R43, R44). -/
theorem releasePass_of_passed (h : (s.job i).hasPassed = true) {free : Nat} (hf : (s.job i).passRecords.freeable = free)
    (hq : free = 0 ∨ s.waitList = [] ∧ ∀ p, (s.pool p).reserved = false) : s.releasePass i =
      { s.setJob i (s.job i).afterPass with sharedFree := s.sharedFree ++ (s.job i).chain.take free } := by
  subst hf
  unfold State.releasePass
  rw [if_pos h]
  dsimp only
  rw [← Job.afterPass]
  rcases hq with hz | ⟨hw, hp⟩
  · rw [if_neg (by omega), hz, List.take_zero, List.take_zero, List.append_nil]
    rfl
  · rw [freeBlocks_of_unreserved (s := s.setJob i (s.job i).afterPass) _ hp]
    split
    · exact walk_of_none _ hw
    · rfl

/-- A bound job whose cursors move past the last record of its list, and pass no record on the final copy; without a lane they stay
(R102). -/
theorem settleBound_past (ho : (s.job i).intakeOpen = true) (hn : (s.job i).records.length = n + 1) (hr : (s.job i).records[n]? = some r)
    (hp : r.cond.passable = true) (hl : (s.job i).lane = none ∨
      (s.job i).StandsBut n ∧ ((s.job i).confirm.copy ≠ (s.job i).copies ∨ (s.job i).confirm.pos = 0 ∧ 0 < n)) :
    s.settleBound i = s.setJob i { s.job i with
      send := (s.job i).movedPast n (s.job i).send, confirm := (s.job i).movedPast n (s.job i).confirm } := by
  cases hb : (s.job i).lane with
  | none =>
    have stays : ∀ c, (s.job i).movedPast n c = c := fun c => if_neg (by rw [hb]; simp)
    rw [stays, stays, settleBound_of_unbound s i hb]
    exact (setJob_job s i).symm
  | some l =>
    obtain ⟨hs, hc⟩ := hl.resolve_left (by rw [hb]; simp)
    have moves : ∀ c, (s.job i).movedPast n c = c.past n := fun c => by
      unfold Job.movedPast Cursor.past
      rw [hb]
      simp
    have settled := settle_past ho hn hr hp hs
    rw [moves, moves, State.settleBound, if_pos (by rw [hb]; rfl), settle_of_open ho, State.modJob, settled]
    refine releasePass_of_not_passed ?_
    rw [State.job_setJob_self]
    unfold Job.hasPassed Cursor.past
    dsimp only
    split
    · rename_i h
      have copy : (s.job i).confirm.copy ≠ (s.job i).copies := by
        rcases hc with hc | ⟨hz, hpos⟩
        · exact hc
        · omega
      simp [copy]
    · rcases hc with hc | ⟨hz, hpos⟩
      · simp [hc]
      · simp [hz]

/-- A job whose cursors have just passed the only record of its list on the final copy (R42). -/
theorem passRecords_of_only {j : Job} (hr : j.records = [r]) (hs : j.send = ⟨j.copies, 0⟩) (hc : j.confirm = ⟨j.copies, 0⟩) :
    ({ j with send := ⟨j.copies, 1⟩, confirm := ⟨j.copies, 1⟩ } : Job).passRecords =
      { j with records := [], passed := j.passed + r.received } := by
  have list : j.records.drop 1 = [] ∧ j.records.take 1 = [r] := by
    rw [hr]
    exact ⟨rfl, rfl⟩
  unfold Job.passRecords
  dsimp only
  rw [list.1, list.2]
  congr 1
  · exact hs.symm
  · exact hc.symm

/-- On the final copy a bound job passes the only record of its list, which leaves it, with the blocks wholly behind it (R42 to R44). -/
theorem settleBound_passes (ho : (s.job i).intakeOpen = true) (hr : (s.job i).records = [r]) (hp : r.cond.passable = true)
    (hl : (s.job i).lane ≠ none) (hs : (s.job i).send = ⟨(s.job i).copies, 0⟩) (hc : (s.job i).confirm = ⟨(s.job i).copies, 0⟩)
    {free : Nat} (hf : min (s.job i).chain.length (((s.job i).passed + r.received) / 4096 - (s.job i).released) = free)
    (hq : free = 0 ∨ s.waitList = [] ∧ ∀ p, (s.pool p).reserved = false) :
    s.settleBound i = { s.setJob i { s.job i with
        records := [], passed := (s.job i).passed + r.received, chain := (s.job i).chain.drop free
        released := (s.job i).released + free } with sharedFree := s.sharedFree ++ (s.job i).chain.take free } := by
  have stands : (s.job i).StandsBut 0 := ⟨by rw [hs, hc], by rw [hs, hc], .inl (by rw [hs]), .inl (by rw [hc])⟩
  have settled := settle_past (n := 0) ho (by rw [hr]; rfl) (by rw [hr]; rfl) hp stands
  have send : (s.job i).send.past 0 = ⟨(s.job i).copies, 1⟩ := by rw [hs]; rfl
  have confirm : (s.job i).confirm.past 0 = ⟨(s.job i).copies, 1⟩ := by rw [hc]; rfl
  rw [send, confirm] at settled
  have passed := releasePass_of_passed (s := s.setJob i { s.job i with
    send := ⟨(s.job i).copies, 1⟩, confirm := ⟨(s.job i).copies, 1⟩ }) (i := i) (free := free)
  rw [State.job_setJob_self, Job.afterPass, passRecords_of_only hr hs hc, setJob_setJob] at passed
  rw [State.settleBound, if_pos (Option.isSome_iff_ne_none.mpr hl), settle_of_open ho, State.modJob, settled]
  subst hf
  exact passed (by simp [Job.hasPassed]) rfl hq

/-! ## Damage of the sheet in progress -/

theorem raiseAlert_setJob (s : State) (j : Job) (e : AlertEvent) : (s.setJob i j).raiseAlert e = (s.raiseAlert e).setJob i j := by
  rw [raiseAlert_congr s (s.setJob i j) e (fun _ => rfl) rfl rfl rfl]
  conv_rhs => rw [raiseAlert_frame]
  rfl

theorem raiseAlert_sharedFree (s : State) (free : List Nat) (e : AlertEvent) :
    ({ s with sharedFree := free } : State).raiseAlert e = { s.raiseAlert e with sharedFree := free } := by
  rw [raiseAlert_congr s { s with sharedFree := free } e (fun _ => rfl) rfl rfl rfl]
  conv_rhs => rw [raiseAlert_frame]
  rfl

theorem modLast_append {α : Type} (f : α → α) (rest : List α) (a : α) : modLast f (rest ++ [a]) = rest ++ [f a] := by
  induction rest with
  | nil => rfl
  | cons b l ih =>
    cases l with
    | nil => rfl
    | cons c m =>
      rw [List.cons_append, List.cons_append, modLast, ← List.cons_append, ih]
      rfl

variable {rest : List SheetRecord} {rec : SheetRecord}

theorem inProgress_append {j : Job} (hr : j.records = rest ++ [rec]) :
    j.inProgress = if rec.cond = .arriving then some rec else none := by
  unfold Job.inProgress
  rw [hr, List.getLast?_concat]

/-- Damage of the sheet in progress (R13). -/
theorem damageInProgress_eq (hr : (s.job i).records = rest ++ [rec]) (ha : rec.cond = .arriving) (reason : DamageReason) :
    s.damageInProgress i reason = ((s.raiseAlert (damageAlert i (s.job i).account reason rec.number)).setJob i { s.job i with
      records := rest ++ [{ rec with cond := .damaged reason }], damaged := bump (s.job i).damaged }).settleBound i := by
  rw [damageInProgress_of_some ((inProgress_append hr).trans (if_pos ha)), raiseAlert_setJob, Job.spoilLast, hr, modLast_append]

/-- Records that differ at one position alone leave the cursors that do not stand there where they are (R90). -/
theorem standsBut_of_stand {j k : Job} (hj : j.intakeOpen = true) (hk : k.intakeOpen = true) (hs : k.send = j.send)
    (hc : k.confirm = j.confirm) (hr : ∀ m, m ≠ n → k.records[m]? = j.records[m]?) (h : j.cursorsStand) : k.StandsBut n := by
  obtain ⟨copy, order, send, confirm⟩ := h
  have move : ∀ c : Cursor, j.cursorMove c = none → c.pos = n ∨ k.cursorMove c = none := fun c h => by
    by_cases hn : c.pos = n
    · exact .inl hn
    · rw [cursorMove_eq_none_iff hk, hr _ hn, ← cursorMove_eq_none_iff hj]
      exact .inr h
  exact ⟨by rw [hs, hc, copy], by rw [hs, hc]; exact order, by rw [hs]; exact move _ send, by rw [hc]; exact move _ confirm⟩

/-- A list with another last entry has the other entries as before. -/
theorem getElem?_append_last {α : Type} (rest : List α) (a b : α) (m : Nat) (h : m ≠ rest.length) :
    (rest ++ [a])[m]? = (rest ++ [b])[m]? := by
  rcases Nat.lt_or_gt_of_ne h with hlt | hgt
  · rw [List.getElem?_append_left hlt, List.getElem?_append_left hlt]
  · rw [List.getElem?_eq_none (by simp; omega), List.getElem?_eq_none (by simp; omega)]

/-- Damage of the sheet in progress of a job without a lane, or whose cursors stand and pass nothing on the final copy (R13, R102). -/
theorem damageInProgress_past (ho : (s.job i).intakeOpen = true) (hr : (s.job i).records = rest ++ [rec]) (ha : rec.cond = .arriving)
    (hl : (s.job i).lane = none ∨ (s.job i).cursorsStand ∧
      ((s.job i).confirm.copy ≠ (s.job i).copies ∨ (s.job i).confirm.pos = 0 ∧ 0 < rest.length)) (reason : DamageReason) :
    s.damageInProgress i reason = (s.raiseAlert (damageAlert i (s.job i).account reason rec.number)).setJob i { s.job i with
      records := rest ++ [{ rec with cond := .damaged reason }], damaged := bump (s.job i).damaged
      send := (s.job i).movedPast rest.length (s.job i).send, confirm := (s.job i).movedPast rest.length (s.job i).confirm } := by
  generalize hk : ({ s.job i with
    records := rest ++ [{ rec with cond := .damaged reason }], damaged := bump (s.job i).damaged } : Job) = k
  have settled := settleBound_past (i := i) (n := rest.length) (r := { rec with cond := .damaged reason })
    (s := (s.raiseAlert (damageAlert i (s.job i).account reason rec.number)).setJob i k)
    (by rw [State.job_setJob_self, ← hk]; exact ho) (by rw [State.job_setJob_self, ← hk]; simp)
    (by rw [State.job_setJob_self, ← hk]; simp) rfl (by
      rw [State.job_setJob_self, ← hk]
      exact hl.imp id fun ⟨stand, pass⟩ => ⟨standsBut_of_stand ho ho rfl rfl (fun m hm => by
        rw [hr]; exact getElem?_append_last _ _ _ _ hm) stand, pass⟩)
  rw [damageInProgress_eq hr ha, hk, settled, State.job_setJob_self, setJob_setJob, ← hk]
  rfl

/-- Damage of the only sheet of a bound job on the final copy (R13, R42 to R44, R102). -/
theorem damageInProgress_passes (ho : (s.job i).intakeOpen = true) (hr : (s.job i).records = [rec]) (ha : rec.cond = .arriving)
    (hl : (s.job i).lane ≠ none) (hs : (s.job i).send = ⟨(s.job i).copies, 0⟩) (hc : (s.job i).confirm = ⟨(s.job i).copies, 0⟩)
    {free : Nat} (hf : min (s.job i).chain.length (((s.job i).passed + rec.received) / 4096 - (s.job i).released) = free)
    (hq : free = 0 ∨ s.waitList = [] ∧ ∀ p, (s.pool p).reserved = false) (reason : DamageReason) :
    s.damageInProgress i reason =
      { (s.raiseAlert (damageAlert i (s.job i).account reason rec.number)).setJob i { s.job i with
          records := [], damaged := bump (s.job i).damaged, passed := (s.job i).passed + rec.received
          chain := (s.job i).chain.drop free, released := (s.job i).released + free } with
        sharedFree := s.sharedFree ++ (s.job i).chain.take free } := by
  generalize hk : ({ s.job i with records := [{ rec with cond := .damaged reason }], damaged := bump (s.job i).damaged } : Job) = k
  generalize he : damageAlert i (s.job i).account reason rec.number = e
  have frame := raiseAlert_frame s e
  have waits : ((s.raiseAlert e).setJob i k).waitList = s.waitList := by
    rw [frame]
    rfl
  have free_blocks : (s.raiseAlert e).sharedFree = s.sharedFree := by
    rw [frame]
    rfl
  have pools : ∀ p, ((s.raiseAlert e).setJob i k).pool p = s.pool p := fun p => by
    rw [State.pool_setJob, frame]
    rfl
  have settled := settleBound_passes (i := i) (r := { rec with cond := .damaged reason }) (free := free)
    (s := (s.raiseAlert e).setJob i k) (by rw [State.job_setJob_self, ← hk]; exact ho) (by rw [State.job_setJob_self, ← hk]) rfl
    (by rw [State.job_setJob_self, ← hk]; exact hl) (by rw [State.job_setJob_self, ← hk]; exact hs)
    (by rw [State.job_setJob_self, ← hk]; exact hc) (by rw [State.job_setJob_self, ← hk]; exact hf)
    (hq.imp id fun ⟨hw, hp⟩ => ⟨waits.trans hw, fun p => by rw [pools]; exact hp p⟩)
  rw [State.job_setJob_self, setJob_setJob, State.setJob_sharedFree, free_blocks] at settled
  have damaged := damageInProgress_eq (i := i) (rest := []) hr ha reason
  rw [List.nil_append, hk, he] at damaged
  rw [damaged, settled, ← hk]

end

/-! ## Frames in sequence -/

section
variable {s : State} {tag seq : Word16} {i : Slot} {handle : State → Slot → State} {f : Instr}

/-- A frame that reaches its job in sequence is handled once the job expects the next one (R11). -/
theorem exec_of_reached (run : ∀ s, exec f s = event s fun t => t.spoolFrame tag seq handle) (hr : s.reaches tag i)
    (hq : seq = (s.job i).expected) :
    exec f s = .next (handle (s.begin.setJob i { s.job i with expected := seq + 1 }) i).finish := by
  obtain ⟨hs, hc, ho⟩ := hr
  have hits : s.begin.classify tag = (s.begin, some i) := by
    have entry : s.begin.cache[cacheIndex tag] = ⟨true, tag.toNat / 64, i⟩ := hc
    exact classify_of_hit ((matchesTag_iff _).mpr (by rw [entry]; exact ⟨rfl, rfl⟩)) (by rw [entry]) ho
  rw [exec_of_handle run hs, spoolFrame_of_expected hits hq]
  rfl

/-- Frames reach the job of slot `i` as before in a state with another record of it, whose intake is open. -/
theorem reaches_setJob {j : Job} (hr : s.reaches tag i) (ho : j.intakeOpen = true) : (s.setJob i j).reaches tag i :=
  ⟨hr.1, hr.2.1, by rw [State.job_setJob_self]; exact ho⟩

theorem reaches_raiseAlert {e : AlertEvent} (hr : s.reaches tag i) : (s.raiseAlert e).reaches tag i := by
  obtain ⟨hs, hc, ho⟩ := hr
  rw [raiseAlert_frame]
  exact ⟨hs, hc, ho⟩

/-- An event that raises an alert first raises it in the state before it. -/
theorem begin_raiseAlert (s : State) (e : AlertEvent) : (s.raiseAlert e).begin = s.begin.raiseAlert e :=
  (raiseAlert_withTodo s Todo.nothing e).symm

/-! ## The SHEET header -/

variable {number cls sides covA covB length : Nat}

theorem sheetHeader_congr {t : State} (h : s.damageInProgress i .short = t.damageInProgress i .short) :
    s.sheetHeader i number cls sides covA covB length = t.sheetHeader i number cls sides covA covB length := by
  unfold State.sheetHeader
  rw [h]

variable {n w : Word16} {c d : Byte} {a b : Word16} {len : BitVec 24}

theorem exec_sheet_of_reached (hr : s.reaches tag i) (hq : seq = (s.job i).expected) : exec (.sheet tag seq n c d a b len) s =
    .next ((s.begin.setJob i { s.job i with expected := seq + 1 }).sheetHeader i n.toNat c.toNat d.toNat a.toNat b.toNat
      len.toNat).finish :=
  exec_of_reached (f := .sheet tag seq n c d a b len)
    (handle := fun u i => u.sheetHeader i n.toNat c.toNat d.toNat a.toNat b.toNat len.toNat) (fun _ => rfl) hr hq

/-- A header first ends the sheet in progress for SHORT (R14). -/
theorem exec_sheet_of_ended {t : State} (hr : s.reaches tag i) (hq : seq = (s.job i).expected) (hr' : t.reaches tag i)
    (hq' : seq = (t.job i).expected) (hn : (t.job i).inProgress = none)
    (h : (s.begin.setJob i { s.job i with expected := seq + 1 }).damageInProgress i .short =
      t.begin.setJob i { t.job i with expected := seq + 1 }) :
    exec (.sheet tag seq n c d a b len) s = exec (.sheet tag seq n c d a b len) t := by
  have ended := damageInProgress_of_none (s := t.begin.setJob i { t.job i with expected := seq + 1 }) (i := i)
    (by rw [State.job_setJob_self]; exact hn) .short
  rw [exec_sheet_of_reached hr hq, exec_sheet_of_reached hr' hq', sheetHeader_congr (h.trans ended.symm)]

variable {rest : List SheetRecord} {rec : SheetRecord}

/-- The sheet in progress of a job without a lane, or whose cursors stand, is damaged before the header's own tests (R14, R102). -/
theorem exec_sheet_of_past (hr : s.reaches tag i) (hq : seq = (s.job i).expected) (hrec : (s.job i).records = rest ++ [rec])
    (ha : rec.cond = .arriving) (hl : (s.job i).lane = none ∨ (s.job i).cursorsStand ∧
      ((s.job i).confirm.copy ≠ (s.job i).copies ∨ (s.job i).confirm.pos = 0 ∧ 0 < rest.length)) :
    exec (.sheet tag seq n c d a b len) s = exec (.sheet tag seq n c d a b len) (({ s with jobs := s.jobs.set i { s.job i with
      records := rest ++ [{ rec with cond := .damaged .short }], damaged := min ((s.job i).damaged + 1) 4294967295
      send := (s.job i).movedPast rest.length (s.job i).send
      confirm := (s.job i).movedPast rest.length (s.job i).confirm } } : State).raiseAlert
        (intakeAlert .sheetDamaged i (s.job i).account rec.number)) := by
  have alert : ∀ k : Job, ({ s with jobs := s.jobs.set i k } : State).raiseAlert (intakeAlert .sheetDamaged i (s.job i).account rec.number) =
      (s.raiseAlert (intakeAlert .sheetDamaged i (s.job i).account rec.number)).setJob i k := fun k => raiseAlert_setJob s k _
  have damaged := damageInProgress_past (s := s.begin.setJob i { s.job i with expected := seq + 1 }) (i := i) (rest := rest) (rec := rec)
  rw [State.job_setJob_self] at damaged
  rw [alert]
  refine exec_sheet_of_ended hr hq (reaches_setJob (reaches_raiseAlert hr) hr.2.2) ?_ ?_ ?_
  · rw [State.job_setJob_self]
    exact hq
  · rw [State.job_setJob_self]
    exact (inProgress_append rfl).trans (if_neg (by simp))
  · rw [State.job_setJob_self]
    refine (damaged hr.2.2 hrec ha hl .short).trans ?_
    rw [raiseAlert_setJob, ← begin_raiseAlert, setJob_setJob]
    exact (setJob_setJob (s.raiseAlert _).begin i _ _).symm

/-- On the final copy the only sheet of a bound job is passed as it is damaged, and leaves the list (R14, R42 to R44, R102). -/
theorem exec_sheet_of_passes (hr : s.reaches tag i) (hq : seq = (s.job i).expected) (hrec : (s.job i).records = [rec])
    (ha : rec.cond = .arriving) (hl : (s.job i).lane ≠ none) (hs : (s.job i).send = ⟨(s.job i).copies, 0⟩)
    (hc : (s.job i).confirm = ⟨(s.job i).copies, 0⟩) {free : Nat}
    (hf : min (s.job i).chain.length (((s.job i).passed + rec.received) / 4096 - (s.job i).released) = free) (hw : s.waitList = [])
    (hp : ∀ p, (s.pool p).reserved = false) :
    exec (.sheet tag seq n c d a b len) s = exec (.sheet tag seq n c d a b len) (({ s with
      sharedFree := s.sharedFree ++ (s.job i).chain.take free
      jobs := s.jobs.set i { s.job i with
        records := [], damaged := min ((s.job i).damaged + 1) 4294967295, passed := (s.job i).passed + rec.received
        chain := (s.job i).chain.drop free, released := (s.job i).released + free } } : State).raiseAlert
          (intakeAlert .sheetDamaged i (s.job i).account rec.number)) := by
  have alert : ∀ k : Job, ({ s with sharedFree := s.sharedFree ++ (s.job i).chain.take free, jobs := s.jobs.set i k } : State).raiseAlert
      (intakeAlert .sheetDamaged i (s.job i).account rec.number) =
        { (s.raiseAlert (intakeAlert .sheetDamaged i (s.job i).account rec.number)).setJob i k with
          sharedFree := s.sharedFree ++ (s.job i).chain.take free } := fun k =>
    (raiseAlert_sharedFree (s.setJob i k) _ _).trans (by rw [raiseAlert_setJob])
  have damaged := damageInProgress_passes (s := s.begin.setJob i { s.job i with expected := seq + 1 }) (i := i) (rec := rec) (free := free)
  rw [State.job_setJob_self] at damaged
  have reached := reaches_raiseAlert (e := intakeAlert .sheetDamaged i (s.job i).account rec.number) hr
  rw [alert]
  generalize hk : ({ s.job i with
    records := [], damaged := min ((s.job i).damaged + 1) 4294967295, passed := (s.job i).passed + rec.received
    chain := (s.job i).chain.drop free, released := (s.job i).released + free } : Job) = k
  have job : ({ (s.raiseAlert (intakeAlert .sheetDamaged i (s.job i).account rec.number)).setJob i k with
      sharedFree := s.sharedFree ++ (s.job i).chain.take free } : State).job i = k := State.job_setJob_self ..
  refine exec_sheet_of_ended hr hq ⟨reached.1, reached.2.1, ?_⟩ ?_ ?_ ?_
  · rw [job, ← hk]
    exact hr.2.2
  · rw [job, ← hk]
    exact hq
  · rw [job, ← hk]
    rfl
  · rw [job]
    refine (damaged hr.2.2 hrec ha hl hs hc hf (.inr ⟨hw, hp⟩) .short).trans ?_
    rw [raiseAlert_setJob, ← begin_raiseAlert, setJob_setJob]
    have twice := setJob_setJob (s.raiseAlert (intakeAlert .sheetDamaged i (s.job i).account rec.number)).begin i k
      { k with expected := seq + 1 }
    refine Eq.trans ?_ (congrArg (fun t : State => { t with sharedFree := s.sharedFree ++ (s.job i).chain.take free }) twice.symm)
    rw [← hk]
    rfl

end

section
variable {s : State} {i : Slot} {l : LaneNo} {number cls sides covA covB length : Nat}

/-- The only thing that a raised alert leaves an event to end with is itself. -/
theorem finish_raiseAlert (s : State) (e : AlertEvent) : (s.begin.raiseAlert e).finish = (s.raiseAlert e).settled := by
  rw [← begin_raiseAlert, finish_nothing _ rfl]
  rfl

/-- A bad header is counted (R17). -/
def State.countHeader (s : State) : State := { s with badHeaders := bump s.badHeaders }

theorem countHeader_setJob (s : State) (j : Job) : (s.setJob i j).countHeader = s.countHeader.setJob i j := rfl

/-- A header whose record is DAMAGED raises its alert and is counted (R17). -/
theorem takeHeader_of_damaged {reason : DamageReason} (hc : s.headerCond (s.job i) number cls sides length = .damaged reason) :
    s.takeHeader i number cls sides covA covB length =
      ((((s.raiseAlert (damageAlert i (s.job i).account reason number)).countHeader.setJob i { s.job i with
        records := (s.job i).records ++ [SheetRecord.ofHeader number cls sides covA covB length (.damaged reason)]
        lastSheet := number, damaged := bump (s.job i).damaged }).settleBound i).offerBound i) := by
  have counted : ∀ k : Job, (s.setJob i k).countDamage i reason number =
      (s.raiseAlert (damageAlert i k.account reason number)).setJob i { k with damaged := bump k.damaged } := fun k => by
    unfold State.countDamage
    rw [State.modJob, State.job_setJob_self, setJob_setJob, raiseAlert_setJob]
    rfl
  unfold State.takeHeader
  dsimp only
  split
  · rename_i why he
    cases hc.symm.trans he
    refine congrArg (fun t : State => (t.settleBound i).offerBound i) ?_
    rw [he, State.modJob]
    generalize hk : ({ s.job i with
      records := (s.job i).records ++ [SheetRecord.ofHeader number cls sides covA covB length (.damaged reason)]
      lastSheet := number } : Job) = k
    have kept : (s.setJob i k).badHeaders = ((s.setJob i k).countDamage i reason number).badHeaders := by
      rw [counted, raiseAlert_frame]
      rfl
    rw [kept]
    generalize ht : State.countDamage _ i reason number = t
    show t.countHeader = _
    rw [← ht, counted, countHeader_setJob, ← hk]
  · rename_i he
    exact absurd hc (he _)

/-- A header whose record is SKIPPED or ARRIVING (R16). -/
theorem takeHeader_of_undamaged {cond : SheetCond} (hc : s.headerCond (s.job i) number cls sides length = cond)
    (hn : cond = .skipped ∨ cond = .arriving) : s.takeHeader i number cls sides covA covB length =
      (((s.setJob i { s.job i with
        records := (s.job i).records ++ [SheetRecord.ofHeader number cls sides covA covB length cond], lastSheet := number }).settleBound
          i).offerBound i) := by
  unfold State.takeHeader
  rw [hc]
  rcases hn with rfl | rfl
  · rfl
  · rfl

/-! ### The cursors after a new record -/

/-- A cursor of a job after a record with condition `cond` has joined the end of its list at position `n` (R102). -/
def Job.afterRecord (j : Job) (cond : SheetCond) (n : Nat) (c : Cursor) : Cursor :=
  if cond = .arriving then c else j.movedPast n c

/-- The settling that a new record brings at a job without a lane, or whose cursors stand and pass nothing on the final copy (R102). -/
theorem settleBound_of_record {j k : Job} {r : SheetRecord} (hj : j.intakeOpen = true) (ho : k.intakeOpen = true)
    (hs : k.send = j.send) (hc : k.confirm = j.confirm) (hlane : k.lane = j.lane) (hcopies : k.copies = j.copies)
    (hr : k.records = j.records ++ [r]) (hcond : r.cond.passable = true ∨ r.cond = .arriving)
    (hl : j.lane = none ∨ j.cursorsStand ∧ (j.confirm.copy ≠ j.copies ∨ j.confirm.pos = 0 ∧ 0 < j.records.length)) :
    (s.setJob i k).settleBound i = s.setJob i { k with
      send := j.afterRecord r.cond j.records.length j.send, confirm := j.afterRecord r.cond j.records.length j.confirm } := by
  have agree : ∀ m, m ≠ j.records.length → k.records[m]? = j.records[m]? := fun m hm => by
    rw [hr]
    rcases Nat.lt_or_gt_of_ne hm with hlt | hgt
    · rw [List.getElem?_append_left hlt]
    · rw [List.getElem?_eq_none (by simp; omega), List.getElem?_eq_none (by omega)]
  have last : k.records[j.records.length]? = some r := by
    rw [hr]
    simp
  rcases hcond with hp | ha
  · have moves : ∀ c, j.afterRecord r.cond j.records.length c = k.movedPast j.records.length c := fun c => by
      unfold Job.afterRecord Job.movedPast
      rw [hlane, if_neg (by intro h; rw [h] at hp; cases hp)]
    have settled := settleBound_past (s := s.setJob i k) (i := i) (n := j.records.length) (r := r)
    rw [State.job_setJob_self, setJob_setJob] at settled
    rw [settled ho (by rw [hr]; simp) last hp (by
      rw [hlane, hc, hcopies]
      exact hl.imp id fun ⟨stand, pass⟩ => ⟨standsBut_of_stand hj ho hs hc agree stand, pass⟩), ← hs, ← hc, moves, moves]
  · have stays : ∀ c, j.afterRecord r.cond j.records.length c = c := fun c => if_pos ha
    have same : { k with send := k.send, confirm := k.confirm } = k := rfl
    rw [stays, stays, ← hs, ← hc, same]
    rcases hl with hl | ⟨stand, pass⟩
    · exact settleBound_of_unbound _ i (by rw [State.job_setJob_self, hlane, hl])
    · have move : ∀ c : Cursor, j.cursorMove c = none → k.cursorMove c = none := fun c h => by
        rw [cursorMove_eq_none_iff ho]
        rw [cursorMove_eq_none_iff hj] at h
        intro x hx
        by_cases hm : c.pos = j.records.length
        · rw [hm, last] at hx
          cases hx
          rw [ha]
          rfl
        · exact h x (by rw [← agree _ hm]; exact hx)
      unfold State.settleBound
      split
      · refine settle_of_still _ i ?_ (.inl ?_) ?_ ?_
        · rw [State.job_setJob_self, hs]
          exact move _ stand.2.2.1
        · rw [State.job_setJob_self, hc]
          exact move _ stand.2.2.2
        · rw [State.job_setJob_self]
          unfold Job.hasPassed
          rw [hc, hcopies]
          rcases pass with pass | ⟨pass, -⟩
          · simp [pass]
          · simp [pass]
        · rw [State.job_setJob_self]
          exact completed_of_open ho
      · rfl

/-- A lane that could offer nothing can offer nothing still, when all that has changed is the record of a job, with no sheet to offer that
it did not have (R95). -/
theorem offerable_setJob_eq_none {t : State} {k : Job} (hl : t.lane l = s.lane l) (hj : ∀ m, m ≠ i → t.job m = s.job m)
    (hs : k.state = (s.job i).state) (hr : ∀ r, k.recordAt k.send = some r → r.cond = .spooled →
      (s.job i).recordAt (s.job i).send = some r) (h : s.offerable l = none) : (t.setJob i k).offerable l = none := by
  refine offerable_eq_none fun m r o => ?_
  obtain ⟨hjob, hp, hb, ho, ha, hre, hd, hrec, hsp⟩ := o
  rw [State.lane_setJob, hl] at hjob hb ho ha hre hd
  have before : s.offerable l = some (m, r) := by
    refine offerable_eq_some_iff.mpr ⟨hjob, ?_, hb, ho, ha, hre, hd, ?_, hsp⟩
    · rw [State.job_setJob] at hp
      split at hp
      · rename_i e
        rw [← e, ← hs]
        exact hp
      · rename_i e
        rw [← hj m (Ne.symm e)]
        exact hp
    · rw [State.job_setJob] at hrec
      split at hrec
      · rename_i e
        rw [← e]
        exact hr r hrec hsp
      · rename_i e
        rw [← hj m (Ne.symm e)]
        exact hrec
  rw [h] at before
  cases before

/-- The lists of a job before and after a new record offer the same, where that record is not SPOOLED (R94, R102). -/
theorem recordAt_afterRecord {j : Job} {r x : SheetRecord} (hcond : r.cond.passable = true ∨ r.cond = .arriving)
    (hx : (j.records ++ [r])[(j.afterRecord r.cond j.records.length j.send).pos]? = some x) (hsp : x.cond = .spooled) :
    j.recordAt j.send = some x := by
  unfold Job.recordAt
  have notLast : x ≠ r := by
    rintro rfl
    rcases hcond with h | h
    · rw [hsp] at h
      cases h
    · rw [hsp] at h
      cases h
  have inList : ∀ m, (j.records ++ [r])[m]? = some x → j.records[m]? = some x := fun m h => by
    rcases Nat.lt_trichotomy m j.records.length with hm | hm | hm
    · rwa [List.getElem?_append_left hm] at h
    · rw [hm, List.getElem?_append_right (Nat.le_refl _), Nat.sub_self] at h
      cases h
      exact absurd rfl notLast
    · rw [List.getElem?_eq_none (by simp; omega)] at h
      cases h
  have before := inList _ hx
  unfold Job.afterRecord Job.movedPast at before
  split at before
  · exact before
  · split at before
    · rw [List.getElem?_eq_none (by dsimp only; omega)] at before
      cases before
    · exact before

/-- What follows a new record at a job without a lane, or whose cursors stand and pass nothing on the final copy: no offer (R102). -/
theorem offerBound_of_record {t : State} {k : Job} {r : SheetRecord} (hlanes : ∀ l, t.lane l = s.lane l)
    (hjobs : ∀ m, m ≠ i → t.job m = s.job m) (hj : (s.job i).intakeOpen = true) (ho : k.intakeOpen = true)
    (hs : k.send = (s.job i).send) (hc : k.confirm = (s.job i).confirm) (hlane : k.lane = (s.job i).lane)
    (hcopies : k.copies = (s.job i).copies) (hstate : k.state = (s.job i).state) (hr : k.records = (s.job i).records ++ [r])
    (hcond : r.cond.passable = true ∨ r.cond = .arriving)
    (hl : (s.job i).lane = none ∨ ∃ l, (s.job i).lane = some l ∧ s.offerable l = none ∧ (s.job i).cursorsStand ∧
      ((s.job i).confirm.copy ≠ (s.job i).copies ∨ (s.job i).confirm.pos = 0 ∧ 0 < (s.job i).records.length)) :
    ((t.setJob i k).settleBound i).offerBound i = t.setJob i { k with
      send := (s.job i).afterRecord r.cond (s.job i).records.length (s.job i).send
      confirm := (s.job i).afterRecord r.cond (s.job i).records.length (s.job i).confirm } := by
  rw [settleBound_of_record hj ho hs hc hlane hcopies hr hcond (hl.imp id fun ⟨_, _, _, h⟩ => h)]
  rcases hl with hl | ⟨l, hl, hoff, -⟩
  · exact offerBound_of_unbound _ i (by rw [State.job_setJob_self]; exact hlane.trans hl)
  · rw [offerBound_of_bound (by rw [State.job_setJob_self]; exact hlane.trans hl)]
    exact offerStep_of_none _ l (offerable_setJob_eq_none (hlanes l) hjobs hstate
      (fun x hx hsp => recordAt_afterRecord hcond (by rw [← hr]; exact hx) hsp) hoff)

/-- On the final copy a bound job with an empty list passes the SKIPPED or DAMAGED record that joins it (R42 to R44, R102): the record
leaves the list again, and no offer follows. -/
theorem offerBound_of_gone {t : State} {k : Job} {r : SheetRecord} {l : LaneNo} (hlanes : ∀ l, t.lane l = s.lane l)
    (hjobs : ∀ m, m ≠ i → t.job m = s.job m) (ho : k.intakeOpen = true) (hs : k.send = ⟨k.copies, 0⟩) (hc : k.confirm = ⟨k.copies, 0⟩)
    (hlane : k.lane = some l) (hstate : k.state = (s.job i).state) (hr : k.records = [r]) (hp : r.cond.passable = true)
    (hn : r.received = 0) (hfree : k.passed / 4096 ≤ k.released) (hoff : s.offerable l = none) :
    ((t.setJob i k).settleBound i).offerBound i = t.setJob i { k with records := [] } := by
  have settled := settleBound_passes (s := t.setJob i k) (i := i) (r := r) (free := 0)
  rw [State.job_setJob_self, setJob_setJob, hn, List.take_zero, List.append_nil] at settled
  have left : (t.setJob i k).settleBound i = t.setJob i { k with records := [] } :=
    settled ho hr hp (by rw [hlane]; simp) hs hc (by rw [Nat.add_zero]; omega) (.inl rfl)
  rw [left]
  generalize hm : ({ k with records := [] } : Job) = m
  have lane : m.lane = some l := by rw [← hm]; exact hlane
  have state : m.state = (s.job i).state := by rw [← hm]; exact hstate
  have empty : m.records = [] := by rw [← hm]
  rw [offerBound_of_bound (by rw [State.job_setJob_self]; exact lane)]
  refine offerStep_of_none _ l (offerable_setJob_eq_none (hlanes l) hjobs state ?_ hoff)
  intro x hx
  rw [Job.recordAt, empty] at hx
  cases hx

end


/-! ## A header that finds no sheet in progress -/

section
variable {s : State} {tag seq : Word16} {i : Slot} {n : Word16} {c d : Byte} {a b : Word16} {len : BitVec 24}

theorem recordsInUse_setJob {j : Job} (h : j.records = (s.job i).records) : (s.setJob i j).recordsInUse = s.recordsInUse := by
  unfold State.recordsInUse
  rw [State.setJob, map_toList_set s.jobs i j (fun j => j.records.length) (congrArg List.length h)]

/-- With no sheet in progress a header is refused for its number, dropped for want of a record, or obtains one (R15). -/
theorem exec_sheet_of_none (hr : s.reaches tag i) (hq : seq = (s.job i).expected) (hn : (s.job i).inProgress = none) :
    let t := s.begin.setJob i { s.job i with expected := seq + 1 }
    (n.toNat ≤ (s.job i).lastSheet → exec (.sheet tag seq n c d a b len) s = .next
      ({ t with badHeaders := bump s.badHeaders } : State).finish) ∧
    ((s.job i).lastSheet < n.toNat → 16384 ≤ s.recordsInUse → exec (.sheet tag seq n c d a b len) s = .next
      (t.raiseAlert (intakeAlert .recordShort i (s.job i).account n.toNat)).finish) ∧
    ((s.job i).lastSheet < n.toNat → s.recordsInUse < 16384 → exec (.sheet tag seq n c d a b len) s = .next
      (t.takeHeader i n.toNat c.toNat d.toNat a.toNat b.toNat len.toNat).finish) := by
  intro t
  have job : t.job i = { s.job i with expected := seq + 1 } := State.job_setJob_self ..
  have undamaged : t.damageInProgress i .short = t := damageInProgress_of_none (by rw [job]; exact hn) _
  have last : (t.job i).lastSheet = (s.job i).lastSheet := by rw [job]
  have account : (t.job i).account = (s.job i).account := by rw [job]
  have used : t.recordsInUse = s.recordsInUse := recordsInUse_setJob (s := s.begin) rfl
  rw [exec_sheet_of_reached hr hq, State.sheetHeader, undamaged, last, account, used]
  refine ⟨fun h => ?_, fun h hf => ?_, fun h hf => ?_⟩
  · rw [if_pos h]
    rfl
  · rw [if_neg (Nat.not_le.mpr h)]
    exact congrArg (fun t : State => Host.Outcome.next t.finish) (if_pos hf)
  · rw [if_neg (Nat.not_le.mpr h)]
    exact congrArg (fun t : State => Host.Outcome.next t.finish) (if_neg (Nat.not_le.mpr hf))

/-- A header's condition does not depend on the sequence number that the job expects. -/
theorem headerCond_setJob {j : Job} {number cls sides length : Nat} (hf : j.winFirst = (s.job i).winFirst)
    (hl : j.winLast = (s.job i).winLast) :
    (s.setJob i j).headerCond ((s.setJob i j).job i) number cls sides length = s.headerCond (s.job i) number cls sides length := by
  rw [State.job_setJob_self]
  unfold State.headerCond Job.outsideWindow
  rw [hf, hl]
  rfl

/-- The record of a header as it joins the list of job `j` at position `at` (R16, R102). -/
def Job.obtains (j : Job) (seq : Word16) (r : SheetRecord) (damaged : Nat) : Job :=
  { j with
    expected := seq, lastSheet := r.number, records := j.records ++ [r], damaged := damaged
    send := j.afterRecord r.cond j.records.length j.send
    confirm := j.afterRecord r.cond j.records.length j.confirm }

/-- The lane of the job is starved, and its cursors stand and pass nothing on the final copy; or the job has no lane. -/
def State.starved (s : State) (i : Slot) (n : Nat) : Prop :=
  (s.job i).lane = none ∨ ∃ l, (s.job i).lane = some l ∧ s.offerable l = none ∧ (s.job i).cursorsStand ∧
    ((s.job i).confirm.copy ≠ (s.job i).copies ∨ (s.job i).confirm.pos = 0 ∧ 0 < n)

variable {number cls sides covA covB length : Nat}

/-- A SKIPPED or ARRIVING record of a job without a lane or on a starved one (R16, R102). -/
theorem finish_takeHeader_of_undamaged (ho : (s.job i).intakeOpen = true) (hl : s.starved i (s.job i).records.length) {cond : SheetCond}
    (hc : s.headerCond (s.job i) number cls sides length = cond) (hn : cond = .skipped ∨ cond = .arriving) :
    ((s.begin.setJob i { s.job i with expected := seq }).takeHeader i number cls sides covA covB length).finish =
      ({ s with jobs := s.jobs.set i ((s.job i).obtains seq (SheetRecord.ofHeader number cls sides covA covB length cond)
        (s.job i).damaged) } : State).settled := by
  have cond' := headerCond_setJob (s := s.begin) (i := i) (j := { s.job i with expected := seq }) (number := number) (cls := cls)
    (sides := sides) (length := length) rfl rfl
  have taken := takeHeader_of_undamaged (covA := covA) (covB := covB) (cond'.trans hc) hn
  rw [State.job_setJob_self, setJob_setJob] at taken
  generalize hr : SheetRecord.ofHeader number cls sides covA covB length cond = r at taken ⊢
  have hrc : r.cond = cond := by rw [← hr]; rfl
  have offered := offerBound_of_record (s := s) (t := s.begin) (i := i) (r := r)
    (k := { s.job i with records := (s.job i).records ++ [r], expected := seq, lastSheet := number })
    (fun _ => rfl) (fun _ _ => rfl) ho ho rfl rfl rfl rfl rfl rfl (by
      rw [hrc]
      exact hn.imp (fun h => by rw [h]; rfl) id) hl
  rw [taken]
  refine (congrArg State.finish offered).trans ((finish_nothing _ rfl).trans ?_)
  have sheet : r.number = number := by rw [← hr]; rfl
  unfold Job.obtains
  rw [sheet]
  rfl

/-- A DAMAGED record of a job without a lane or on a starved one (R16, R17, R102). -/
theorem finish_takeHeader_of_damaged (ho : (s.job i).intakeOpen = true) (hl : s.starved i (s.job i).records.length)
    {reason : DamageReason} (hc : s.headerCond (s.job i) number cls sides length = .damaged reason) :
    ((s.begin.setJob i { s.job i with expected := seq }).takeHeader i number cls sides covA covB length).finish =
      ((s.raiseAlert (damageAlert i (s.job i).account reason number)).countHeader.setJob i
        ((s.job i).obtains seq (SheetRecord.ofHeader number cls sides covA covB length (.damaged reason))
          (bump (s.job i).damaged))).settled := by
  have cond' := headerCond_setJob (s := s.begin) (i := i) (j := { s.job i with expected := seq }) (number := number) (cls := cls)
    (sides := sides) (length := length) rfl rfl
  have taken := takeHeader_of_damaged (covA := covA) (covB := covB) (cond'.trans hc)
  rw [State.job_setJob_self, raiseAlert_setJob, countHeader_setJob, setJob_setJob, ← begin_raiseAlert] at taken
  generalize hr : SheetRecord.ofHeader number cls sides covA covB length (.damaged reason) = r at taken ⊢
  have hrc : r.cond = .damaged reason := by rw [← hr]; rfl
  have sheet : r.number = number := by rw [← hr]; rfl
  generalize damageAlert i (s.job i).account reason number = e at taken ⊢
  have offered := offerBound_of_record (s := s) (t := (s.raiseAlert e).begin.countHeader) (i := i) (r := r)
    (k := { s.job i with records := (s.job i).records ++ [r], expected := seq, lastSheet := number, damaged := bump (s.job i).damaged })
    (fun l => by rw [raiseAlert_frame]; rfl) (fun m _ => by rw [raiseAlert_frame]; rfl) ho ho rfl rfl rfl rfl rfl rfl
    (.inl (by rw [hrc]; rfl)) hl
  rw [taken]
  refine (congrArg State.finish offered).trans ((finish_nothing _ rfl).trans ?_)
  unfold Job.obtains
  rw [sheet]
  rfl

/-- On the final copy a SKIPPED record leaves the empty list of a bound job at once (R16, R42 to R44, R102). -/
theorem finish_takeHeader_of_skipped_gone {l : LaneNo} (ho : (s.job i).intakeOpen = true) (hl : (s.job i).lane = some l)
    (hoff : s.offerable l = none) (hrec : (s.job i).records = []) (hs : (s.job i).send = ⟨(s.job i).copies, 0⟩)
    (hcf : (s.job i).confirm = ⟨(s.job i).copies, 0⟩) (hpass : (s.job i).passed / 4096 ≤ (s.job i).released)
    (hc : s.headerCond (s.job i) number cls sides length = .skipped) :
    ((s.begin.setJob i { s.job i with expected := seq }).takeHeader i number cls sides covA covB length).finish =
      ({ s with jobs := s.jobs.set i { s.job i with expected := seq, lastSheet := number } } : State).settled := by
  have cond' := headerCond_setJob (s := s.begin) (i := i) (j := { s.job i with expected := seq }) (number := number) (cls := cls)
    (sides := sides) (length := length) rfl rfl
  have taken := takeHeader_of_undamaged (covA := covA) (covB := covB) (cond'.trans hc) (.inl rfl)
  rw [State.job_setJob_self, setJob_setJob] at taken
  have offered := offerBound_of_gone (s := s) (t := s.begin) (i := i) (l := l)
    (r := SheetRecord.ofHeader number cls sides covA covB length .skipped)
    (k := { s.job i with
      records := (s.job i).records ++ [SheetRecord.ofHeader number cls sides covA covB length .skipped], expected := seq, lastSheet := number })
    (fun _ => rfl) (fun _ _ => rfl) ho hs hcf hl rfl
    (by rw [hrec]; rfl) rfl rfl hpass hoff
  rw [taken]
  refine (congrArg State.finish offered).trans ((finish_nothing _ rfl).trans ?_)
  rw [← hrec]
  rfl

/-- So does a DAMAGED one, with its alert and count (R16, R17, R42 to R44, R102). -/
theorem finish_takeHeader_of_damaged_gone {l : LaneNo} (ho : (s.job i).intakeOpen = true) (hl : (s.job i).lane = some l)
    (hoff : s.offerable l = none) (hrec : (s.job i).records = []) (hs : (s.job i).send = ⟨(s.job i).copies, 0⟩)
    (hcf : (s.job i).confirm = ⟨(s.job i).copies, 0⟩) (hpass : (s.job i).passed / 4096 ≤ (s.job i).released) {reason : DamageReason}
    (hc : s.headerCond (s.job i) number cls sides length = .damaged reason) :
    ((s.begin.setJob i { s.job i with expected := seq }).takeHeader i number cls sides covA covB length).finish =
      ((s.raiseAlert (damageAlert i (s.job i).account reason number)).countHeader.setJob i
        { s.job i with expected := seq, lastSheet := number, damaged := bump (s.job i).damaged }).settled := by
  have cond' := headerCond_setJob (s := s.begin) (i := i) (j := { s.job i with expected := seq }) (number := number) (cls := cls)
    (sides := sides) (length := length) rfl rfl
  have taken := takeHeader_of_damaged (covA := covA) (covB := covB) (cond'.trans hc)
  rw [State.job_setJob_self, raiseAlert_setJob, countHeader_setJob, setJob_setJob, ← begin_raiseAlert] at taken
  generalize damageAlert i (s.job i).account reason number = e at taken ⊢
  have offered := offerBound_of_gone (s := s) (t := (s.raiseAlert e).begin.countHeader) (i := i) (l := l)
    (r := SheetRecord.ofHeader number cls sides covA covB length (.damaged reason))
    (k := { s.job i with
      records := (s.job i).records ++ [SheetRecord.ofHeader number cls sides covA covB length (.damaged reason)], expected := seq, lastSheet := number
      damaged := bump (s.job i).damaged })
    (fun l => by rw [raiseAlert_frame]; rfl) (fun m _ => by rw [raiseAlert_frame]; rfl) ho hs hcf hl rfl
    (by rw [hrec]; rfl) rfl rfl hpass hoff
  rw [taken]
  refine (congrArg State.finish offered).trans ((finish_nothing _ rfl).trans ?_)
  rw [← hrec]
  rfl

/-- What a job as intake leaves it brings, in a state whose only alert is `e` and which counts a bad header (R17). -/
theorem countHeader_raiseAlert (s : State) (e : AlertEvent) (j : Job) :
    ((s.raiseAlert e).countHeader.setJob i j).settled =
      ({ ({ s with jobs := s.jobs.set i j } : State).raiseAlert e with badHeaders := min (s.badHeaders + 1) 4294967295 } : State).settled := by
  have raised : ({ s with jobs := s.jobs.set i j } : State).raiseAlert e = (s.raiseAlert e).setJob i j := raiseAlert_setJob s j e
  have count : (s.raiseAlert e).badHeaders = s.badHeaders := by
    rw [raiseAlert_frame]
    rfl
  rw [raised, State.countHeader, count]
  rfl

end

/-! ## The condition of a header's record -/

section
variable {s : State} {j : Job} {n : Nat} {c d : Byte} {len : BitVec 24}

theorem outsideWindow_iff : j.outsideWindow n = true ↔ j.winFirst ≤ j.winLast ∧ (n < j.winFirst ∨ j.winLast < n) := by
  unfold Job.outsideWindow
  simp

theorem classValid_iff : s.classValid n = true ↔ ∃ c : Fin 16, n = c ∧ s.rates[c].valid = true := by
  unfold State.classValid toIndex
  by_cases h : n < 16
  · rw [dif_pos h]
    refine ⟨fun hv => ⟨⟨n, h⟩, rfl, hv⟩, ?_⟩
    rintro ⟨c, rfl, hv⟩
    exact hv
  · rw [dif_neg h]
    refine ⟨fun hv => (by cases hv), ?_⟩
    rintro ⟨c, rfl, hv⟩
    exact absurd c.isLt h

theorem badFormat_iff : ((d.toNat != 1 && d.toNat != 2) || decide (len.toNat = 0)) = true ↔ ¬((d = 1 ∨ d = 2) ∧ len ≠ 0) := by
  have one : d = 1 ↔ d.toNat = 1 := BitVec.toNat_inj.symm
  have two : d = 2 ↔ d.toNat = 2 := BitVec.toNat_inj.symm
  have zero : len = 0 ↔ len.toNat = 0 := BitVec.toNat_inj.symm
  rw [one, two, Ne, zero]
  simp only [Bool.or_eq_true, Bool.and_eq_true, bne_iff_ne, decide_eq_true_eq]
  omega

/-- A header's record is SKIPPED outside the print window, then DAMAGED for class or for format, and else ARRIVING (R16, R17). -/
theorem headerCond_cases :
    (j.outsideWindow n = true → s.headerCond j n c.toNat d.toNat len.toNat = .skipped) ∧
    (¬j.outsideWindow n = true → ¬s.classValid c.toNat = true → s.headerCond j n c.toNat d.toNat len.toNat = .damaged .cls) ∧
    (¬j.outsideWindow n = true → s.classValid c.toNat = true → ¬((d = 1 ∨ d = 2) ∧ len ≠ 0) →
      s.headerCond j n c.toNat d.toNat len.toNat = .damaged .format) ∧
    (¬j.outsideWindow n = true → s.classValid c.toNat = true → (d = 1 ∨ d = 2) ∧ len ≠ 0 →
      s.headerCond j n c.toNat d.toNat len.toNat = .arriving) := by
  unfold State.headerCond
  refine ⟨fun h => if_pos h, fun h hc => ?_, fun h hc hf => ?_, fun h hc hf => ?_⟩
  · rw [if_neg h, if_pos (by simpa using hc)]
  · rw [if_neg h, if_neg (by simpa using hc), if_pos (badFormat_iff.mpr hf)]
  · rw [if_neg h, if_neg (by simpa using hc), if_neg (fun hb => badFormat_iff.mp hb hf)]

/-- A header's fields as its record holds them (R16). -/
theorem ofHeader_eq {a b : Word16} {cond : SheetCond} : SheetRecord.ofHeader n c.toNat d.toNat a.toNat b.toNat len.toNat cond =
    ⟨n, c.toNat, d.toNat, min a.toNat 1000, if d = 1 then 0 else min b.toNat 1000, len.toNat, none, 0, cond⟩ := by
  unfold SheetRecord.ofHeader
  by_cases h : d = 1
  · subst h
    rfl
  · have one : d.toNat ≠ 1 := fun e => h (BitVec.toNat_inj.mp e)
    rw [if_neg h, if_neg one]

end

/-- Settles O46. -/
theorem sheetHeaderObtainsARecord : Obligations.SheetHeaderObtainsARecord := by
  intro s tag seq number cls sides covA covB length i hr hq f j passed keeps
  refine ⟨fun rest rec hrec ha => ⟨fun hl => ?past, fun hl he hs hc hw hp => ?passes⟩, fun hn => ⟨fun hnum => ?number, fun hnum hfull => ?full,
    fun hnum hroom => ?room⟩⟩
  case past =>
    exact exec_sheet_of_past hr hq hrec ha hl
  case passes =>
    intro freed
    have list : j.records = [rec] := by
      rw [hrec, he]
      rfl
    exact exec_sheet_of_passes hr hq list ha hl hs hc rfl hw hp
  case number =>
    exact ((exec_sheet_of_none hr hq hn).1 hnum).trans (congrArg Host.Outcome.next (finish_nothing _ rfl))
  case full =>
    refine ((exec_sheet_of_none hr hq hn).2.1 hnum hfull).trans ?_
    exact congrArg Host.Outcome.next (finish_raiseAlert { s with jobs := s.jobs.set i passed } _)
  case room =>
    intro outside classValid formatGood damaged taken bad
    have run := (exec_sheet_of_none (c := cls) (d := sides) (a := covA) (b := covB) (len := length) hr hq hn).2.2 hnum hroom
    have conds := headerCond_cases (s := s) (j := s.job i) (n := number.toNat) (c := cls) (d := sides) (len := length)
    rw [outsideWindow_iff, classValid_iff] at conds
    obtain ⟨skipped, badClass, badFormat, arriving⟩ := conds
    refine ⟨fun hl => ?obtains, fun l hl hoff hrec hs hc hpass => ?gone⟩
    case obtains =>
      have undamaged : ∀ cond, s.headerCond (s.job i) number.toNat cls.toNat sides.toNat length.toNat = cond →
          cond = .skipped ∨ cond = .arriving → exec f s = .next (taken cond j.damaged).settled := fun cond h hn => by
        refine run.trans (congrArg Host.Outcome.next ((finish_takeHeader_of_undamaged hr.2.2 hl h hn).trans ?_))
        rw [ofHeader_eq]
        rfl
      have spoiled : ∀ reason, s.headerCond (s.job i) number.toNat cls.toNat sides.toNat length.toNat = .damaged reason →
          reason ≠ .overrun → exec f s = .next (bad (taken (.damaged reason) damaged)) := fun reason h hn => by
        refine run.trans (congrArg Host.Outcome.next ((finish_takeHeader_of_damaged hr.2.2 hl h).trans ?_))
        rw [countHeader_raiseAlert, ofHeader_eq, damageAlert, if_neg hn]
        rfl
      exact ⟨fun ho => undamaged _ (skipped ho) (.inl rfl), fun ho hc => spoiled _ (badClass ho hc) (by decide),
        fun ho hc hf => spoiled _ (badFormat ho hc hf) (by decide), fun ho hc hf => undamaged _ (arriving ho hc hf) (.inr rfl)⟩
    case gone =>
      intro gone
      have spoiled : ∀ reason, s.headerCond (s.job i) number.toNat cls.toNat sides.toNat length.toNat = .damaged reason →
          reason ≠ .overrun → exec f s = .next (bad (gone damaged)) := fun reason h hn => by
        refine run.trans (congrArg Host.Outcome.next ((finish_takeHeader_of_damaged_gone hr.2.2 hl hoff hrec hs hc hpass h).trans ?_))
        rw [countHeader_raiseAlert, damageAlert, if_neg hn]
        rfl
      refine ⟨fun ho => ?_, fun ho hb => ?_⟩
      · exact run.trans (congrArg Host.Outcome.next
          (finish_takeHeader_of_skipped_gone hr.2.2 hl hoff hrec hs hc hpass (skipped ho)))
      · by_cases hv : classValid
        · exact spoiled _ (badFormat ho hv (hb.resolve_left (fun h => h hv))) (by decide)
        · exact spoiled _ (badClass ho hv) (by decide)

end Sys2Proof.Machine
end

section
/-! PROOF. The offer that a lane makes (R93, R95), and the DATA frame (R18 to R21, R33 to R35): settles O47. -/

namespace Sys2Proof.Machine

/-! ## The offer -/

section
variable {s : State} {l : LaneNo} {i : Slot} {rec : SheetRecord}

theorem freshSeq_of_fresh {entries : List InFlight} {q : Word16} (h : ∀ e ∈ entries, e.seq ≠ q) (n : Nat) : freshSeq entries n q = q := by
  cases n with
  | zero => rfl
  | succ n =>
    unfold freshSeq
    refine if_neg ?_
    simpa using h

/-- With nothing retained an offer takes the counter's next sequence, where no in-flight entry carries that (R93). -/
theorem offerSeq_of_fresh {r : Lane} (hr : r.retained = none) (h : ∀ e ∈ r.inflight, e.seq ≠ r.seq) (copy sheet : Nat) :
    r.offerSeq copy sheet = (r.seq, r.seq + 1) := by
  unfold Lane.offerSeq
  rw [hr, freshSeq_of_fresh h]

theorem takes_iff {c : Capability} : c.takes rec = true ↔ c.media.getLsbD rec.cls = true ∧ (rec.sides = 2 → c.duplex = true) := by
  unfold Capability.takes
  by_cases h : rec.sides = 2
  · simp [h]
  · simp [h]

/-- A lane that can offer offers the sheet at its job's send cursor (R93, R95). -/
theorem offerStep_of_mayOffer (h : s.mayOffer l i rec) (hr : (s.job i).recordAt (s.job i).send = some rec) (hc : rec.cond = .spooled) :
    s.offerStep l = s.withOffer l i (s.job i).send.copy rec := by
  obtain ⟨⟨hjob, -, hprint⟩, ⟨hbound, habort⟩, ⟨hoffer, hret, hre⟩, hroom, hfresh, hcap, hfund⟩ := h
  have can : s.offerable l = some (i, rec) := offerable_eq_some_iff.mpr ⟨hjob, hprint, hbound, hoffer, habort, hre, hroom, hr, hc⟩
  unfold State.offerStep
  rw [can]
  dsimp only
  have funded : (s.account (s.job i).account).covers (estimateOf (s.scaled rec (s.job i).account)) = true := decide_eq_true hfund
  rw [takes_iff.mpr hcap, if_neg (by decide), if_pos funded]
  unfold State.sendOffer
  dsimp only
  rw [offerSeq_of_fresh hret hfresh]
  rfl

/-- What a lane can offer is decided by its own record and those of its job and account, and by the prices (R95). -/
theorem mayOffer_congr {t : State} {rec' : SheetRecord} (h : s.mayOffer l i rec) (hl : t.lane l = s.lane l)
    (hj : (t.job i).lane = (s.job i).lane ∧ (t.job i).state = (s.job i).state ∧ (t.job i).account = (s.job i).account)
    (ha : t.accounts = s.accounts) (hr : t.rates = s.rates ∧ t.tiers = s.tiers)
    (hrec : rec' = { rec with received := rec'.received, place := rec'.place, cond := rec'.cond }) : t.mayOffer l i rec' := by
  obtain ⟨hprint, hbound, hidle, hroom, hfresh, hcap, hfund⟩ := h
  obtain ⟨jlane, jstate, jacc⟩ := hj
  have account : ∀ a, t.account a = s.account a := fun a => by
    unfold State.account
    rw [ha]
  have worth : t.scaled rec' (s.job i).account = s.scaled rec (s.job i).account := by
    unfold State.scaled State.rateOf State.tierFor
    rw [hr.1, hr.2, account, hrec]
    rfl
  refine ⟨?_, ?_, ?_, ?_, ?_, ?_, ?_⟩
  · rw [hl, jlane, jstate]
    exact hprint
  · rw [hl]
    exact hbound
  · rw [hl]
    exact hidle
  · rw [hl]
    exact hroom
  · rw [hl]
    exact hfresh
  · rw [hl, hrec]
    exact hcap
  · rw [jacc, account, worth]
    exact hfund

end

/-! ## Cursors that stand -/

section
variable {s : State} {i : Slot}

/-- Settling leaves a bound job whose cursors cannot move and that has passed nothing on the final copy (R90, R91, R102). -/
theorem settleBound_of_still (hs : (s.job i).cursorMove (s.job i).send = none)
    (hc : (s.job i).cursorMove (s.job i).confirm = none ∨ (s.job i).confirm.behind (s.job i).send = false)
    (hp : (s.job i).hasPassed = false) (hd : (s.job i).completed = false) : s.settleBound i = s := by
  unfold State.settleBound
  split
  · exact settle_of_still _ i hs hc hp hd
  · rfl

/-- A job that a dispatch opportunity finds no lane for stays as it is (R55). -/
theorem finish_noteSendable (ht : s.todo = Todo.nothing) (h : (s.job i).state = .queued → (s.pool (s.job i).pool).ready = []) :
    (s.noteSendable i).finish = s.settled := by
  unfold State.noteSendable
  split
  · rename_i hq
    refine finish_quiet (s.noteDispatch (s.job i).pool) (fun p hp => .inl ?_) ?_ ?_ ?_
    · have only : p = (s.job i).pool := by
        have : p ∈ s.todo.pools ++ [(s.job i).pool] := hp
        rw [ht] at this
        simpa [Todo.nothing] using this
      rw [only]
      exact h hq
    · show ∀ a ∈ s.todo.risen, _
      rw [ht]
      intro a ha
      cases ha
    · exact congrArg Todo.done ht
    · exact congrArg Todo.reset ht
  · exact finish_nothing s ht

end

/-! ## Payload that a job takes -/

section
variable {s : State} {i : Slot} {rest : List SheetRecord} {rec : SheetRecord} {payload : List Byte}

/-- A job once `n` more bytes of its sheet in progress have been stored (R21, R35). -/
def Job.received (j : Job) (n : Nat) : Job :=
  { j with spooled := j.spooled + n, records := modLast (fun r => r.receive n (j.placeOf j.spooled)) j.records }

/-- The state once a payload has been stored in the blocks that the job has for it (R21, R35). -/
def State.store (s : State) (i : Slot) (payload : List Byte) : State :=
  { s.setJob i ((s.job i).received payload.length) with mem := storeBytes (s.job i) s.mem (s.job i).spooled payload }

/-- What follows where the sheet that a payload was for is whole (R21, R102). -/
def State.afterWhole (s : State) (i : Slot) (whole : Prop) [Decidable whole] : State :=
  if whole then ((s.settleBound i).offerBound i).noteSendable i else s

/-- A frame for which the job has the blocks takes none (R34). -/
theorem takeData_of_held (h : (s.job i).spooled + payload.length ≤ 4096 * (s.job i).allocated) :
    s.takeData i rec payload = (s.store i payload).afterWhole i (rec.received + payload.length = rec.length) := by
  have none : (s.job i).blocksFor payload.length = 0 := by
    unfold Job.blocksFor Config.blockBytes
    omega
  unfold State.takeData
  dsimp only
  rw [none, if_neg (Nat.lt_irrefl 0)]
  rfl

/-- A frame for which the job needs one more block takes that, and the job is not due for credit after it (R34, R37). -/
theorem takeData_of_one (h : 4096 * (s.job i).allocated < (s.job i).spooled + payload.length)
    (hm : (s.job i).spooled + payload.length ≤ 4096 * ((s.job i).allocated + 1))
    (hd : ((s.allocate i).store i payload).due i = false) (hw : ((s.allocate i).store i payload).waitList = []) :
    s.takeData i rec payload = ((s.allocate i).store i payload).afterWhole i (rec.received + payload.length = rec.length) := by
  have one : (s.job i).blocksFor payload.length = 1 := by
    unfold Job.blocksFor Config.blockBytes
    omega
  have waits : ((s.allocate i).store i payload).joinWait i = (s.allocate i).store i payload := by
    unfold State.joinWait
    rw [hd]
    rfl
  unfold State.takeData
  dsimp only
  rw [one, if_pos Nat.zero_lt_one]
  show State.afterWhole (((s.allocate i).store i payload).joinWait i).walk i _ = _
  rw [waits, walk_of_none _ hw]

/-- The record of the sheet in progress as it takes `n` bytes at `place` (R21). -/
theorem receive_eq (ha : rec.cond = .arriving) (n : Nat) (place : Nat × Nat) : rec.receive n place =
    { rec with
      received := rec.received + n, place := if rec.place = none then some place else rec.place
      cond := if rec.received + n = rec.length then .spooled else .arriving } := by
  unfold SheetRecord.receive
  rw [ha]
  cases rec.place with
  | none => rfl
  | some p => rfl

theorem received_records {j : Job} (hr : j.records = rest ++ [rec]) (n : Nat) :
    (j.received n).records = rest ++ [rec.receive n (j.placeOf j.spooled)] := by
  unfold Job.received
  rw [hr, modLast_append]

/-- Where payload is stored follows from the job's chain alone (R35). -/
theorem storeBytes_congr {j k : Job} (hc : j.chain = k.chain) (hr : j.released = k.released) :
    ∀ (m : List Host.Cell) (n : Nat), storeBytes j m n payload = storeBytes k m n payload := by
  induction payload with
  | nil => exact fun _ _ => rfl
  | cons b l ih =>
    intro m n
    have place : storeAddress j n = storeAddress k n := by
      unfold storeAddress Job.placeOf
      rw [hc, hr]
    rw [storeBytes, storeBytes, place, ih]

/-! ### A whole sheet -/

/-- With its last sheet SPOOLED or ARRIVING, a job's cursors stand where they stood before (R90). -/
theorem cursorsStand_of_last {j k : Job} {r : SheetRecord} (hj : j.intakeOpen = true) (hk : k.intakeOpen = true)
    (hr : j.records = rest ++ [rec]) (hr' : k.records = rest ++ [r]) (hp : r.cond.passable = false) {c : Cursor}
    (h : j.cursorMove c = none) : k.cursorMove c = none := by
  rw [cursorMove_eq_none_iff hk]
  rw [cursorMove_eq_none_iff hj] at h
  intro x hx
  by_cases hm : c.pos = rest.length
  · rw [hm, hr', List.getElem?_concat_length] at hx
    cases hx
    exact hp
  · rw [hr', getElem?_append_last rest r rec c.pos hm, ← hr] at hx
    exact h x hx

/-- What a bound job's lane needs for a whole sheet to leave it idle: its cursors stand, it has nothing to offer, and the sheet does not
give it something. -/
structure State.idleAt (s : State) (i : Slot) (l : LaneNo) (n : Nat) : Prop where
  lane : (s.job i).lane = some l
  stands : (s.job i).cursorsStand
  keeps : (s.job i).confirm.copy ≠ (s.job i).copies ∨ (s.job i).confirm.pos = 0
  offers : s.offerable l = none
  elsewhere : (s.job i).send.pos ≠ n ∨ (s.job i).state ≠ .printing ∨ (s.lane l).state ≠ .bound ∨ (s.lane l).offer ≠ none

theorem hasPassed_of_keeps {j : Job} (h : j.confirm.copy ≠ j.copies ∨ j.confirm.pos = 0) : j.hasPassed = false := by
  unfold Job.hasPassed
  rcases h with h | h
  · simp [h]
  · simp [h]

variable {t : State} {k : Job}

/-- The offer step of an idle lane finds nothing to offer still, with the sheet whole (R94, R95). -/
theorem offerable_of_idle {l : LaneNo} {r : SheetRecord} (h : s.idleAt i l rest.length) (hlane : t.lane l = s.lane l)
    (hjobs : ∀ m, m ≠ i → t.job m = s.job m) (hstate : k.state = (s.job i).state) (hs : k.send = (s.job i).send)
    (hr : (s.job i).records = rest ++ [rec]) (hr' : k.records = rest ++ [r]) : (t.setJob i k).offerable l = none := by
  refine offerable_eq_none fun m x o => ?_
  obtain ⟨hjob, hp, hb, ho, ha, hre, hd, hrec, hsp⟩ := o
  rw [State.lane_setJob, hlane] at hjob hb ho ha hre hd
  have same : (t.setJob i k).job m = s.job m ∨ m = i := by
    by_cases e : m = i
    · exact .inr e
    · exact .inl (((State.job_setJob t i m k).trans (if_neg (Ne.symm e))).trans (hjobs m e))
  have before : (s.job m).state = .printing ∧ (s.job m).recordAt (s.job m).send = some x := by
    rcases same with same | rfl
    · rw [same] at hp hrec
      exact ⟨hp, hrec⟩
    · rw [State.job_setJob_self] at hp hrec
      rw [hstate] at hp
      have away : (s.job m).send.pos ≠ rest.length := by
        rcases h.elsewhere with he | he | he | he
        · exact he
        · exact absurd hp he
        · exact absurd hb he
        · exact absurd ho he
      refine ⟨hp, ?_⟩
      unfold Job.recordAt at hrec ⊢
      rwa [hs, hr', getElem?_append_last rest r rec _ away, ← hr] at hrec
  have can : s.offerable l = some (m, x) := offerable_eq_some_iff.mpr ⟨hjob, before.1, hb, ho, ha, hre, hd, before.2, hsp⟩
  rw [h.offers] at can
  cases can

/-- A whole sheet of a job without a lane, or of one whose lane stays idle, is stored and no more (R21, R102). -/
theorem finish_afterWhole {whole : Prop} [Decidable whole] {r : SheetRecord} (ht : t.todo = Todo.nothing)
    (ho : (s.job i).intakeOpen = true) (hk : k.intakeOpen = true) (hstate : k.state = (s.job i).state) (hpool : k.pool = (s.job i).pool)
    (hlane : k.lane = (s.job i).lane) (hcopies : k.copies = (s.job i).copies) (hs : k.send = (s.job i).send)
    (hc : k.confirm = (s.job i).confirm) (hr : (s.job i).records = rest ++ [rec]) (hr' : k.records = rest ++ [r])
    (hp : r.cond.passable = false) (hlanes : ∀ l, t.lane l = s.lane l) (hjobs : ∀ m, m ≠ i → t.job m = s.job m)
    (hready : (t.pool (s.job i).pool).ready = (s.pool (s.job i).pool).ready)
    (h : ¬whole ∨ ((s.job i).state = .queued → (s.pool (s.job i).pool).ready = []) ∧
      ((s.job i).lane = none ∨ ∃ l, s.idleAt i l rest.length)) :
    ((t.setJob i k).afterWhole i whole).finish = (t.setJob i k).settled := by
  unfold State.afterWhole
  by_cases hw : whole
  · obtain ⟨hq, hl⟩ := h.resolve_left (fun h => h hw)
    rw [if_pos hw]
    have settles : (t.setJob i k).settleBound i = t.setJob i k := by
      rcases hl with hl | ⟨l, hl⟩
      · exact settleBound_of_unbound _ i (by rw [State.job_setJob_self, hlane, hl])
      · obtain ⟨-, -, send, confirm⟩ := hl.stands
        have move : ∀ {c : Cursor}, (s.job i).cursorMove c = none → k.cursorMove c = none := cursorsStand_of_last ho hk hr hr' hp
        refine settleBound_of_still ?_ (.inl ?_) ?_ ?_
        · rw [State.job_setJob_self, hs]
          exact move send
        · rw [State.job_setJob_self, hc]
          exact move confirm
        · rw [State.job_setJob_self]
          exact hasPassed_of_keeps (by rw [hc, hcopies]; exact hl.keeps)
        · rw [State.job_setJob_self]
          exact completed_of_open hk
    have offers : (t.setJob i k).offerBound i = t.setJob i k := by
      rcases hl with hl | ⟨l, hl⟩
      · exact offerBound_of_unbound _ i (by rw [State.job_setJob_self, hlane, hl])
      · rw [offerBound_of_bound (by rw [State.job_setJob_self, hlane, hl.lane])]
        exact offerStep_of_none _ l (offerable_of_idle hl (hlanes l) hjobs hstate hs hr hr')
    rw [settles, offers]
    refine finish_noteSendable ht ?_
    rw [State.job_setJob_self, hstate, hpool, State.pool_setJob, hready]
    exact hq
  · rw [if_neg hw]
    exact finish_nothing _ ht

/-- A whole sheet under the send cursor of an idle lane is offered (R95, R102). -/
theorem finish_afterWhole_of_offer {l : LaneNo} {r : SheetRecord} {whole : Prop} [Decidable whole] (hw : whole) (ht : t.todo = Todo.nothing)
    (ho : (s.job i).intakeOpen = true) (hk : k.intakeOpen = true) (hcopies : k.copies = (s.job i).copies) (hs : k.send = (s.job i).send)
    (hc : k.confirm = (s.job i).confirm) (hr : (s.job i).records = rest ++ [rec]) (hr' : k.records = rest ++ [r])
    (hp : r.cond = .spooled) (stands : (s.job i).cursorsStand)
    (keeps : (s.job i).confirm.copy ≠ (s.job i).copies ∨ (s.job i).confirm.pos = 0) (hpos : (s.job i).send.pos = rest.length)
    (may : (t.setJob i k).mayOffer l i r) :
    ((t.setJob i k).afterWhole i whole).finish = ((t.setJob i k).withOffer l i k.send.copy r).settled := by
  have job : (t.setJob i k).job i = k := State.job_setJob_self ..
  have move : ∀ {c : Cursor}, (s.job i).cursorMove c = none → k.cursorMove c = none := cursorsStand_of_last ho hk hr hr' (by rw [hp]; rfl)
  obtain ⟨-, -, send, confirm⟩ := stands
  have settles : (t.setJob i k).settleBound i = t.setJob i k := by
    refine settleBound_of_still ?_ (.inl ?_) ?_ ?_
    · rw [job, hs]
      exact move send
    · rw [job, hc]
      exact move confirm
    · rw [job]
      exact hasPassed_of_keeps (by rw [hc, hcopies]; exact keeps)
    · rw [job]
      exact completed_of_open hk
  have offers := offerStep_of_mayOffer may (by
    rw [job, Job.recordAt, hs, hpos, hr', List.getElem?_concat_length]) hp
  unfold State.afterWhole
  rw [if_pos hw, settles, offerBound_of_bound may.printing.2.1, offers, job]
  have printing : k.state = .printing := by
    rw [← job]
    exact may.printing.2.2
  have after : (((t.setJob i k).withOffer l i k.send.copy r).job i).state = .printing := by
    have : ((t.setJob i k).withOffer l i k.send.copy r).job i = k := job
    rw [this, printing]
  unfold State.noteSendable
  rw [if_neg (by rw [after]; decide)]
  exact finish_nothing _ ht

end

/-! ## The DATA frame -/

section
variable {s : State} {tag seq : Word16} {payload : List Byte} {i : Slot} {rest : List SheetRecord} {rec : SheetRecord}

theorem exec_data_of_reached (hr : s.reaches tag i) (hq : seq = (s.job i).expected) : exec (.data tag seq payload) s =
    .next ((s.begin.setJob i { s.job i with expected := seq + 1 }).sheetData i payload).finish :=
  exec_of_reached (f := .data tag seq payload) (handle := fun u i => u.sheetData i payload) (fun _ => rfl) hr hq

theorem sheetData_of_none (h : (s.job i).inProgress = none) : s.sheetData i payload = s := by
  unfold State.sheetData
  rw [h]

/-- Payload for a sheet in progress is too long for it, beyond the credit, or taken (R19 to R21). -/
theorem sheetData_of_some (hr : (s.job i).records = rest ++ [rec]) (ha : rec.cond = .arriving) (hp : 0 < payload.length) :
    (rec.length - rec.received < payload.length → s.sheetData i payload = s.damageInProgress i .length) ∧
    (payload.length ≤ rec.length - rec.received → 4096 * (s.job i).granted < (s.job i).spooled + payload.length →
      s.sheetData i payload = { s.damageInProgress i .overrun with overruns := bump s.overruns }) ∧
    (payload.length ≤ rec.length - rec.received → (s.job i).spooled + payload.length ≤ 4096 * (s.job i).granted →
      s.sheetData i payload = s.takeData i rec payload) := by
  have sheet : (s.job i).inProgress = some rec := (inProgress_append hr).trans (if_pos ha)
  have some : payload.isEmpty = false := by
    cases payload with
    | nil => exact absurd hp (Nat.lt_irrefl 0)
    | cons _ _ => rfl
  unfold State.sheetData
  rw [sheet]
  dsimp only
  rw [if_neg (by rw [some]; decide)]
  refine ⟨fun h => if_pos h, fun h hg => ?_, fun h hg => ?_⟩
  · rw [if_neg (Nat.not_lt.mpr h), if_neg (by unfold Job.withinCredit; simpa using hg)]
  · rw [if_neg (Nat.not_lt.mpr h), if_pos (by unfold Job.withinCredit; simpa using hg)]

theorem sheetData_of_empty : s.sheetData i [] = s := by
  unfold State.sheetData
  split
  · rfl
  · rfl

/-- The damage that a frame in sequence does to the sheet in progress of a job without a lane, or whose cursors pass nothing on the final
copy (R13, R102). -/
theorem damage_of_past (ho : (s.job i).intakeOpen = true) (hr : (s.job i).records = rest ++ [rec]) (ha : rec.cond = .arriving)
    (hl : (s.job i).lane = none ∨ (s.job i).cursorsStand ∧
      ((s.job i).confirm.copy ≠ (s.job i).copies ∨ (s.job i).confirm.pos = 0 ∧ rest ≠ [])) (reason : DamageReason) :
    (s.begin.setJob i { s.job i with expected := seq }).damageInProgress i reason =
      ((s.setJob i { s.job i with
        expected := seq, records := rest ++ [{ rec with cond := .damaged reason }], damaged := bump (s.job i).damaged
        send := (s.job i).movedPast rest.length (s.job i).send
        confirm := (s.job i).movedPast rest.length (s.job i).confirm }).raiseAlert
          (damageAlert i (s.job i).account reason rec.number)).begin := by
  have damaged := damageInProgress_past (s := s.begin.setJob i { s.job i with expected := seq }) (i := i) (rec := rec) (rest := rest)
  rw [State.job_setJob_self] at damaged
  rw [damaged ho hr ha (hl.imp id fun ⟨stand, pass⟩ => ⟨stand, pass.imp id fun ⟨z, e⟩ => ⟨z, List.length_pos_iff.mpr e⟩⟩) reason,
    raiseAlert_setJob, setJob_setJob, raiseAlert_setJob, ← begin_raiseAlert]
  rfl

/-- And to the only sheet of a bound job on the final copy (R13, R42 to R44, R102). -/
theorem damage_of_passes (ho : (s.job i).intakeOpen = true) (hr : (s.job i).records = [rec]) (ha : rec.cond = .arriving)
    (hl : (s.job i).lane ≠ none) (hs : (s.job i).send = ⟨(s.job i).copies, 0⟩) (hc : (s.job i).confirm = ⟨(s.job i).copies, 0⟩)
    {free : Nat} (hf : min (s.job i).chain.length (((s.job i).passed + rec.received) / 4096 - (s.job i).released) = free)
    (hw : s.waitList = []) (hp : ∀ p, (s.pool p).reserved = false) (reason : DamageReason) :
    (s.begin.setJob i { s.job i with expected := seq }).damageInProgress i reason =
      (({ s.setJob i { s.job i with
            expected := seq, records := [], damaged := bump (s.job i).damaged, passed := (s.job i).passed + rec.received
            chain := (s.job i).chain.drop free, released := (s.job i).released + free } with
          sharedFree := s.sharedFree ++ (s.job i).chain.take free } : State).raiseAlert
            (damageAlert i (s.job i).account reason rec.number)).begin := by
  have damaged := damageInProgress_passes (s := s.begin.setJob i { s.job i with expected := seq }) (i := i) (rec := rec) (free := free)
  rw [State.job_setJob_self] at damaged
  have alert : ∀ (k : Job) (e : AlertEvent), ({ s.setJob i k with sharedFree := s.sharedFree ++ (s.job i).chain.take free } : State).raiseAlert
      e = { (s.raiseAlert e).setJob i k with sharedFree := s.sharedFree ++ (s.job i).chain.take free } := fun k e =>
    (raiseAlert_sharedFree (s.setJob i k) _ e).trans (by rw [raiseAlert_setJob])
  rw [damaged ho hr ha hl hs hc hf (.inr ⟨hw, hp⟩) reason, alert, raiseAlert_setJob, setJob_setJob, ← begin_raiseAlert]
  rfl

/-- A frame that ends the sheet in progress ends with that damage, counted where it is an overrun (R19, R20). -/
theorem finish_sheetData_of_damage {t : State} {e : AlertEvent} {reason : DamageReason} {u : State}
    (h : u.damageInProgress i reason = (t.raiseAlert e).begin) (hu : u.overruns = s.overruns) :
    (u.damageInProgress i reason).finish = (t.raiseAlert e).settled ∧
    ({ u.damageInProgress i reason with overruns := bump u.overruns } : State).finish =
      ({ t.raiseAlert e with overruns := min (s.overruns + 1) 4294967295 } : State).settled := by
  rw [h, hu]
  exact ⟨finish_nothing _ rfl, finish_nothing _ rfl⟩

/-- The record of the sheet in progress as a frame of `n` bytes at `place` leaves it (R21). -/
def SheetRecord.stored (r : SheetRecord) (n : Nat) (place : Nat × Nat) : SheetRecord :=
  { r with
    received := r.received + n, place := if r.place = none then some place else r.place
    cond := if r.received + n = r.length then .spooled else .arriving }

/-- A job whose sheet in progress takes `n` bytes in the blocks of `chain` (R21, R35). -/
def Job.storing (j : Job) (rest : List SheetRecord) (rec : SheetRecord) (n : Nat) (chain : List Nat) : Job :=
  { j with
    spooled := j.spooled + n
    records := rest ++ [rec.stored n (chain.getD (j.spooled / 4096 - j.released) 0, j.spooled % 4096)] }

theorem received_eq {j : Job} (hr : j.records = rest ++ [rec]) (ha : rec.cond = .arriving) (n : Nat) :
    j.received n = j.storing rest rec n j.chain := by
  unfold Job.received Job.storing
  rw [hr, modLast_append, receive_eq ha]
  rfl

theorem stored_passable {n : Nat} {place : Nat × Nat} : (rec.stored n place).cond.passable = false := by
  unfold SheetRecord.stored
  dsimp only
  split
  · rfl
  · rfl

theorem store_setJob (k : Job) : (s.setJob i k).store i payload =
    ({ s with mem := storeBytes k s.mem k.spooled payload } : State).setJob i (k.received payload.length) := by
  unfold State.store
  rw [State.job_setJob_self, setJob_setJob]
  rfl

/-- A job that has taken the block `b` (R34). -/
def Job.withBlock (j : Job) (b : Nat) : Job := { j with chain := j.chain ++ [b], allocated := j.allocated + 1 }

/-- With no promise of its own region a job takes the head of the shared free queue (R34). -/
theorem allocate_shared {b : Nat} {free : List Nat} {k : Job} (hp : k.promised = 0) (hf : s.sharedFree = b :: free) :
    (s.setJob i k).allocate i = ({ s with sharedFree := free } : State).setJob i
      { k.withBlock b with promisedShared := k.promisedShared - 1 } := by
  have queue : (s.setJob i k).sharedFree = b :: free := hf
  unfold State.allocate
  rw [State.job_setJob_self, if_neg (by omega), queue]
  show State.modJob _ i _ = _
  rw [State.modJob]
  have job : ({ s.setJob i k with sharedFree := free } : State).job i = k := State.job_setJob_self ..
  rw [job]
  exact setJob_setJob { s with sharedFree := free } i k _

/-- A job with a promise of its own region takes the head of its pool's free queue (R34). -/
theorem allocate_own {b : Nat} {free : List Nat} {k : Job} (hp : 0 < k.promised) (hf : (s.pool k.pool).free = b :: free) :
    (s.setJob i k).allocate i = (s.setPool k.pool { s.pool k.pool with free := free }).setJob i
      { k.withBlock b with promised := k.promised - 1 } := by
  unfold State.allocate
  rw [State.job_setJob_self, if_pos hp, State.pool_setJob, hf]
  show State.modJob _ i _ = _
  rw [State.modJob, State.modPool, State.pool_setJob]
  have job : ((s.setJob i k).setPool k.pool { s.pool k.pool with free := free }).job i = k := State.job_setJob_self ..
  rw [job]
  exact setJob_setJob (s.setPool k.pool { s.pool k.pool with free := free }) i k _

/-- A job whose promise is not below its pool's refill mark is not due (R37). -/
theorem not_due (h : max ((s.pool (s.job i).pool).allowance / 2) 1 ≤ (s.job i).promised + (s.job i).promisedShared) :
    s.due i = false := by
  unfold State.due Job.outstanding Pool.refillMark
  rw [decide_eq_false (by omega), Bool.and_false]

variable {u : State} {k : Job} {m : List Host.Cell}

/-- A job without a lane, or of a lane that stays idle, has its payload stored and no more (R21, R35). The job that stores it has taken
its blocks. -/
theorem finish_store (ho : (s.job i).intakeOpen = true) (hr : (s.job i).records = rest ++ [rec]) (ha : rec.cond = .arriving)
    (hk : k = { s.job i with
      expected := k.expected, chain := k.chain, allocated := k.allocated, promised := k.promised, promisedShared := k.promisedShared })
    (hm : storeBytes k u.mem k.spooled payload = m)
    (hu : u.todo = Todo.nothing) (hlanes : ∀ l, u.lane l = s.lane l) (hjobs : ∀ m, m ≠ i → u.job m = s.job m)
    (hready : (u.pool (s.job i).pool).ready = (s.pool (s.job i).pool).ready)
    (h : rec.received + payload.length < rec.length ∨ ((s.job i).state = .queued → (s.pool (s.job i).pool).ready = []) ∧
      ((s.job i).lane = none ∨ ∃ l, s.idleAt i l rest.length)) :
    (((u.setJob i k).store i payload).afterWhole i (rec.received + payload.length = rec.length)).finish =
      (({ u with mem := m } : State).setJob i (k.storing rest rec payload.length k.chain)).settled := by
  have open' : k.intakeOpen = true := by rw [hk]; exact ho
  have records : k.records = rest ++ [rec] := by rw [hk]; exact hr
  rw [store_setJob, received_eq records ha, hm]
  refine finish_afterWhole (s := s) (rest := rest) (rec := rec) hu ho open' ?_ ?_ ?_ ?_ ?_ ?_ hr rfl stored_passable hlanes hjobs hready
    (h.imp (fun h => by omega) id)
  · rw [hk]
    rfl
  · rw [hk]
    rfl
  · rw [hk]
    rfl
  · rw [hk]
    rfl
  · rw [hk]
    rfl
  · rw [hk]
    rfl

/-- An OFFER says nothing of where a sheet's payload stands (R71, R95). -/
theorem withOffer_stored {l : LaneNo} {copy n : Nat} {place : Nat × Nat} :
    s.withOffer l i copy (rec.stored n place) = s.withOffer l i copy rec := rfl

/-- Where the sheet under the send cursor of an idle lane is whole, it is offered (R95, R102). -/
theorem finish_store_of_offer {l : LaneNo} (ho : (s.job i).intakeOpen = true) (hr : (s.job i).records = rest ++ [rec])
    (ha : rec.cond = .arriving) (hk : k = { s.job i with expected := k.expected }) (hm : storeBytes k s.mem k.spooled payload = m)
    (hw : rec.received + payload.length = rec.length) (stands : (s.job i).cursorsStand)
    (keeps : (s.job i).confirm.copy ≠ (s.job i).copies ∨ (s.job i).confirm.pos = 0) (hpos : (s.job i).send.pos = rest.length)
    (may : s.mayOffer l i rec) :
    (((s.begin.setJob i k).store i payload).afterWhole i (rec.received + payload.length = rec.length)).finish =
      (({ s with mem := m, jobs := s.jobs.set i (k.storing rest rec payload.length k.chain) } : State).withOffer l i
        (s.job i).send.copy rec).settled := by
  have records : k.records = rest ++ [rec] := by rw [hk]; exact hr
  have cursors : k.send = (s.job i).send ∧ k.confirm = (s.job i).confirm := by rw [hk]; exact ⟨rfl, rfl⟩
  have same : k.intakeOpen = (s.job i).intakeOpen ∧ k.copies = (s.job i).copies ∧ k.lane = (s.job i).lane ∧
      k.state = (s.job i).state ∧ k.account = (s.job i).account := by
    rw [hk]
    exact ⟨rfl, rfl, rfl, rfl, rfl⟩
  have bytes : storeBytes k s.begin.mem k.spooled payload = m := hm
  rw [store_setJob, received_eq records ha, bytes]
  generalize hrec : rec.stored payload.length (k.chain.getD (k.spooled / 4096 - k.released) 0, k.spooled % 4096) = r
  have fields : r = { rec with received := r.received, place := r.place, cond := r.cond } := by rw [← hrec]; rfl
  have spooled : r.cond = .spooled := by rw [← hrec]; exact if_pos hw
  generalize hn : k.storing rest rec payload.length k.chain = n
  have new : n = { k with spooled := n.spooled, records := rest ++ [r] } := by rw [← hn, ← hrec]; rfl
  have job : (({ s.begin with mem := m } : State).setJob i n).job i = n := State.job_setJob_self ..
  have offered := finish_afterWhole_of_offer (s := s) (t := { s.begin with mem := m }) (k := n) (rest := rest) (rec := rec) (r := r) (l := l)
    hw rfl ho (by rw [new]; exact same.1.trans ho) (by rw [new]; exact same.2.1) (by rw [new]; exact cursors.1)
    (by rw [new]; exact cursors.2) hr (by rw [new]) spooled stands keeps hpos
    (mayOffer_congr may rfl (by rw [job, new]; exact same.2.2) rfl ⟨rfl, rfl⟩ fields)
  have copy : n.send.copy = (s.job i).send.copy := by rw [new]; exact congrArg Cursor.copy cursors.1
  rw [offered, copy, ← hrec]
  rfl

/-- A frame for which the job takes one block, after which it is not due for credit (R21, R34, R35, R37). -/
theorem finish_takeData_of_one {v : State} (hv : v.allocate i = u.setJob i k) (hj : (v.job i).spooled = (s.job i).spooled ∧
      (v.job i).allocated = (s.job i).allocated) (ho : (s.job i).intakeOpen = true) (hr : (s.job i).records = rest ++ [rec])
    (ha : rec.cond = .arriving)
    (hk : k = { s.job i with
      expected := k.expected, chain := k.chain, allocated := k.allocated, promised := k.promised, promisedShared := k.promisedShared })
    (hm : storeBytes k u.mem k.spooled payload = m)
    (hu : u.todo = Todo.nothing) (hlanes : ∀ l, u.lane l = s.lane l) (hjobs : ∀ m, m ≠ i → u.job m = s.job m)
    (hpool : (u.pool (s.job i).pool).ready = (s.pool (s.job i).pool).ready ∧
      (u.pool (s.job i).pool).allowance = (s.pool (s.job i).pool).allowance) (hw : u.waitList = [])
    (hone : 4096 * (s.job i).allocated < (s.job i).spooled + payload.length)
    (hmax : (s.job i).spooled + payload.length ≤ 4096 * ((s.job i).allocated + 1))
    (hmark : max ((s.pool (s.job i).pool).allowance / 2) 1 ≤ k.promised + k.promisedShared)
    (h : rec.received + payload.length < rec.length ∨ ((s.job i).state = .queued → (s.pool (s.job i).pool).ready = []) ∧
      ((s.job i).lane = none ∨ ∃ l, s.idleAt i l rest.length)) :
    (v.takeData i rec payload).finish =
      (({ u with mem := m } : State).setJob i (k.storing rest rec payload.length k.chain)).settled := by
  have pool : (k.received payload.length).pool = (s.job i).pool := by
    rw [hk]
    rfl
  rw [takeData_of_one (by rw [hj.1, hj.2]; exact hone) (by rw [hj.1, hj.2]; exact hmax), hv]
  · exact finish_store ho hr ha hk hm hu hlanes hjobs hpool.1 h
  · rw [hv, store_setJob]
    refine not_due ?_
    rw [State.job_setJob_self, State.pool_setJob, pool]
    exact Nat.le_trans (Nat.le_of_eq (congrArg (fun n => max (n / 2) 1) hpool.2)) hmark
  · rw [hv, store_setJob]
    exact hw

end

/-- Settles O47. -/
theorem dataIsStoredOrDamagesTheSheet : Obligations.DataIsStoredOrDamagesTheSheet := by
  intro s tag seq payload i hr hq run j p passed
  have exec := exec_data_of_reached (payload := payload) hr hq
  have job : (s.begin.setJob i passed).job i = passed := State.job_setJob_self ..
  refine ⟨fun hn => ?none, fun he => ?empty, fun rest rec hrec ha hp => ?payload⟩
  case none =>
    refine exec.trans (congrArg Host.Outcome.next ?_)
    rw [sheetData_of_none (by rw [State.job_setJob_self]; exact hn)]
    exact finish_nothing _ rfl
  case empty =>
    subst he
    refine exec.trans (congrArg Host.Outcome.next ?_)
    rw [sheetData_of_empty]
    exact finish_nothing _ rfl
  case payload =>
    intro keeps long overrun ends stored filled
    obtain ⟨tooLong, beyond, taken⟩ := sheetData_of_some (s := s.begin.setJob i passed) (payload := payload) (by rw [job]; exact hrec) ha hp
    refine ⟨fun hl => ⟨fun h => ?long, fun h hg => ?overrun⟩, fun hl he hs hc hw hres => ?passes, fun h hg hwhole => ?fits,
      fun l hwhole hg halloc stands hkeeps hpos hmay => ?offers⟩
    case long =>
      exact exec.trans (congrArg Host.Outcome.next ((congrArg State.finish ((tooLong h))).trans
        (finish_sheetData_of_damage (s := s) (damage_of_past hr.2.2 hrec ha hl .length) rfl).1))
    case overrun =>
      exact exec.trans (congrArg Host.Outcome.next ((congrArg State.finish ((beyond h (by rw [job]; exact hg)))).trans
        (finish_sheetData_of_damage (s := s) (damage_of_past hr.2.2 hrec ha hl .overrun) rfl).2))
    case passes =>
      intro freed
      have list : j.records = [rec] := by
        rw [hrec, he]
        rfl
      refine ⟨fun h => ?_, fun h hg => ?_⟩
      · exact exec.trans (congrArg Host.Outcome.next ((congrArg State.finish ((tooLong h))).trans
          (finish_sheetData_of_damage (s := s) (damage_of_passes hr.2.2 list ha hl hs hc rfl hw hres .length) rfl).1))
      · exact exec.trans (congrArg Host.Outcome.next ((congrArg State.finish ((beyond h (by rw [job]; exact hg)))).trans
          (finish_sheetData_of_damage (s := s) (damage_of_passes hr.2.2 list ha hl hs hc rfl hw hres .overrun) rfl).2))
    case fits =>
      have idle : rec.received + payload.length < rec.length ∨ ((s.job i).state = .queued → (s.pool (s.job i).pool).ready = []) ∧
          ((s.job i).lane = none ∨ ∃ l, s.idleAt i l rest.length) :=
        hwhole.imp id fun ⟨hq, hl⟩ => ⟨hq, hl.imp id fun ⟨l, hl, stands, hkeeps, hoff, away⟩ => ⟨l, hl, stands, hkeeps, hoff, away⟩⟩
      refine ⟨fun halloc => ?held, fun b free hone hmax hw hmark => ?one⟩
      case held =>
        have stays := taken h (by rw [job]; exact hg)
        rw [takeData_of_held (by rw [job]; exact halloc)] at stays
        refine exec.trans (congrArg Host.Outcome.next ((congrArg State.finish stays).trans
          (finish_store (s := s) (u := s.begin) (k := passed) hr.2.2 hrec ha rfl (storeBytes_congr (by rfl) (by rfl) _ _) rfl
            (fun _ => rfl) (fun _ _ => rfl) rfl idle)))
      case one =>
        intro grown mem
        have stays := taken h (by rw [job]; exact hg)
        refine ⟨fun hz hf => ?shared, fun hpos hf => ?own⟩
        case shared =>
          have block := allocate_shared (s := s.begin) (i := i) (k := passed) hz hf
          have left : j.promised + j.promisedShared - 1 = j.promised + (j.promisedShared - 1) := by omega
          exact exec.trans (congrArg Host.Outcome.next ((congrArg State.finish stays).trans
            (finish_takeData_of_one (s := s) block ⟨by rw [job], by rw [job]⟩ hr.2.2 hrec ha rfl
              (storeBytes_congr (by rfl) (by rfl) _ _) rfl (fun _ => rfl) (fun _ _ => rfl)
              ⟨rfl, rfl⟩ hw hone hmax (Nat.le_trans hmark (Nat.le_of_eq left)) idle)))
        case own =>
          have block := allocate_own (s := s.begin) (i := i) (k := passed) hpos hf
          have left : j.promised + j.promisedShared - 1 = j.promised - 1 + j.promisedShared := by omega
          exact exec.trans (congrArg Host.Outcome.next ((congrArg State.finish stays).trans
            (finish_takeData_of_one (s := s) block ⟨by rw [job], by rw [job]⟩ hr.2.2 hrec ha rfl
              (storeBytes_congr (by rfl) (by rfl) _ _) rfl (fun _ => rfl) (fun _ _ => rfl)
              (by rw [State.pool_setPool_self]; exact ⟨rfl, rfl⟩) hw hone hmax (Nat.le_trans hmark (Nat.le_of_eq left)) idle)))
    case offers =>
      have stays := taken (by omega) (by rw [job]; exact hg)
      rw [takeData_of_held (by rw [job]; exact halloc)] at stays
      have bytes : storeBytes passed s.mem passed.spooled payload = storeBytes j s.mem j.spooled payload :=
        storeBytes_congr (by rfl) (by rfl) _ _
      exact exec.trans (congrArg Host.Outcome.next ((congrArg State.finish stays).trans
        (finish_store_of_offer (k := passed) hr.2.2 hrec ha rfl bytes hwhole stands hkeeps hpos hmay)))

end Sys2Proof.Machine
end

section
/-! PROOF. A dispatch that binds one job (R53, R55, R106), the release of a job from its lane (R56, R68), and the closing of intake by a
CLOSE or a CANCEL frame (R22, R23): settles O48 and O49. -/

namespace Sys2Proof.Machine

/-! ## One binding -/

section
variable {b : State} {l : LaneNo} {i : Slot} {p : PoolNo} {rec : SheetRecord} {rest : List LaneNo}

/-- A pool record whose class has lost a job and whose ready-lane queue is `ready`, as a binding leaves it (R55). -/
def Pool.bound (p : Pool) (k : Fin 4) (i : Slot) (ready : List LaneNo) : Pool :=
  { p with ready := ready, classes := p.classes.set k (p.classes[k].filter (· ≠ i)) }

/-- What a binding sets (R55, R106). -/
theorem boundTo_eq (hp : (b.job i).pool = p) (hl : (b.lane l).current.pool = p) (hr : (b.pool p).ready = l :: rest) (hn : l ∉ rest) :
    b.boundTo l i = (((b.notice (.dispatched i l)).setPool p ((b.pool p).bound (b.job i).prio i rest)).setJob i
      { b.job i with state := .printing, lane := some l }).setLane l
        { b.lane l with state := .bound, job := some i, inflight := [], offer := none, retained := none, timeouts := 0 } := by
  have ready : (l :: rest).filter (· ≠ l) = rest := by
    rw [List.filter_cons_of_neg (by simp)]
    exact List.filter_eq_self.mpr fun m hm => by
      have : m ≠ l := fun e => hn (e ▸ hm)
      simpa using this
  have left : (b.leaveQueue i).leaveReady l = b.setPool p ((b.pool p).bound (b.job i).prio i rest) := by
    rw [leaveReady_eq, leaveQueue_eq, State.lane_setPool, hp, hl, State.pool_setPool_self, setPool_setPool]
    refine congrArg (b.setPool p) ?_
    unfold Pool.bound Pool.without
    dsimp only
    rw [hr, ready]
  unfold State.boundTo
  rw [left, notice_setLane, notice_setJob, notice_setPool]

/-- The first sendable job in queue order (R53, R55). -/
theorem firstSendable_of_split {before after : List Slot} (hq : (b.pool p).queueOrder = before ++ i :: after)
    (hb : ∀ m ∈ before, (b.job m).sendable = false) (hi : (b.job i).sendable = true) : b.firstSendable p = some i := by
  unfold State.firstSendable
  rw [hq, List.find?_append, List.find?_eq_none.mpr fun m hm => by rw [hb m hm]; decide, Option.none_or]
  exact List.find?_cons_of_pos hi

theorem firstSendable_eq_none (h : ∀ m ∈ (b.pool p).queueOrder, (b.job m).sendable = false) : b.firstSendable p = none :=
  List.find?_eq_none.mpr fun m hm => by rw [h m hm]; decide

theorem mem_queueOrder {q : Pool} {m : Slot} : m ∈ q.queueOrder ↔ ∃ k : Fin 4, m ∈ q.classes[k] := by
  unfold Pool.queueOrder
  simp only [List.mem_append]
  constructor
  · rintro (((h | h) | h) | h)
    · exact ⟨3, h⟩
    · exact ⟨2, h⟩
    · exact ⟨1, h⟩
    · exact ⟨0, h⟩
  · rintro ⟨k, h⟩
    match k, h with
    | 0, h => exact .inr h
    | 1, h => exact .inl (.inr h)
    | 2, h => exact .inl (.inl (.inr h))
    | 3, h => exact .inl (.inl (.inl h))

/-- What is left in a pool's job queue once a job has been bound from it. -/
theorem mem_queueOrder_bound {q : Pool} {k : Fin 4} {ready : List LaneNo} {m : Slot} (h : m ∈ (q.bound k i ready).queueOrder) :
    m ∈ q.queueOrder ∧ (m = i → ∃ c, c ≠ k ∧ i ∈ q.classes[c]) := by
  obtain ⟨c, hc⟩ := mem_queueOrder.mp h
  have entry : (q.bound k i ready).classes[c] = if k = c then q.classes[k].filter (· ≠ i) else q.classes[c] := by
    unfold Pool.bound
    simp only [Fin.getElem_fin, Vector.getElem_set, Fin.ext_iff]
  rw [entry] at hc
  split at hc
  · rename_i e
    obtain ⟨hm, hne⟩ := List.mem_filter.mp hc
    refine ⟨mem_queueOrder.mpr ⟨k, hm⟩, fun he => ?_⟩
    rw [he] at hne
    simp at hne
  · rename_i e
    exact ⟨mem_queueOrder.mpr ⟨c, hc⟩, fun he => ⟨c, Ne.symm e, he ▸ hc⟩⟩

/-- The state that a dispatch ends in which binds the job `j` of slot `i` to lane `l`, with the job's next sheet offered (R55, R95,
R106). -/
def State.dispatchedAs (b : State) (j : Job) (l : LaneNo) (i : Slot) (rec : SheetRecord) (rest : List LaneNo) : State :=
  let r := b.lane l
  let a := b.account j.account
  let x := b.scaled rec j.account
  { b.notice (.dispatched i l) with
    jobs := b.jobs.set i { j with state := .printing, lane := some l }
    lanes := b.lanes.set l { r with
      state := .bound, job := some i, inflight := [], retained := none, timeouts := 0, seq := r.seq + 1
      offer := some ⟨j.send.copy, rec.number, r.seq, j.account, x, estimateOf x⟩
      answer := some (r.current.answer * 1000) }
    pools := b.pools.set j.pool ((b.pool j.pool).bound j.prio i rest)
    accounts := b.accounts.set j.account { a with pending := a.pending + estimateOf x }
    sent := b.sent ++ [Sent.link l (LinkFrame.offer r.seq i j.send.copy rec.number rec.cls rec.sides rec.length
      ((rec.length + (r.cap.chunk - 1)) / r.cap.chunk)).bytes] }

/-- The state that a dispatch ends in which binds the job of slot `i` to lane `l`. -/
def State.dispatchedTo (b : State) (l : LaneNo) (i : Slot) (rec : SheetRecord) (rest : List LaneNo) : State :=
  b.dispatchedAs (b.job i) l i rec rest

/-- The offer of a lane that has just been bound (R93, R95, R106). -/
theorem sendOffer_boundTo (hp : (b.job i).pool = p) (hl : (b.lane l).current.pool = p) (hr : (b.pool p).ready = l :: rest)
    (hn : l ∉ rest) : (b.boundTo l i).sendOffer l i rec = b.dispatchedTo l i rec rest := by
  have lane := State.boundTo_lane b l i
  have job := State.boundTo_job b l i
  have worth := State.boundTo_scaled b l i rec (b.job i).account
  have account := State.boundTo_account b l i (b.job i).account
  rw [sendOffer_of_empty _ _ _ _ (by rw [lane]) (by rw [lane]), lane, job]
  dsimp only
  rw [worth, State.raisePending, State.modAccount, account, boundTo_eq hp hl hr hn]
  subst hp
  obtain ⟨ns, drops, h⟩ := exists_notice_eq b (.dispatched i l)
  unfold State.dispatchedTo State.dispatchedAs
  dsimp only
  rw [h]
  unfold State.setLane State.setAccount State.transmit State.setJob State.setPool State.atNotices
  dsimp only
  rw [Vector.set_set]
  rfl

/-- A dispatch opportunity that finds one lane for one job ends with that job bound and its first sheet offered. -/
theorem finish_of_one_dispatch {before after : List Slot} (ht : b.todo = { Todo.nothing with pools := [p] }) (hp : (b.job i).pool = p)
    (hl : (b.lane l).current.pool = p) (hr : (b.pool p).ready = l :: rest) (hn : l ∉ rest)
    (hq : (b.pool p).queueOrder = before ++ i :: after) (hb : ∀ m ∈ before, (b.job m).sendable = false)
    (hlast : rest = [] ∨ (∀ m ∈ after, m ≠ i → (b.job m).sendable = false) ∧ ∀ c, i ∈ (b.pool p).classes[c] → c = (b.job i).prio)
    (hrec : (b.job i).recordAt (b.job i).send = some rec) (hsp : rec.cond = .spooled)
    (hc : (b.job i).cursorMove (b.job i).confirm = none ∨ (b.job i).confirm.behind (b.job i).send = false)
    (hk : (b.job i).confirm.copy ≠ (b.job i).copies ∨ (b.job i).confirm.pos = 0) (hre : (b.lane l).reoffer = none)
    (ha : (b.lane l).abort = false) (hd : 0 < (b.lane l).cap.depth) (htakes : (b.lane l).cap.takes rec = true)
    (hf : (b.account (b.job i).account).covers (estimateOf (b.scaled rec (b.job i).account)) = true) :
    b.finish = (b.dispatchedTo l i rec rest).settled := by
  have sendable := sendable_of_spooled _ rec hrec hsp
  have records : (b.job i).records ≠ [] := by
    intro h
    rw [Job.recordAt, h] at hrec
    cases hrec
  have bound : b.bindJob l i = b.dispatchedTo l i rec rest := by
    rw [bindJob_of_still _ _ _ (cursorMove_of_spooled _ _ rec hrec hsp) hc (hasPassed_of_keeps hk) records,
      offerStep_boundTo _ _ _ rec hrec hsp ha hre hd htakes hf, sendOffer_boundTo hp hl hr hn]
  have pool : (b.dispatchedTo l i rec rest).pool p = (b.pool p).bound (b.job i).prio i rest := by
    subst hp
    exact State.pool_setPool_self (s := b) (b.job i).pool _
  have jobs : ∀ m, m ≠ i → (b.dispatchedTo l i rec rest).job m = b.job m := fun m hm =>
    (State.job_setJob b i m _).trans (if_neg (Ne.symm hm))
  have last : ((b.bindJob l i).pool p).ready = [] ∨ (b.bindJob l i).firstSendable p = none := by
    rw [bound]
    rcases hlast with rfl | ⟨hafter, hclass⟩
    · left
      rw [pool]
      rfl
    · right
      refine firstSendable_eq_none fun m hm => ?_
      rw [pool] at hm
      obtain ⟨hm, hi⟩ := mem_queueOrder_bound hm
      have other : m ≠ i := fun e => by
        obtain ⟨c, hc, h⟩ := hi e
        exact hc (hclass c h)
      rw [jobs m other]
      rw [hq, List.mem_append, List.mem_cons] at hm
      rcases hm with hm | hm | hm
      · exact hb m hm
      · exact absurd hm other
      · exact hafter m hm other
  have length : (b.pool p).queueOrder.length = before.length + after.length + 1 := by
    rw [hq, List.length_append, List.length_cons]
    omega
  have dispatched : b.dispatchNoted = (b.dispatchedTo l i rec rest).settled := by
    unfold State.dispatchNoted
    rw [ht]
    dsimp only
    rw [List.foldl_cons, List.foldl_nil, length,
      dispatchPool_one b p l i _ (by rw [hr]; rfl) (firstSendable_of_split hq hb sendable) last, bound]
    have todo : (b.dispatchedTo l i rec rest).todo = b.todo := State.notice_todo ..
    rw [todo, ht]
    rfl
  rw [finish_of_dispatched b (by rw [dispatched]; rfl), dispatched]

end

/-! ## The closing of intake -/

section
variable {s : State} {i : Slot} {l : LaneNo}

/-- The state once the intake of a job has closed and its promise has been returned, where no other job waits (R22, R41). -/
def State.shut (s : State) (i : Slot) : State := { s.setJob i (s.job i).closed with waitList := [] }

theorem shut_setJob (k : Job) : (s.shut i).setJob i k = { s.setJob i k with waitList := [] } := by
  unfold State.shut State.setJob
  dsimp only
  rw [Vector.set_set]

/-- The closing of the intake of a job without a sheet in progress, where no other job waits (R22, R41, R67, R102). -/
theorem closeIntake_eq (hi : (s.job i).inProgress = none) (hw : ∀ k ∈ s.waitList, k = i) : s.closeIntake i =
    (if (s.job i).lane.isSome then (s.shut i).settle i else (s.shut i).testCompletion i).noteSendable i := by
  have returned : (s.modJob i fun j => { j with intakeOpen := false }).returnPromise i = s.shut i := by
    unfold State.returnPromise
    dsimp only
    rw [modJob_modJob, leaveWait_of_alone (by rw [State.modJob_waitList]; exact hw)]
    split
    · exact walk_of_none _ rfl
    · rfl
  have job : (s.shut i).job i = (s.job i).closed := State.job_setJob_self ..
  unfold State.closeIntake
  dsimp only
  rw [damageInProgress_of_none hi, returned, job]
  rfl

/-- A closed job that has sheets left and whose cursors stand, or that has no lane, stays where it is (R22, R90, R102). -/
theorem closeIntake_of_still (hi : (s.job i).inProgress = none) (hw : ∀ k ∈ s.waitList, k = i)
    (hc : (s.job i).closed.completed = false) (hl : (s.job i).lane = none ∨ (s.job i).closed.cursorMove (s.job i).send = none ∧
      ((s.job i).closed.cursorMove (s.job i).confirm = none ∨ (s.job i).confirm.behind (s.job i).send = false) ∧
      ((s.job i).confirm.copy ≠ (s.job i).copies ∨ (s.job i).confirm.pos = 0)) :
    s.closeIntake i = (s.shut i).noteSendable i := by
  have job : (s.shut i).job i = (s.job i).closed := State.job_setJob_self ..
  have tested : (s.shut i).testCompletion i = s.shut i := by
    unfold State.testCompletion
    rw [job, if_neg (by rw [hc]; simp)]
  rw [closeIntake_eq hi hw]
  refine congrArg (fun t : State => t.noteSendable i) ?_
  split
  · rename_i h
    obtain ⟨send, confirm, keeps⟩ := hl.resolve_left (Option.isSome_iff_ne_none.mp h)
    exact settle_of_still _ i (by rw [job]; exact send) (by rw [job]; exact confirm) (by rw [job]; exact hasPassed_of_keeps keeps)
      (by rw [job]; exact hc)
  · exact tested

/-- With intake closed a lane that could offer nothing can offer nothing still (R95). -/
theorem offerable_shut (h : s.offerable l = none) : (s.shut i).offerable l = none :=
  offerable_setJob_eq_none (t := { s with waitList := [] }) (k := (s.job i).closed) rfl (fun _ _ => rfl) rfl (fun _ hr _ => hr) h

theorem noteSendable_offerable (t : State) : (t.noteSendable i).offerable l = t.offerable l := by
  unfold State.noteSendable
  split
  · rfl
  · rfl

theorem noteSendable_job (t : State) (k : Slot) : (t.noteSendable i).job k = t.job k := by
  unfold State.noteSendable
  split
  · rfl
  · rfl

/-- A close that leaves a job's lane with nothing to offer ends with intake closed (R22). -/
theorem finish_close_of_still {t : State} (hc : s.closeIntake i = t.noteSendable i) (hjob : (t.job i).lane = (s.job i).lane)
    (ht : t.todo = Todo.nothing) (hl : (s.job i).lane = none ∨ ∃ l, (s.job i).lane = some l ∧ t.offerable l = none)
    (hq : (t.job i).state = .queued → (t.pool (t.job i).pool).ready = []) :
    ((s.closeIntake i).offerBound i).finish = t.settled := by
  have offers : (t.noteSendable i).offerBound i = t.noteSendable i := by
    rcases hl with hl | ⟨l, hl, hoff⟩
    · exact offerBound_of_unbound _ i (by rw [noteSendable_job, hjob, hl])
    · rw [offerBound_of_bound (by rw [noteSendable_job, hjob, hl])]
      exact offerStep_of_none _ l (by rw [noteSendable_offerable]; exact hoff)
  rw [hc, offers]
  exact finish_noteSendable ht hq

/-! ### A starved lane goes on to the next copy -/

/-- From the end of a copy that is not the final one a cursor goes on to the first sheet of the next, with intake closed (R90). -/
theorem cursorMove_of_copy_end {j : Job} {c : Cursor} (ho : j.intakeOpen = false) (hp : c.pos = j.records.length)
    (hc : c.copy < j.copies) : j.cursorMove c = some ⟨c.copy + 1, 0⟩ := by
  unfold Job.cursorMove
  rw [hp, List.getElem?_eq_none (Nat.le_refl _), ho]
  exact if_pos (by simpa using hc)

/-- Both cursors as the send cursor goes on to the next copy, whose first sheet is SPOOLED (R90, R91). -/
theorem settle_of_copy_end {j : Job} {rec : SheetRecord} (ho : j.intakeOpen = false) (hr : j.records.head? = some rec)
    (hs : rec.cond = .spooled) (hp : j.send.pos = j.records.length) (hc : j.send.copy < j.copies)
    (hconfirm : j.confirm = j.send ∨ j.cursorMove j.confirm = none) :
    j.settleSend.settleConfirm = { j with
      send := ⟨j.send.copy + 1, 0⟩, confirm := if j.confirm = j.send then ⟨j.send.copy + 1, 0⟩ else j.confirm } := by
  obtain ⟨m, hm⟩ := positions_pos j
  have first : ∀ n, j.records[(⟨n, 0⟩ : Cursor).pos]? = some rec := fun n => by
    rw [← hr, List.head?_eq_getElem?]
  have stops : ∀ n, j.cursorMove ⟨n, 0⟩ = none := fun n => cursorMove_of_spooled _ _ rec (first n) hs
  have send : j.settleSend = { j with send := ⟨j.send.copy + 1, 0⟩ } := by
    unfold Job.settleSend
    rw [hm, Job.settleBy, cursorMove_of_copy_end ho hp hc]
    dsimp only
    rw [settleBy_of_none _ _ _ (stops _)]
  rw [send, Job.settleConfirm]
  have confirm : Job.settleBehind { j with send := ⟨j.send.copy + 1, 0⟩ } (Job.positions { j with send := ⟨j.send.copy + 1, 0⟩ }) j.confirm =
      if j.confirm = j.send then ⟨j.send.copy + 1, 0⟩ else j.confirm := by
    have moves : ∀ c : Cursor, Job.cursorMove { j with send := ⟨j.send.copy + 1, 0⟩ } c = j.cursorMove c := fun _ => rfl
    have positions : Job.positions { j with send := ⟨j.send.copy + 1, 0⟩ } = m + 1 := hm
    split
    · rename_i e
      have behind : Cursor.behind j.confirm ⟨j.send.copy + 1, 0⟩ = true := by
        rw [e]
        simp [Cursor.behind]
      rw [positions, Job.settleBehind, if_pos behind, moves, e, cursorMove_of_copy_end ho hp hc]
      exact settleBehind_of_none _ _ _ (stops _)
    · rename_i e
      exact settleBehind_of_none _ _ _ (hconfirm.resolve_left e)
  exact congrArg (fun c => ({ j with send := ⟨j.send.copy + 1, 0⟩, confirm := c } : Job)) confirm

/-- A job whose intake closes as its send cursor stands at the end of a copy that is not the final one goes on to the next (R90, R102). -/
theorem closeIntake_of_copy_end {rec : SheetRecord} (hi : (s.job i).inProgress = none) (hw : ∀ k ∈ s.waitList, k = i)
    (hl : (s.job i).lane ≠ none) (hn : (s.job i).state ≠ .queued) (hr : (s.job i).records.head? = some rec) (hs : rec.cond = .spooled)
    (hp : (s.job i).send.pos = (s.job i).records.length) (hc : (s.job i).send.copy < (s.job i).copies)
    (hconfirm : (s.job i).confirm = (s.job i).send ∨ (s.job i).closed.cursorMove (s.job i).confirm = none ∧
      ((s.job i).confirm.copy ≠ (s.job i).copies ∨ (s.job i).confirm.pos = 0)) :
    s.closeIntake i = { s.setJob i { (s.job i).closed with
      send := ⟨(s.job i).send.copy + 1, 0⟩
      confirm := if (s.job i).confirm = (s.job i).send then ⟨(s.job i).send.copy + 1, 0⟩ else (s.job i).confirm } with waitList := [] } := by
  have job : (s.shut i).job i = (s.job i).closed := State.job_setJob_self ..
  have settled : (s.job i).closed.settleSend.settleConfirm = { (s.job i).closed with
      send := ⟨(s.job i).send.copy + 1, 0⟩
      confirm := if (s.job i).confirm = (s.job i).send then ⟨(s.job i).send.copy + 1, 0⟩ else (s.job i).confirm } :=
    settle_of_copy_end (j := (s.job i).closed) rfl hr hs hp hc (hconfirm.imp id fun h => h.1)
  generalize hk : ({ (s.job i).closed with
    send := ⟨(s.job i).send.copy + 1, 0⟩
    confirm := if (s.job i).confirm = (s.job i).send then ⟨(s.job i).send.copy + 1, 0⟩ else (s.job i).confirm } : Job) = k at settled ⊢
  have modified : (s.shut i).modJob i (fun j => j.settleSend.settleConfirm) = { s.setJob i k with waitList := [] } := by
    rw [State.modJob, job, settled]
    exact shut_setJob k
  have job' : ({ s.setJob i k with waitList := [] } : State).job i = k := State.job_setJob_self ..
  have passed : k.hasPassed = false := by
    rw [← hk]
    refine hasPassed_of_keeps ?_
    dsimp only
    split
    · exact .inr rfl
    · rename_i e
      exact (hconfirm.resolve_left e).2
  have records : k.records ≠ [] := by
    rw [← hk]
    intro e
    rw [show (s.job i).records = [] from e] at hr
    cases hr
  have state : k.state = (s.job i).state := by rw [← hk]; rfl
  rw [closeIntake_eq hi hw, if_pos (Option.isSome_iff_ne_none.mpr hl), State.settle, modified,
    releasePass_of_not_passed (by rw [job']; exact passed), State.testCompletion, job',
    if_neg (by rw [completed_of_records k records passed]; simp), State.noteSendable, job', if_neg (by rw [state]; exact hn)]

/-! ### Release -/

/-- Settling leaves the cursors of an empty list at position 0 (R90, R91). -/
theorem settleBy_of_empty {j : Job} (hr : j.records = []) (n : Nat) : ∀ {c : Cursor}, c.pos = 0 → (j.settleBy n c).pos = 0 := by
  induction n with
  | zero => exact fun h => h
  | succ n ih =>
    intro c h
    rw [Job.settleBy]
    cases hm : j.cursorMove c with
    | none => exact h
    | some d =>
      refine ih ?_
      unfold Job.cursorMove at hm
      rw [hr, List.getElem?_nil] at hm
      dsimp only at hm
      split at hm
      · cases hm
        rfl
      · cases hm

theorem settleBehind_of_empty {j : Job} (hr : j.records = []) (n : Nat) : ∀ {c : Cursor}, c.pos = 0 → (j.settleBehind n c).pos = 0 := by
  induction n with
  | zero => exact fun h => h
  | succ n ih =>
    intro c h
    rw [Job.settleBehind]
    split
    · cases hm : j.cursorMove c with
      | none => exact h
      | some d =>
        refine ih ?_
        unfold Job.cursorMove at hm
        rw [hr, List.getElem?_nil] at hm
        dsimp only at hm
        split at hm
        · cases hm
          rfl
        · cases hm
    · exact h

/-- A job without a lane whose intake closes on an empty list is released as done (R22, R67, R68). -/
theorem close_releases_unbound {b : State} {j : Job} (hl : j.lane = none) (hs : j.state = .queued ∨ j.state = .held) (hr : j.records = [])
    (hh : j.pendingHold = none) (hc : j.pendingCancel = none) (hw : ∀ k ∈ b.waitList, k = i) (hp : ∀ p, (b.pool p).reserved = false)
    (hstate : j.state = (b.job i).state) (hpool : j.pool = (b.job i).pool) (hprio : j.prio = (b.job i).prio)
    (hchain : j.chain = (b.job i).chain) :
    ∃ t, (((b.begin.setJob i j).closeIntake i).offerBound i).finish = t ∧ Released b t i (j.farewell i false) := by
  have job : (b.begin.setJob i j).job i = j := State.job_setJob_self ..
  have shut : (b.begin.setJob i j).shut i = b.atJob i j.closed [] Todo.nothing := by
    unfold State.shut State.atJob
    rw [job, setJob_setJob]
    rfl
  have job' : (b.atJob i j.closed [] Todo.nothing).job i = j.closed := State.job_setJob_self ..
  have completed : j.closed.completed = true := by
    unfold Job.completed Job.closed
    rw [hr]
    rcases hs with hs | hs
    · rw [hs]
      rfl
    · rw [hs]
      rfl
  have idle : (b.atJob i j.closed [] Todo.nothing).sheetsInFlight i = false := by
    unfold State.sheetsInFlight
    rw [job', show j.closed.lane = none from hl]
  have released := releaseJob_of_unbound (s := b.atJob i j.closed [] Todo.nothing) (i := i) (by rw [job']; exact hl) hp (by simp [State.atJob])
    false
  rw [job', show j.closed.pendingCancel = none from hc, show j.closed.pendingHold = none from hh, completeOpt_none, completeOpt_none] at released
  have closes := closeIntake_eq (s := b.begin.setJob i j) (i := i) (by
    rw [job]
    unfold Job.inProgress
    rw [hr]
    rfl) hw
  rw [job, hl, if_neg (by simp), shut, State.testCompletion, job', if_pos (by rw [completed, idle]; rfl), released] at closes
  generalize ht : (((b.atJob i j.closed [] Todo.nothing).notice (j.closed.farewell i false)).unqueue i).vacate i j.closed.chain = t at closes
  have vacant : t.job i = Job.vacant := by
    rw [← ht]
    exact State.job_setJob_self ..
  have quiet : t.todo = Todo.nothing := by
    rw [← ht]
    obtain ⟨ps, hps⟩ := exists_unqueue_eq (s := (b.atJob i j.closed [] Todo.nothing).notice (j.closed.farewell i false)) (i := i)
    rw [hps]
    exact State.notice_todo ..
  rw [closes, State.noteSendable, vacant, if_neg (by decide), offerBound_of_unbound _ _ (by rw [vacant]; rfl), finish_nothing _ quiet]
  refine ⟨_, rfl, ?_⟩
  rw [← ht, show j.closed.chain = (b.job i).chain from hchain]
  exact released_vacate (d' := Todo.nothing) hstate hpool hprio

/-- Leaving a lane changes no reservation. -/
theorem reserved_waitsAs (t : State) (r : Lane) (p : PoolNo) : ((t.waitsAs l r).pool p).reserved = (t.pool p).reserved := by
  unfold State.waitsAs
  split
  · rw [State.pool_noteDispatch, State.pool_setPool, State.pool_setLane]
    split
    · rename_i h
      rw [h]
      rfl
    · rfl
  · rw [State.pool_setLane]

theorem waitList_waitsAs (t : State) (r : Lane) : (t.waitsAs l r).waitList = t.waitList := by
  rw [waitsAs_eq]

/-- The release of a job from a BOUND lane where no set is held (R45, R56, R68), where no pool has a reservation and no other job
waits. -/
theorem releaseJob_of_bound {t : State} (hl : (t.job i).lane = some l) (hq : (t.job i).state ≠ .queued) (hb : (t.lane l).state = .bound)
    (hs : (t.lane l).pendingSet = none) (hp : ∀ p, (t.pool p).reserved = false) (hw : ∀ k ∈ t.waitList, k = i) (c : Bool) :
    t.releaseJob i c =
      (((((((t.notice ((t.job i).farewell i c)).setJob i { t.job i with lane := none }).waitsAs l
        { t.lane l with job := none, reoffer := none, retained := none }).vacate i (t.job i).chain).completeOpt
          (t.job i).pendingCancel .done 0 0).completeOpt (t.job i).pendingHold .state 0 0)) := by
  have left := leaveLane_of_bound (s := t.notice ((t.job i).farewell i c)) (i := i) (l := l) (by rw [State.job_notice]; exact hl)
    (by rw [State.lane_notice]; exact hb) (by rw [State.lane_notice]; exact hs)
  rw [State.job_notice, State.lane_notice] at left
  unfold State.releaseJob
  dsimp only
  rw [← Job.farewell, if_neg hq, left,
    freeBlocks_of_unreserved _ (fun p => by rw [reserved_waitsAs, State.pool_setJob, State.pool_notice]; exact hp p),
    leaveWait_of_alone (by
      show ∀ k ∈ State.waitList (State.waitsAs _ _ _), _
      rw [waitList_waitsAs, State.setJob_waitList, State.notice_waitList]
      exact hw)]
  exact walk_of_none _ (by simp [State.forgetSlot])

/-- A lane's job, with nothing left to deliver, is released, and the lane waits for work where no job does (R56, R68). -/
theorem finish_release_from_lane {b : State} {j : Job} {w : List Slot} (hl : j.lane = some l) (hq : j.state ≠ .queued)
    (hh : j.pendingHold = none) (hc : j.pendingCancel = none) (hchain : j.chain = (b.job i).chain) (hb : (b.lane l).state = .bound)
    (hs : (b.lane l).pendingSet = none) (he : (b.lane l).current.enable = true) (hp : ∀ p, (b.pool p).reserved = false)
    (hw : ∀ k ∈ w, k = i) (hn : ∀ p, (b.pool p).queueOrder = []) (c : Bool) {t : State}
    (ht : (b.atJob i j w Todo.nothing).releaseJob i c = t) :
    t.job i = Job.vacant ∧ ReleasedFromLane b t.finish i l (j.farewell i c) := by
  have job : (b.atJob i j w Todo.nothing).job i = j := State.job_setJob_self ..
  have lane : (b.atJob i j w Todo.nothing).lane l = b.lane l := rfl
  have released := releaseJob_of_bound (t := b.atJob i j w Todo.nothing) (i := i) (l := l) (by rw [job]; exact hl) (by rw [job]; exact hq)
    hb hs hp hw c
  rw [job, lane, hh, hc, completeOpt_none, completeOpt_none, notice_atJob, ht, hchain] at released
  obtain ⟨ns, drops, hnotice⟩ := exists_notice_eq b (j.farewell i c)
  have after : ReleasedFromLane b t.settled i l (j.farewell i c) := by
    refine ⟨?_, fun k => ?_⟩
    · rw [released, hnotice, waitsAs_eq]
      simp only [if_pos he]
      unfold State.vacate State.forgetSlot State.setJob State.atNotices State.atJob State.settled State.setJob
      dsimp only
      rw [Vector.set_set, Vector.set_set]
      rfl
    · rw [released, waitsAs_eq]
      exact cache_vacate _ k
  have quiet : t.finish = t.settled := by
    obtain ⟨ps, hps⟩ := waitsAs_todo (((b.atJob i j w Todo.nothing).atNotices (b.notice (j.farewell i c)).notices
      (b.notice (j.farewell i c)).noticeDrops).setJob i { j with lane := none }) l { b.lane l with job := none, reoffer := none, retained := none }
    have todo : t.todo = { Todo.nothing with pools := ps } := by
      rw [released]
      exact hps
    refine finish_quiet t (fun p _ => .inr ?_) ?_ ?_ ?_
    · rw [queueOrder_congr (q := b.pool p), hn p]
      rw [released]
      exact waitsAs_classes _ _ _ p
    · rw [todo]
      intro a ha
      cases ha
    · rw [todo]
      rfl
    · rw [todo]
      rfl
  refine ⟨?_, quiet ▸ after⟩
  rw [released]
  exact State.job_setJob_self ..

theorem shut_atJob {b : State} {j : Job} : (b.begin.setJob i j).shut i = b.atJob i j.closed [] Todo.nothing := by
  unfold State.shut State.atJob
  rw [State.job_setJob_self, setJob_setJob]
  rfl

/-- A bound job with nothing in flight whose intake closes on an empty list is released as done, and its lane waits for work (R22, R56,
R67, R68). -/
theorem close_releases_bound {b : State} {j : Job} (hl : j.lane = some l) (hr : j.records = []) (hconfirm : j.confirm.pos = 0)
    (hstate : j.state = .printing) (hh : j.pendingHold = none) (hc : j.pendingCancel = none)
    (hchain : j.chain = (b.job i).chain) (hb : (b.lane l).state = .bound) (ho : (b.lane l).offer = none) (hi : (b.lane l).inflight = [])
    (hs : (b.lane l).pendingSet = none) (he : (b.lane l).current.enable = true) (hp : ∀ p, (b.pool p).reserved = false)
    (hw : ∀ k ∈ b.waitList, k = i) (hn : ∀ p, (b.pool p).queueOrder = []) :
    ReleasedFromLane b (((b.begin.setJob i j).closeIntake i).offerBound i).finish i l (j.farewell i false) := by
  have job : (b.begin.setJob i j).job i = j := State.job_setJob_self ..
  have job' : ∀ k, (b.atJob i k [] Todo.nothing).job i = k := fun _ => State.job_setJob_self ..
  have modified : (b.atJob i j.closed [] Todo.nothing).modJob i (fun j => j.settleSend.settleConfirm) =
      b.atJob i j.closed.settleSend.settleConfirm [] Todo.nothing := by
    rw [State.modJob, job']
    unfold State.atJob State.setJob
    dsimp only
    rw [Vector.set_set]
  have closes := closeIntake_eq (s := b.begin.setJob i j) (i := i) (by
    rw [job]
    unfold Job.inProgress
    rw [hr]
    rfl) hw
  rw [job, hl, if_pos Option.isSome_some, shut_atJob, State.settle, modified] at closes
  have send : j.closed.settleSend = { j.closed with send := j.closed.settleSend.send } := rfl
  have confirm : j.closed.settleSend.settleConfirm =
      { j.closed with send := j.closed.settleSend.send, confirm := j.closed.settleSend.settleConfirm.confirm } := rfl
  have pos : j.closed.settleSend.settleConfirm.confirm.pos = 0 := settleBehind_of_empty (j := j.closed.settleSend) hr _ hconfirm
  generalize hk : j.closed.settleSend.settleConfirm = k at closes confirm pos
  have passed : k.hasPassed = false := hasPassed_of_keeps (.inr pos)
  have completed : k.completed = true := by
    rw [confirm]
    unfold Job.completed Job.closed
    dsimp only
    rw [hr, hstate]
    rfl
  have idle : (b.atJob i k [] Todo.nothing).sheetsInFlight i = false := by
    rw [← Bool.not_eq_true, sheetsInFlight_iff (l := l) (by rw [job', confirm]; exact hl)]
    have lane : (b.atJob i k [] Todo.nothing).lane l = b.lane l := rfl
    rw [lane, ho, hi]
    simp
  rw [releasePass_of_not_passed (by rw [job']; exact passed), State.testCompletion, job', if_pos (by rw [completed, idle]; rfl)] at closes
  obtain ⟨vacant, released⟩ := finish_release_from_lane (b := b) (j := k) (w := []) (l := l) (by rw [confirm]; exact hl)
    (by rw [confirm]; exact fun e => by rw [show j.closed.state = .printing from hstate] at e; cases e) (by rw [confirm]; exact hh)
    (by rw [confirm]; exact hc) (by rw [confirm]; exact hchain) hb hs he hp (by simp) hn false rfl
  rw [closes, State.noteSendable, vacant, if_neg (by decide), offerBound_of_unbound _ _ (by rw [vacant]; rfl)]
  rw [confirm] at released
  rw [confirm]
  exact released

end

/-! ## CLOSE -/

theorem exec_close_of_reached {s : State} {tag seq : Word16} {i : Slot} (hr : s.reaches tag i) (hq : seq = (s.job i).expected) :
    exec (.close tag seq) s =
      .next (((s.begin.setJob i { s.job i with expected := seq + 1 }).closeIntake i).offerBound i).finish :=
  exec_of_reached (f := .close tag seq) (handle := fun u i => (u.closeIntake i).offerBound i) (fun _ => rfl) hr hq

section
variable {b : State} {i : Slot} {l : LaneNo} {j : Job}

/-- A dispatch from a state that differs from `b` in the job that it binds, and in what waits and is left to carry out. -/
theorem dispatchedTo_atJob {w : List Slot} {d : Todo} {rec : SheetRecord} {rest : List LaneNo} :
    ((b.atJob i j w d).dispatchedTo l i rec rest).settled = ({ b.dispatchedAs j l i rec rest with waitList := w } : State).settled := by
  have job : (b.atJob i j w d).job i = j := State.job_setJob_self ..
  obtain ⟨ns, drops, h⟩ := exists_notice_eq b (.dispatched i l)
  unfold State.dispatchedTo
  rw [job]
  unfold State.dispatchedAs
  dsimp only
  rw [notice_atJob, h]
  unfold State.atNotices State.atJob State.setJob
  dsimp only
  rw [Vector.set_set]
  rfl

theorem noteSendable_of_queued {t : State} (h : (t.job i).state = .queued) : t.noteSendable i = t.noteDispatch (t.job i).pool := if_pos h

/-- A QUEUED job on a SPOOLED record is bound to the lane at the head of its pool's ready-lane queue as its intake closes (R22, R53 to R55,
R106). -/
theorem close_dispatches {rest : List LaneNo} {rec : SheetRecord} (hl : j.lane = none) (hs : j.state = .queued)
    (hi : j.inProgress = none) (hw : ∀ k ∈ b.waitList, k = i) (hready : (b.pool j.pool).ready = l :: rest) (hn : l ∉ rest)
    (hclass : ∀ c, i ∈ (b.pool j.pool).classes[c] ↔ c = j.prio)
    (hothers : ∀ m ∈ (b.pool j.pool).queueOrder, m ≠ i → (b.job m).sendable = false)
    (hrec : j.recordAt j.send = some rec) (hsp : rec.cond = .spooled)
    (hc : j.closed.cursorMove j.confirm = none ∨ j.confirm.behind j.send = false) (hk : j.confirm.copy ≠ j.copies ∨ j.confirm.pos = 0)
    (hp : (b.lane l).current.pool = j.pool) (hre : (b.lane l).reoffer = none) (ha : (b.lane l).abort = false)
    (hd : 0 < (b.lane l).cap.depth) (htakes : (b.lane l).cap.takes rec = true)
    (hf : (b.account j.account).covers (estimateOf (b.scaled rec j.account)) = true) :
    (((b.begin.setJob i j).closeIntake i).offerBound i).finish =
      ((b.atJob i j.closed [] { Todo.nothing with pools := [j.pool] }).dispatchedTo l i rec rest).settled := by
  have job : (b.begin.setJob i j).job i = j := State.job_setJob_self ..
  have job' : ∀ d, (b.atJob i j.closed [] d).job i = j.closed := fun _ => State.job_setJob_self ..
  have jobs : ∀ d m, m ≠ i → (b.atJob i j.closed [] d).job m = b.job m := fun _ m hm =>
    (State.job_setJob b i m _).trans (if_neg (Ne.symm hm))
  have records : j.records ≠ [] := by
    intro e
    rw [Job.recordAt, e] at hrec
    cases hrec
  have unfinished : j.closed.completed = false := completed_of_records j.closed records (hasPassed_of_keeps hk)
  have closes := closeIntake_of_still (s := b.begin.setJob i j) (i := i) (by rw [job]; exact hi) hw (by rw [job]; exact unfinished)
    (.inl (by rw [job]; exact hl))
  have noted : (b.atJob i j.closed [] Todo.nothing).noteDispatch j.pool = b.atJob i j.closed [] { Todo.nothing with pools := [j.pool] } := rfl
  rw [shut_atJob, noteSendable_of_queued (by rw [job']; exact hs), job', show j.closed.pool = j.pool from rfl, noted] at closes
  rw [closes, offerBound_of_unbound _ _ (by rw [job']; exact hl)]
  have member : i ∈ (b.pool j.pool).queueOrder := mem_queueOrder.mpr ⟨j.prio, (hclass j.prio).mpr rfl⟩
  obtain ⟨before, after, hsplit, hfirst⟩ := List.eq_append_cons_of_mem member
  refine finish_of_one_dispatch (p := j.pool) (before := before) (after := after) rfl (by rw [job']; rfl) hp hready hn hsplit
    (fun m hm => ?_) (.inr ⟨fun m hm hne => ?_, fun c hc => ?_⟩) (by rw [job']; exact hrec) hsp (by rw [job']; exact hc)
    (by rw [job']; exact hk) hre ha hd htakes (by rw [job']; exact hf)
  · have other : m ≠ i := fun e => hfirst (e ▸ hm)
    rw [jobs _ m other]
    exact hothers m (by rw [hsplit]; simp [hm]) other
  · rw [jobs _ m hne]
    exact hothers m (by rw [hsplit]; simp [hm]) hne
  · rw [job']
    exact (hclass c).mp hc

/-- A job with sheets left, without a lane or with a lane that has nothing to offer, stays as it is as its intake closes (R22). -/
theorem close_stays (hi : j.inProgress = none) (hw : ∀ k ∈ b.waitList, k = i) (hrec : j.records ≠ [])
    (hc : j.confirm.copy ≠ j.copies ∨ j.confirm.pos < j.records.length) (hjob : j.state = (b.job i).state ∧ j.records = (b.job i).records ∧
      j.send = (b.job i).send) (hready : j.state = .queued → (b.pool j.pool).ready = [])
    (hl : j.lane = none ∨ ∃ l, j.lane = some l ∧ b.offerable l = none ∧ j.closed.cursorMove j.send = none ∧
      (j.closed.cursorMove j.confirm = none ∨ j.confirm.behind j.send = false) ∧ (j.confirm.copy ≠ j.copies ∨ j.confirm.pos = 0)) :
    (((b.begin.setJob i j).closeIntake i).offerBound i).finish = (b.atJob i j.closed [] Todo.nothing).settled := by
  have job : (b.begin.setJob i j).job i = j := State.job_setJob_self ..
  have job' : (b.atJob i j.closed [] Todo.nothing).job i = j.closed := State.job_setJob_self ..
  have closes := closeIntake_of_still (s := b.begin.setJob i j) (i := i) (by rw [job]; exact hi) hw
    (by rw [job]; exact completed_eq_false (j := j.closed) hrec hc)
    (by rw [job]; exact hl.imp id fun ⟨_, _, _, send, confirm, keeps⟩ => ⟨send, confirm, keeps⟩)
  rw [shut_atJob] at closes
  refine finish_close_of_still closes (by rw [job, job']; rfl) rfl ?_ (by rw [job']; exact hready)
  rw [job]
  exact hl.imp id fun ⟨l, hl, hoff, _⟩ => ⟨l, hl, offerable_setJob_eq_none (s := b) (t := { b.begin with waitList := [] }) (k := j.closed)
    rfl (fun _ _ => rfl) hjob.1 (fun _ hr _ => by
      rw [Job.recordAt, ← hjob.2.1, ← hjob.2.2]
      exact hr) hoff⟩

/-- An offer neither reads nor changes what is left to carry out. -/
theorem withOffer_congr {t u : State} {copy : Nat} {rec : SheetRecord} (h : t.settled = u.settled) :
    (t.withOffer l i copy rec).settled = (u.withOffer l i copy rec).settled := by
  have erased : ∀ v : State, (v.withOffer l i copy rec).settled = (v.settled.withOffer l i copy rec).settled := fun _ => rfl
  rw [erased t, erased u, h]

/-- A job whose send cursor stands at the end of a copy that is not the final one goes on to the next copy as its intake closes, and its
idle lane offers that copy's first sheet (R90, R91, R102). -/
theorem close_goes_on {rec : SheetRecord} (hi : j.inProgress = none) (hw : ∀ k ∈ b.waitList, k = i) (hr : j.records.head? = some rec)
    (hs : rec.cond = .spooled) (hp : j.send.pos = j.records.length) (hc : j.send.copy < j.copies)
    (hconfirm : j.confirm = j.send ∨ j.closed.cursorMove j.confirm = none ∧ (j.confirm.copy ≠ j.copies ∨ j.confirm.pos = 0))
    (hjob : j.lane = (b.job i).lane ∧ j.state = (b.job i).state ∧ j.account = (b.job i).account) (hmay : b.mayOffer l i rec) :
    (((b.begin.setJob i j).closeIntake i).offerBound i).finish = (({ b with
        waitList := [], jobs := b.jobs.set i { j.closed with
          send := ⟨j.send.copy + 1, 0⟩, confirm := if j.confirm = j.send then ⟨j.send.copy + 1, 0⟩ else j.confirm } } : State).withOffer l i
            (j.send.copy + 1) rec).settled := by
  have job : (b.begin.setJob i j).job i = j := State.job_setJob_self ..
  have lane : j.lane = some l := hjob.1.trans hmay.printing.2.1
  have printing : j.state = .printing := hjob.2.1.trans hmay.printing.2.2
  have closes := closeIntake_of_copy_end (s := b.begin.setJob i j) (i := i) (rec := rec) (by rw [job]; exact hi) hw
    (by rw [job, lane]; simp) (by rw [job, printing]; decide) (by rw [job]; exact hr) hs (by rw [job]; exact hp) (by rw [job]; exact hc)
    (by rw [job]; exact hconfirm)
  rw [job, setJob_setJob] at closes
  generalize hk : ({ j.closed with
    send := ⟨j.send.copy + 1, 0⟩, confirm := if j.confirm = j.send then ⟨j.send.copy + 1, 0⟩ else j.confirm } : Job) = k at closes ⊢
  have job' : ({ b.begin.setJob i k with waitList := [] } : State).job i = k := State.job_setJob_self ..
  have same : k.lane = j.lane ∧ k.state = j.state ∧ k.account = j.account ∧ k.send = ⟨j.send.copy + 1, 0⟩ ∧ k.records = j.records := by
    rw [← hk]
    exact ⟨rfl, rfl, rfl, rfl, rfl⟩
  obtain ⟨klane, kstate, kaccount, ksend, krecords⟩ := same
  have may : ({ b.begin.setJob i k with waitList := [] } : State).mayOffer l i rec := mayOffer_congr hmay rfl (by
    rw [job', klane, kstate, kaccount]
    exact hjob) rfl ⟨rfl, rfl⟩ rfl
  have quiet : ({ b.begin.setJob i k with waitList := [] } : State).todo = Todo.nothing := rfl
  have ends : (({ b.begin.setJob i k with waitList := [] } : State).withOffer l i (j.send.copy + 1) rec).settled =
      (({ b with waitList := [], jobs := b.jobs.set i k } : State).withOffer l i (j.send.copy + 1) rec).settled :=
    withOffer_congr rfl
  rw [← ends]
  generalize ({ b.begin.setJob i k with waitList := [] } : State) = v at closes job' may quiet
  have offers := offerStep_of_mayOffer may (by
    rw [job', Job.recordAt, ksend, krecords, ← List.head?_eq_getElem?]
    exact hr) hs
  rw [closes, offerBound_of_bound (by rw [job', klane]; exact lane), offers, job', ksend]
  exact finish_nothing _ quiet

end

/-- Settles O48. -/
theorem closeReturnsThePromise : Obligations.CloseReturnsThePromise := by
  intro s tag seq i hr hq hi hw j closed done
  have run := exec_close_of_reached hr hq
  have job : (s.begin.setJob i { j with expected := seq + 1 }).job i = { j with expected := seq + 1 } := State.job_setJob_self ..
  refine ⟨fun hrec hc hready hl => ?stays, fun hrec hl hs hh hc hp hready => ?unbound,
    fun l hl hrec hsend hconfirm hs hh hc hb ho hin hset he hp hn => ?bound,
    fun l rec hrec hsp hsend hcopy hconfirm hmay => ?next, fun l rest rec hl hs hready hn hclass hothers hrec hsp hconfirm hkeeps => ?dispatch⟩
  case stays =>
    exact run.trans (congrArg Host.Outcome.next (close_stays (b := s) (i := i) (j := { j with expected := seq + 1 }) hi hw hrec hc
      ⟨rfl, rfl, rfl⟩ hready hl))
  case unbound =>
    obtain ⟨t, ht, released⟩ := close_releases_unbound (b := s) (i := i) (j := { j with expected := seq + 1 }) hl hs hrec hh hc hw hp rfl rfl
      rfl rfl
    exact ⟨t, run.trans (congrArg Host.Outcome.next ht), released⟩
  case bound =>
    exact ⟨_, run, close_releases_bound (b := s) (i := i) (l := l) (j := { j with expected := seq + 1 }) hl hrec hconfirm hs hh hc rfl
      hb ho hin hset he hp hw hn⟩
  case next =>
    exact run.trans (congrArg Host.Outcome.next (close_goes_on (b := s) (i := i) (j := { j with expected := seq + 1 }) hi hw hrec hsp hsend
      hcopy hconfirm ⟨rfl, rfl, rfl⟩ hmay))
  case dispatch =>
    intro r a x hp hre ha hd htakes hf
    refine run.trans (congrArg Host.Outcome.next ((close_dispatches (b := s) (i := i) (l := l) (j := { j with expected := seq + 1 }) hl hs hi hw
      hready hn hclass hothers hrec hsp hconfirm hkeeps hp hre ha hd htakes (decide_eq_true hf)).trans ?_))
    exact dispatchedTo_atJob

/-! ## CANCEL -/

section
variable {b : State} {i : Slot} {l : LaneNo} {j : Job}

/-- A cancel of a job with nothing in flight (R60, R68). -/
theorem cancelJob_of_idle {s t : State} (ht : (if (s.job i).intakeOpen then s.closeIntake i else s) = t) (hf : (t.job i).state ≠ .free)
    (hh : (t.job i).pendingHold = none) (hi : t.sheetsInFlight i = false) (directive : Option QueuePtr) :
    s.cancelJob i directive = (t.completeOpt directive .done 0 0).releaseJob i true := by
  have same : t.modJob i (fun j => { j with pendingHold := none }) = t := by
    refine Eq.trans (congrArg (t.setJob i) ?_) (setJob_job t i)
    rw [← hh]
  unfold State.cancelJob
  dsimp only
  rw [ht, if_neg hf, hh, completeOpt_none, if_neg (by rw [same, hi]; decide), same]

theorem exec_cancel_of_reached {s : State} {tag seq : Word16} (hr : s.reaches tag i) (hq : seq = (s.job i).expected) :
    exec (.cancel tag seq) s = .next ((s.begin.setJob i { s.job i with expected := seq + 1 }).cancelJob i none).finish :=
  exec_of_reached (f := .cancel tag seq) (handle := fun u i => u.cancelJob i none) (fun _ => rfl) hr hq

/-- A CANCEL frame releases a QUEUED or HELD job at once (R23, R60, R68). -/
theorem cancel_releases_unbound (ho : j.intakeOpen = true) (hl : j.lane = none) (hs : j.state = .queued ∨ j.state = .held)
    (hi : j.inProgress = none) (hr : j.records ≠ []) (hh : j.pendingHold = none) (hc : j.pendingCancel = none)
    (hf : j.confirm.copy ≠ j.copies ∨ j.confirm.pos < j.records.length) (hw : ∀ k ∈ b.waitList, k = i) (hn : b.noLaneReady)
    (hp : ∀ p, (b.pool p).reserved = false)
    (hjob : j.state = (b.job i).state ∧ j.pool = (b.job i).pool ∧ j.prio = (b.job i).prio ∧ j.chain = (b.job i).chain) :
    Released b ((b.begin.setJob i j).cancelJob i none).finish i (j.farewell i true) := by
  obtain ⟨hstate, hpool, hprio, hchain⟩ := hjob
  have job : (b.begin.setJob i j).job i = j := State.job_setJob_self ..
  have job' : ∀ d, (b.atJob i j.closed [] d).job i = j.closed := fun _ => State.job_setJob_self ..
  have closes := closeIntake_of_still (s := b.begin.setJob i j) (i := i) (by rw [job]; exact hi) hw
    (by rw [job]; exact completed_eq_false (j := j.closed) hr hf) (.inl (by rw [job]; exact hl))
  obtain ⟨ps, hps⟩ : ∃ ps, (b.atJob i j.closed [] Todo.nothing).noteSendable i = b.atJob i j.closed [] { Todo.nothing with pools := ps } := by
    unfold State.noteSendable
    split
    · exact ⟨_, rfl⟩
    · exact ⟨_, rfl⟩
  rw [shut_atJob, hps] at closes
  have released := releaseJob_of_unbound (s := b.atJob i j.closed [] { Todo.nothing with pools := ps }) (i := i) (by rw [job']; exact hl) hp
    (by simp [State.atJob]) true
  rw [job', show j.closed.pendingCancel = none from hc, show j.closed.pendingHold = none from hh, completeOpt_none, completeOpt_none] at released
  have idle : (b.atJob i j.closed [] { Todo.nothing with pools := ps }).sheetsInFlight i = false := by
    unfold State.sheetsInFlight
    rw [job', show j.closed.lane = none from hl]
  have cancelled := cancelJob_of_idle (s := b.begin.setJob i j) (i := i) ((if_pos (by rw [job]; exact ho)).trans closes) (by
    rw [job', show j.closed.state = j.state from rfl]
    rcases hs with hs | hs
    · rw [hs]
      decide
    · rw [hs]
      decide) (by rw [job']; exact hh) idle none
  rw [completeOpt_none, released, show j.closed.chain = (b.job i).chain from hchain] at cancelled
  rw [cancelled]
  obtain ⟨qs, hqs⟩ := exists_unqueue_eq (s := (b.atJob i j.closed [] { Todo.nothing with pools := ps }).notice (j.closed.farewell i true)) (i := i)
  have todo : (((b.atJob i j.closed [] { Todo.nothing with pools := ps }).notice (j.closed.farewell i true)).unqueue i).todo =
      { Todo.nothing with pools := ps } := by
    rw [hqs]
    exact State.notice_todo ..
  have ready : ∀ p, ((((b.atJob i j.closed [] { Todo.nothing with pools := ps }).notice (j.closed.farewell i true)).unqueue i).pool p).ready = [] :=
    fun p => by
      rw [ready_unqueue, State.pool_notice]
      exact hn p
  have ends : (((((b.atJob i j.closed [] { Todo.nothing with pools := ps }).notice (j.closed.farewell i true)).unqueue i).vacate i
      (b.job i).chain)).finish = (((((b.atJob i j.closed [] { Todo.nothing with pools := ps }).notice (j.closed.farewell i true)).unqueue
        i).vacate i (b.job i).chain)).settled := by
    generalize ((b.atJob i j.closed [] { Todo.nothing with pools := ps }).notice (j.closed.farewell i true)).unqueue i = t at todo ready
    have todo' : (t.vacate i (b.job i).chain).todo = { Todo.nothing with pools := ps } := todo
    refine finish_quiet _ (fun p _ => .inl (ready p)) ?_ ?_ ?_
    · rw [todo']
      exact fun _ h => by cases h
    · rw [todo']
      rfl
    · rw [todo']
      rfl
  rw [ends]
  exact released_vacate (d' := Todo.nothing) hstate hpool hprio

/-- A CANCEL frame releases a PRINTING job whose lane is starved at the end of a copy that is not the final one, and the lane waits for
work (R23, R60, R68, R102). -/
theorem cancel_releases_bound {rec : SheetRecord} (ho : j.intakeOpen = true) (hl : j.lane = some l) (hi : j.inProgress = none)
    (hr : j.records.head? = some rec) (hs : rec.cond = .spooled) (hsend : j.send.pos = j.records.length) (hcopy : j.send.copy < j.copies)
    (hconfirm : j.confirm = j.send) (hstate : j.state = .printing) (hh : j.pendingHold = none) (hc : j.pendingCancel = none)
    (hchain : j.chain = (b.job i).chain) (hb : (b.lane l).state = .bound) (hoff : (b.lane l).offer = none) (hin : (b.lane l).inflight = [])
    (hset : (b.lane l).pendingSet = none) (he : (b.lane l).current.enable = true) (hp : ∀ p, (b.pool p).reserved = false)
    (hw : ∀ k ∈ b.waitList, k = i) (hn : ∀ p, (b.pool p).queueOrder = []) :
    ReleasedFromLane b ((b.begin.setJob i j).cancelJob i none).finish i l (j.farewell i true) := by
  have job : (b.begin.setJob i j).job i = j := State.job_setJob_self ..
  have closes := closeIntake_of_copy_end (s := b.begin.setJob i j) (i := i) (rec := rec) (by rw [job]; exact hi) hw
    (by rw [job, hl]; simp) (by rw [job, hstate]; decide) (by rw [job]; exact hr) hs (by rw [job]; exact hsend) (by rw [job]; exact hcopy)
    (.inl (by rw [job]; exact hconfirm))
  rw [job, setJob_setJob] at closes
  generalize hk : ({ j.closed with
    send := ⟨j.send.copy + 1, 0⟩, confirm := if j.confirm = j.send then ⟨j.send.copy + 1, 0⟩ else j.confirm } : Job) = k at closes
  have same : k.lane = j.lane ∧ k.state = j.state ∧ k.pendingHold = j.pendingHold ∧ k.pendingCancel = j.pendingCancel ∧
      k.chain = j.chain ∧ k.farewell i true = j.farewell i true := by
    rw [← hk]
    exact ⟨rfl, rfl, rfl, rfl, rfl, rfl⟩
  obtain ⟨klane, kstate, khold, kcancel, kchain, kfarewell⟩ := same
  have at' : ({ b.begin.setJob i k with waitList := [] } : State) = b.atJob i k [] Todo.nothing := rfl
  have job' : (b.atJob i k [] Todo.nothing).job i = k := State.job_setJob_self ..
  have idle : (b.atJob i k [] Todo.nothing).sheetsInFlight i = false := by
    rw [← Bool.not_eq_true, sheetsInFlight_iff (l := l) (by rw [job', klane]; exact hl)]
    have lane : (b.atJob i k [] Todo.nothing).lane l = b.lane l := rfl
    rw [lane, hoff, hin]
    simp
  rw [at'] at closes
  have cancelled := cancelJob_of_idle (s := b.begin.setJob i j) (i := i) ((if_pos (by rw [job]; exact ho)).trans closes)
    (by rw [job', kstate, hstate]; decide) (by rw [job', khold]; exact hh) idle none
  rw [cancelled, completeOpt_none, ← kfarewell]
  exact (finish_release_from_lane (b := b) (w := []) (by rw [klane]; exact hl) (by rw [kstate, hstate]; decide) (by rw [khold]; exact hh)
    (by rw [kcancel]; exact hc) (by rw [kchain]; exact hchain) hb hset he hp (by simp) hn true rfl).2

/-- A CANCEL frame makes a job with sheets in flight CANCELLING, and its lane sends ABORT (R23, R61, R120). -/
theorem cancelJob_in_flight (ho : j.intakeOpen = true) (hl : j.lane = some l) (hs : j.state = .printing ∨ j.state = .holding)
    (hi : j.inProgress = none) (hr : j.records ≠ []) (hflight : (b.lane l).offer ≠ none ∨ (b.lane l).inflight ≠ [])
    (hsend : j.closed.cursorMove j.send = none) (hconfirm : j.closed.cursorMove j.confirm = none ∨ j.confirm.behind j.send = false)
    (hk : j.confirm.copy ≠ j.copies ∨ j.confirm.pos = 0) (hw : ∀ k ∈ b.waitList, k = i) :
    (b.begin.setJob i j).cancelJob i none =
      ((b.atJob i { j.closed with state := .cancelling, pendingHold := none, pendingCancel := none } [] Todo.nothing).sendAbort
        l).completeOpt j.pendingHold .superseded 0 0 := by
  have job : (b.begin.setJob i j).job i = j := State.job_setJob_self ..
  have job' : (b.atJob i j.closed [] Todo.nothing).job i = j.closed := State.job_setJob_self ..
  have state : j.state ≠ .queued ∧ j.state ≠ .free := by
    rcases hs with hs | hs
    · rw [hs]
      decide
    · rw [hs]
      decide
  have closes := closeIntake_of_still (s := b.begin.setJob i j) (i := i) (by rw [job]; exact hi) hw
    (by rw [job]; exact completed_of_records j.closed hr (hasPassed_of_keeps hk)) (.inr (by rw [job]; exact ⟨hsend, hconfirm, hk⟩))
  rw [shut_atJob, State.noteSendable, job', if_neg (by exact state.1)] at closes
  have cancelled := cancelJob_of_bound (s := b.begin.setJob i j) (i := i) (l := l) ((if_pos (by rw [job]; exact ho)).trans closes)
    (by rw [job']; exact state.2) (by rw [job']; exact hl) hflight none
  have twice : (b.atJob i j.closed [] Todo.nothing).setJob i { j.closed with state := .cancelling, pendingHold := none, pendingCancel := none } =
      b.atJob i { j.closed with state := .cancelling, pendingHold := none, pendingCancel := none } [] Todo.nothing := by
    unfold State.atJob State.setJob
    dsimp only
    rw [Vector.set_set]
  rw [cancelled, job', twice]
  rfl

/-- The ABORT that the lane of a job sends as it becomes CANCELLING (R86, R120). -/
theorem sendAbort_atJob {w : List Slot} {d : Todo} : (b.atJob i j w d).sendAbort l = { b with
    waitList := w, jobs := b.jobs.set i j, todo := d
    lanes := b.lanes.set l { b.lane l with
      abort := true, reoffer := none, timeouts := 0, answer := some ((b.lane l).current.answer * 1000) }
    sent := b.sent ++ [Sent.link l LinkFrame.abort.bytes] } := rfl

end

/-- Settles O49. -/
theorem cancelFrameReleasesTheJob : Obligations.CancelFrameReleasesTheJob := by
  intro s tag seq i hr hq hi hw hrec j run closed cancelled
  have ran := exec_cancel_of_reached hr hq
  refine ⟨fun hl hn hp hs hh hc hf => ?unbound,
    fun l rec hl hhead hsp hsend hcopy hconfirm hs hh hc hb ho hin hset he hp hn => ?bound,
    fun l hl hs hflight hsend hconfirm hk => ?stops⟩
  case unbound =>
    exact ⟨_, ran, cancel_releases_unbound (b := s) (i := i) (j := { j with expected := seq + 1 }) hr.2.2 hl hs hi hrec hh hc hf hw hn hp
      ⟨rfl, rfl, rfl, rfl⟩⟩
  case bound =>
    exact ⟨_, ran, cancel_releases_bound (b := s) (i := i) (l := l) (j := { j with expected := seq + 1 }) hr.2.2 hl hi hhead hsp hsend hcopy
      hconfirm hs hh hc rfl hb ho hin hset he hp hw hn⟩
  case stops =>
    intro u
    have stopped := cancelJob_in_flight (b := s) (i := i) (l := l) (j := { j with expected := seq + 1 }) hr.2.2 hl hs hi hrec hflight hsend
      hconfirm hk hw
    refine ⟨fun hh => ?_, fun p hh hg => ⟨_, ran.trans (congrArg Host.Outcome.next (congrArg State.finish stopped)), ?_⟩⟩
    · refine ran.trans (congrArg Host.Outcome.next ((congrArg State.finish stopped).trans ?_))
      rw [show ({ j with expected := seq + 1 } : Job).pendingHold = none from hh, completeOpt_none]
      exact finish_nothing _ rfl
    · rw [show ({ j with expected := seq + 1 } : Job).pendingHold = some p from hh]
      rw [sendAbort_atJob]
      exact concludes_answer (v := { u with todo := Todo.nothing }) rfl rfl hg p (.superseded, 0, 0)

end Sys2Proof.Machine
end

section
/-! PROOF. What stores to spool memory (R35): settles O50. -/

namespace Sys2Proof.Machine

variable {s : State} {i : Slot} {payload : List Byte}

/-- No operation but the storing of payload writes spool memory. -/
theorem steady_mem (m : List Host.Cell) : Steady fun s => s.mem = m := by
  constructor
  case notice => intro s h n; simpa using h
  case alert => intro s h e; rw [raiseAlert_frame]; exact h
  case relay => intro s h p i; rw [relayHeld_frame]; exact h
  all_goals intros; assumption

/-- What a DATA frame that is taken does to spool memory: nothing, or the storing of its payload in the blocks that its job has for it
(R18 to R21, R35). -/
theorem sheetData_mem : (s.sheetData i payload).mem = s.mem ∨
    let w := State.allocateMany ((s.job i).blocksFor payload.length) s i
    (s.sheetData i payload).mem = storeBytes (w.job i) s.mem (w.job i).spooled payload := by
  have damage : ∀ r, (s.damageInProgress i r).mem = s.mem := fun r => (steady_mem s.mem).damageInProgress rfl i r
  have allocated : (State.allocateMany ((s.job i).blocksFor payload.length) s i).mem = s.mem :=
    (steady_mem s.mem).allocateMany _ rfl i
  unfold State.sheetData
  split
  · exact .inl rfl
  · split
    · exact .inl rfl
    · split
      · exact .inl (damage _)
      · split
        · right
          intro w
          have store := steady_mem (storeBytes (w.job i) s.mem (w.job i).spooled payload)
          have stored : ∀ f : Job → Job, (({ w with mem := storeBytes (w.job i) w.mem (w.job i).spooled payload } : State).modJob i f).mem =
              storeBytes (w.job i) s.mem (w.job i).spooled payload := fun _ => by
            rw [State.modJob_mem]
            exact congrArg (fun m => storeBytes (w.job i) m (w.job i).spooled payload) allocated
          unfold State.takeData
          dsimp only
          split
          · split
            · exact store.noteSendable (store.offerBound (store.settleBound (store.walk (store.joinWait (stored _) i)) i) i) i
            · exact store.noteSendable (store.offerBound (store.settleBound (stored _) i) i) i
          · split
            · exact store.walk (store.joinWait (stored _) i)
            · exact stored _
        · exact .inl (damage _)

/-- A DATA frame is handled as its classification and the sequence check decide (R1, R6, R11). -/
theorem exec_data_eq {tag seq : Word16} {t : State} (h : exec (.data tag seq payload) s = .next t) :
    t.mem = s.mem ∨ t.mem = (s.begin.spoolFrame tag seq fun u i => u.sheetData i payload).mem := by
  have run : exec (.data tag seq payload) s = event s fun t => t.spoolFrame tag seq fun u i => u.sheetData i payload := rfl
  rw [run, event] at h
  cases h
  split
  · exact .inl rfl
  · exact .inr ((steady_mem _).finish rfl)

/-- Classification and the sequence check leave spool memory (R6, R11). -/
theorem classified_mem {tag seq : Word16} {u v : State} {b : Bool} (hc : s.begin.classify tag = (u, some i)) (hs : u.sequence i seq = (v, b)) :
    v.mem = s.mem := by
  have classified := (steady_mem s.mem).classify (s := s.begin) rfl tag
  rw [hc] at classified
  have sequenced := (steady_mem s.mem).sequence (s := u) classified i seq
  rw [hs] at sequenced
  exact sequenced

/-- Settles O50. -/
theorem onlyDataStoresAndOnlyItsBytes : Obligations.OnlyDataStoresAndOnlyItsBytes := by
  refine ⟨fun c s t hc h => ?other, fun tag seq payload s t u v i h hc hs => ?stores, fun tag seq payload s t u h hd => ?dropped,
    fun m a b v hm => ?reads⟩
  case other =>
    obtain ⟨u, hu, kept⟩ := (steady_mem s.mem).exec (s := s) rfl c hc
    cases h.symm.trans hu
    exact kept
  case stores =>
    intro w a ha
    have before := classified_mem hc hs
    have handled : s.begin.spoolFrame tag seq (fun u i => u.sheetData i payload) = v.sheetData i payload := by
      unfold State.spoolFrame
      rw [hc]
      dsimp only
      rw [hs]
    rcases exec_data_eq h with h | h
    · rw [h]
    · rw [h, handled]
      rcases sheetData_mem (s := v) (i := i) (payload := payload) with stays | stored
      · rw [stays, before]
      · rw [stored, before]
        exact read_storeBytes_other _ _ _ _ _ fun d hd e => ha d hd e.symm
  case dropped =>
    have dropped : (s.begin.spoolFrame tag seq fun u i => u.sheetData i payload).mem = s.mem := by
      unfold State.spoolFrame
      rcases hd with hc | ⟨i, v, hc, hs⟩
      · have classified := (steady_mem s.mem).classify (s := s.begin) rfl tag
        rw [hc] at classified ⊢
        exact classified
      · have before := classified_mem hc hs
        rw [hc]
        dsimp only
        rw [hs]
        exact before
    rcases exec_data_eq h with h | h
    · exact h
    · rw [h, dropped]
  case reads =>
    split
    · rename_i e
      rw [e]
      exact Memory.read_write_same hm a v
    · rename_i e
      exact Memory.read_write_other m v e

end Sys2Proof.Machine
end

section
/-! PROOF. The frames that a printer sends, where they only count or set a lane's own record (R70 to R80, R84): settles O57. -/

namespace Sys2Proof.Machine

/-! ## The shapes of a lane's event -/

section
variable {s : State} {l : LaneNo} {effect : State → State}

/-- A lane that has heard a frame with a good CRC (R84). -/
def Lane.heard (r : Lane) : Lane := if r.state = .training then r else { r with silence := some (r.current.silence * 1000) }

theorem hear_eq : s.hear l = s.setLane l (s.lane l).heard := by
  unfold State.hear Lane.heard
  split
  · exact (setLane_lane s l).symm
  · rfl

theorem heard_of_trained {r : Lane} (h : r.state ≠ .training) : r.heard = { r with silence := some (r.current.silence * 1000) } := if_neg h

theorem heard_keeps (r : Lane) : r.heard.ignored = r.ignored ∧ r.heard.state = r.state := by
  unfold Lane.heard
  split
  · exact ⟨rfl, rfl⟩
  · exact ⟨rfl, rfl⟩

/-- A frame that the lane takes (R70, R72, R84). -/
theorem exec_taken {f : Instr} {takes : Lane → Bool} (run : exec f s = receive l s takes effect) (hs : s.resetLow = false)
    (hd : (s.lane l).state ≠ .down) (ht : takes (s.lane l) = true) : exec f s = .next (effect (s.begin.setLane l (s.lane l).heard)).finish := by
  rw [run, receive, if_neg (by rw [hs]; simpa using hd), if_pos ht, hear_eq]
  rfl

/-- A frame that the lane does not take is counted (R72, R80). -/
theorem exec_ignored {f : Instr} {takes : Lane → Bool} (run : exec f s = receive l s takes effect) (hs : s.resetLow = false)
    (hd : (s.lane l).state ≠ .down) (ht : takes (s.lane l) = false) : exec f s = .next
      ({ s with lanes := s.lanes.set l { (s.lane l).heard with ignored := min ((s.lane l).ignored + 1) 4294967295 } } : State).settled := by
  have heard : (s.begin.lane l).heard.ignored = (s.lane l).ignored := (heard_keeps _).1
  rw [run, receive, if_neg (by rw [hs]; simpa using hd), if_neg (by rw [ht]; decide), hear_eq, State.ignoreFrame, State.modLane, State.lane_setLane_self,
    setLane_setLane, heard, finish_nothing _ rfl]
  rfl

theorem event_of_high (hs : s.resetLow = false) : event s effect = .next (effect s.begin).finish := by
  unfold event
  rw [if_neg (by rw [hs]; decide)]

/-- A timer that runs has its effect (Table 4.6). -/
theorem exec_expired {f : Instr} {runs : Lane → Bool} (run : exec f s = expiry l s runs effect) (hs : s.resetLow = false)
    (hr : runs (s.lane l) = true) : exec f s = .next (effect s.begin).finish := by
  rw [run, expiry, event_of_high hs]
  exact congrArg (fun t : State => Host.Outcome.next t.finish) (if_pos hr)

end

/-! ## What each frame of a printer is

One equation for each frame: which lanes take it, and its effect there (Table 4.3). -/

section
variable (s : State) (l : LaneNo) (q : Word16)

/-- The effect of an answer on the outstanding offer of a bound job (R97 to R101). -/
def State.answered (s : State) (l : LaneNo) (effect : State → Slot → Offer → State) : State :=
  match (s.lane l).job, (s.lane l).offer with
  | some i, some o => effect s i o
  | _, _ => s

/-- PROCEED (R97, R98). -/
def State.takeProceed (s : State) (l : LaneNo) (i : Slot) (o : Offer) : State :=
  ((((s.modLane l fun r => r.proceed o).sendChunks l i o).modJob i fun j =>
    { j with send := { j.send with pos := j.send.pos + 1 } }).settle i).offerStep l

/-- WAIT (R99). -/
def State.takeWait (s : State) (l : LaneNo) (i : Slot) (o : Offer) : State :=
  let u := (s.dropOffer l).modLane l fun r => { r with retained := some o.retained }
  if (s.job i).state = .printing then u.modLane l Lane.startReoffer else u.settleHolding i

/-- MEDIA (R100). -/
def State.takeMedia (s : State) (l : LaneNo) (i : Slot) (o : Offer) : State :=
  (((s.dropOffer l).modLane l fun r => { r with retained := some o.retained, state := .mediaWait, reoffer := none }).raiseAlert
    (sheetAlert .media l i (s.job i).account o.copy o.sheet)).settleHolding i

/-- HELLO (R75, R76). -/
def State.takeHello (s : State) (l : LaneNo) (c : Capability) : State :=
  if (s.lane l).state = .training then
    ((s.modLane l fun r => { r with cap := c }).modLane l fun r => { r.startSilence with hail := none }).enterIdle l
  else s.modLane l fun r => { r with cap := c }

theorem exec_status_eq (toner tray door : Bool) : exec (.status l toner tray door) s =
    receive l s (fun r => r.state != .training) fun t => t.takeStatus l ⟨toner, tray, door⟩ := rfl

theorem exec_hello_eq (chunk media : Word16) (duplex : Bool) (depth : Byte) : exec (.hello l chunk media duplex depth) s =
    receive l s (fun r => r.state = .training || r.state = .ready || r.state = .offline) fun t =>
      t.takeHello l (helloCapability chunk media duplex depth) := rfl

theorem exec_proceed_eq : exec (.proceed l q) s = receive l s (Lane.takesAnswer q) fun t => t.answered l fun t i o => t.takeProceed l i o := rfl

theorem exec_wait_eq : exec (.wait l q) s = receive l s (Lane.takesAnswer q) fun t => t.answered l fun t i o => t.takeWait l i o := rfl

theorem exec_media_eq : exec (.media l q) s = receive l s (Lane.takesAnswer q) fun t => t.answered l fun t i o => t.takeMedia l i o := rfl

theorem exec_refuse_eq : exec (.refuse l q) s = receive l s (Lane.takesAnswer q) fun t => t.answered l fun t i o =>
    (t.dropOffer l).refuseSheet l i o.copy o.sheet := rfl

theorem exec_out_eq : exec (.out l q) s = receive l s (fun r => r.state.delivers && r.holds q) fun t =>
    (State.confirmMany (confirmedBy (t.lane l).inflight (some q)) t l).afterOut l := rfl

theorem exec_jam_eq (lastOut : Option Word16) (location : BitVec 4) : exec (.jam l lastOut location) s =
    receive l s (fun r => r.state.delivers) fun t => t.takeJam l lastOut location := rfl

theorem exec_stopped_eq (lastOut : Option Word16) : exec (.stopped l lastOut) s =
    receive l s (fun r => r.state.delivers && r.abort) fun t => t.takeStopped l lastOut := rfl

theorem exec_clear_eq : exec (.clear l) s = receive l s (fun r => r.state = .jammed || r.state = .mediaWait) fun t => t.takeClear l := rfl

theorem exec_kindOrLength_eq : exec (.linkFrameDiscarded l .kindOrLength) s = receive l s (fun _ => false) id := rfl

end

/-! ## STATUS and the frames that are not taken -/

section
variable {s : State} {l : LaneNo}

/-- An alert neither reads nor changes what is left to carry out. -/
theorem raiseAlert_begin (e : AlertEvent) : s.begin.raiseAlert e = (s.raiseAlert e).begin := (begin_raiseAlert s e).symm

/-- The alert that a condition raises as it turns on (R79). -/
def State.alertIf (t : State) (c : Bool) (e : AlertEvent) : State := if c then t.raiseAlert e else t

theorem alertIf_begin (c : Bool) (e : AlertEvent) : s.begin.alertIf c e = (s.alertIf c e).begin := by
  unfold State.alertIf
  split
  · exact raiseAlert_begin e
  · rfl

theorem foldl_alertIf (c : Bool) (k : AlertKind) (e : AlertKind → AlertEvent) (t : State) :
    (if c then [k] else []).foldl (fun t k => t.raiseAlert (e k)) t = t.alertIf c (e k) := by
  unfold State.alertIf
  cases c with
  | true => rfl
  | false => rfl

/-- A STATUS raises an alert for each condition that turns on (R79). -/
theorem takeStatus_eq (old new : Conditions) (ho : (s.lane l).flags = old) : s.takeStatus l new =
    (((s.setLane l { s.lane l with flags := new }).alertIf (!old.tonerLow && new.tonerLow) (laneAlert .tonerLow l (s.boundJob l) none none 0)).alertIf
      (!old.trayLow && new.trayLow) (laneAlert .trayLow l (s.boundJob l) none none 0)).alertIf
        (!old.doorOpen && new.doorOpen) (laneAlert .doorOpen l (s.boundJob l) none none 0) := by
  unfold State.takeStatus risenConditions
  rw [ho, List.foldl_append, List.foldl_append, foldl_alertIf, foldl_alertIf, foldl_alertIf]
  rfl

/-- The alert of a lane names the job bound to it, and its account (Table 9.1). -/
theorem laneAlert_boundJob (k : AlertKind) : laneAlert k l (s.boundJob l) none none 0 =
    ⟨k, some l, (s.lane l).job, (s.lane l).job.map fun i => (s.job i).account, none, none, 0⟩ := by
  unfold laneAlert State.boundJob
  cases (s.lane l).job with
  | none => rfl
  | some i => rfl

/-- A STATUS outside TRAINING replaces the flags and raises the alerts of those that turn on (R79). -/
theorem exec_status (toner tray door : Bool) (hs : s.resetLow = false) (hd : (s.lane l).state ≠ .down) (ht : (s.lane l).state ≠ .training) :
    let e := fun k : AlertKind => (⟨k, some l, (s.lane l).job, (s.lane l).job.map fun i => (s.job i).account, none, none, 0⟩ : AlertEvent)
    exec (.status l toner tray door) s = .next
      (((({ s with lanes := s.lanes.set l { (s.lane l).heard with flags := ⟨toner, tray, door⟩ } } : State).alertIf
        (!(s.lane l).flags.tonerLow && toner) (e .tonerLow)).alertIf (!(s.lane l).flags.trayLow && tray) (e .trayLow)).alertIf
          (!(s.lane l).flags.doorOpen && door) (e .doorOpen)).settled := by
  intro e
  have taken := exec_taken (s := s) (l := l) (exec_status_eq s l toner tray door) hs hd (by simpa using ht)
  rw [taken]
  refine congrArg Host.Outcome.next ?_
  have flags : (s.lane l).heard.flags = (s.lane l).flags := by rw [heard_of_trained ht]
  have job : (s.lane l).heard.job = (s.lane l).job := by rw [heard_of_trained ht]
  generalize (s.lane l).heard = r at flags job
  rw [takeStatus_eq r.flags _ (by rw [State.lane_setLane_self]), State.lane_setLane_self, setLane_setLane,
    laneAlert_boundJob, laneAlert_boundJob, laneAlert_boundJob, State.lane_setLane_self, flags, job]
  have start : s.begin.setLane l { r with flags := ⟨toner, tray, door⟩ } =
      ({ s with lanes := s.lanes.set l { r with flags := ⟨toner, tray, door⟩ } } : State).begin := rfl
  rw [start, alertIf_begin, alertIf_begin, alertIf_begin]
  exact finish_nothing _ rfl

theorem exec_upstreamFrameDiscarded (hs : s.resetLow = false) : exec .upstreamFrameDiscarded s = .next s.settled := by
  have run : exec .upstreamFrameDiscarded s = event s id := rfl
  rw [run, event_of_high hs, finish_nothing _ rfl]
  rfl

theorem takesAnswer_eq_false {r : Lane} {q : Word16} (h : r.state ≠ .bound ∨ r.abort = true ∨ ∀ o, r.offer = some o → o.seq ≠ q) :
    r.takesAnswer q = false := by
  unfold Lane.takesAnswer
  rcases h with h | h | h
  · simp [h]
  · simp [h]
  · have other : (r.offer.map (·.seq) == some q) = false := by
      cases ho : r.offer with
      | none => rfl
      | some o => simpa using h o ho
    rw [other, Bool.and_false]

theorem delivers_iff {x : LaneState} : x.delivers = true ↔ x = .bound ∨ x = .mediaWait := by
  cases x <;> simp [LaneState.delivers]

theorem holds_eq_false {r : Lane} {q : Word16} (h : ∀ e ∈ r.inflight, e.seq ≠ q) : r.holds q = false := by
  unfold Lane.holds
  simpa using h

end

/-- Settles O57. -/
theorem framesNotTakenOnlyCount : Obligations.FramesNotTakenOnlyCount := by
  intro s l hs r heard ignored delivers
  have undelivered : ¬delivers → r.state.delivers = false := fun h => by
    rw [← Bool.not_eq_true, delivers_iff]
    exact h
  refine ⟨exec_upstreamFrameDiscarded hs, fun hd => ?_⟩
  have drops : ∀ {f : Instr} {takes : Lane → Bool} {effect : State → State}, exec f s = receive l s takes effect →
      takes (s.lane l) = false → exec f s = .next ignored := fun run ht => exec_ignored run hs hd ht
  refine ⟨fun toner tray door ht => ?status, fun toner tray door ht => drops (exec_status_eq ..) ?training,
    fun chunk media duplex depth hb => drops (exec_hello_eq ..) ?hello, fun q hq => ?answers, fun q hq => drops (exec_out_eq ..) ?out,
    fun q location hn => drops (exec_jam_eq ..) (undelivered hn), fun q hq => drops (exec_stopped_eq ..) ?stopped,
    fun hj hm => drops (exec_clear_eq ..) ?clear, drops (exec_kindOrLength_eq ..) rfl, ?crc⟩
  case status =>
    intro turned
    refine (exec_status toner tray door hs hd ht).trans (congrArg Host.Outcome.next ?_)
    have turns : ∀ (k : AlertKind) (was now : Bool) (t : State), turned k was now t =
        t.alertIf (!was && now) ⟨k, some l, r.job, r.job.map fun i => (s.job i).account, none, none, 0⟩ := fun k was now t => by
      unfold State.alertIf
      cases was with
      | true => exact if_neg (by simp)
      | false =>
        cases now with
        | true => exact if_pos ⟨rfl, rfl⟩
        | false => exact if_neg (by simp)
    have hears : heard = (s.lane l).heard := rfl
    rw [turns, turns, turns, hears]
  case training =>
    exact (by rw [show (s.lane l).state = .training from ht]; rfl)
  case hello =>
    rcases hb with (hb | hb) | hb
    · rw [show (s.lane l).state = .bound from hb]
      rfl
    · rw [show (s.lane l).state = .mediaWait from hb]
      rfl
    · rw [show (s.lane l).state = .jammed from hb]
      rfl
  case answers =>
    have no : Lane.takesAnswer q (s.lane l) = false := takesAnswer_eq_false hq
    exact ⟨drops (exec_proceed_eq ..) no, drops (exec_wait_eq ..) no, drops (exec_media_eq ..) no, drops (exec_refuse_eq ..) no⟩
  case out =>
    rcases hq with hq | hq
    · rw [undelivered hq, Bool.false_and]
    · rw [holds_eq_false hq, Bool.and_false]
  case stopped =>
    rcases hq with hq | hq
    · rw [undelivered hq, Bool.false_and]
    · rw [show (s.lane l).abort = false from hq, Bool.and_false]
  case clear =>
    rw [decide_eq_false hj, decide_eq_false hm]
    rfl
  case crc =>
    show execLinkFrameDiscarded l .crc s = _
    unfold execLinkFrameDiscarded
    dsimp only
    rw [if_neg (by rw [hs]; simpa using hd), finish_nothing _ rfl]
    rfl

end Sys2Proof.Machine
end

section
/-! PROOF. The carrier and the RESET pin (R78, R179, R180), the timers (R74, R84, R85, R99, R116), the offer step (R77, R93 to R96) and
HELLO (R75, R76): settles O58, O60 and O51. -/

namespace Sys2Proof.Machine

/-! ## Carrier -/

section
variable {s : State} {l : LaneNo}

/-- A lane record with every timer stopped and the carrier input at `level` (R78). -/
def Lane.silenced (r : Lane) (level : Bool) : Lane :=
  { r with carrier := level, hail := none, silence := none, answer := none, reoffer := none, escalation := none }

/-- The events of a carrier input while RESET is high (R78). -/
theorem exec_carrierLost (hs : s.resetLow = false) : exec (.carrierLost l) s =
    .next ((s.begin.setLane l { s.lane l with carrier := false }).loseCarrier l).finish := if_neg (by rw [hs]; decide) |> congrArg Host.Outcome.next

theorem exec_carrierPresent (hs : s.resetLow = false) : exec (.carrierPresent l) s =
    .next (if (s.lane l).state = .down then (s.begin.setLane l { s.lane l with carrier := true }).enterTraining l
      else s.begin.setLane l { s.lane l with carrier := true }).finish := by
  have run : exec (.carrierPresent l) s = carrierEvent l true s fun t => if (t.lane l).state = .down then t.enterTraining l else t := rfl
  rw [run, carrierEvent, if_neg (by rw [hs]; decide), State.modLane]
  dsimp only
  rw [State.lane_setLane_self]
  rfl

theorem goDown_setLane (r : Lane) : (s.setLane l r).goDown l = s.setLane l { r.silenced r.carrier with state := .down } := by
  unfold State.goDown State.modLane
  rw [State.lane_setLane_self, setLane_setLane]
  rfl

/-- Entry to TRAINING (R74, R92). -/
def Lane.training (r : Lane) : Lane :=
  { r.silenced r.carrier with
    state := .training, flags := ⟨false, false, false⟩, offer := none, retained := none, timeouts := 0, abort := false, inflight := []
    hail := some 100 }

theorem enterTraining_setLane (r : Lane) : (s.setLane l r).enterTraining l =
    { s.setLane l r.training with sent := s.sent ++ [Sent.link l (LinkFrame.hail l s.station).bytes] } := by
  unfold State.enterTraining State.modLane
  rw [State.lane_setLane_self, setLane_setLane]
  rfl

theorem leaveReady_setLane (r : Lane) : (s.setLane l r).leaveReady l = (s.setPool r.current.pool { s.pool r.current.pool with
    ready := (s.pool r.current.pool).ready.filter (· ≠ l) }).setLane l r := by
  rw [leaveReady_eq, State.lane_setLane_self, State.pool_setLane]
  rfl

end

/-! ## RESET low -/

section
variable {s : State}

theorem event_of_low (h : s.resetLow = true) (effect : State → State) : event s effect = .next s := congrArg Host.Outcome.next (if_pos h)

theorem takeDirective_of_low (h : s.resetLow = true) (c : Instr) (w : Bool) (effect : QueuePtr → State → State) :
    takeDirective c w s effect = .next s := by
  refine congrArg Host.Outcome.next (if_neg ?_)
  unfold State.takeable
  rw [h]
  simp

theorem receive_of_low (h : s.resetLow = true) (l : LaneNo) (takes : Lane → Bool) (effect : State → State) :
    receive l s takes effect = .next s := congrArg Host.Outcome.next (if_pos (by rw [h]; simp))

/-- While RESET is low no command but those of the pins changes anything (R179, log entry 15). -/
theorem exec_of_low {c : Instr} (h : s.resetLow = true) (hc : ∀ m, c ≠ .carrierLost m ∧ c ≠ .carrierPresent m)
    (hr : ∀ x, c ≠ .resetPinRise x) : exec c s = .next s := by
  cases c with
  | openJob | sheet | data | close | cancel | upstreamFrameDiscarded | managementFrame | noticeSend =>
    simp only [exec, execOpenJob, execSheet, execData, execClose, execCancel, execUpstreamFrameDiscarded, execManagementFrame,
      execNoticeSend, event_of_low h]
  | hailTimerExpiry | silenceTimerExpiry | answerTimeout | abortTimeout | reofferTimerExpiry | escalationTimerExpiry =>
    simp only [exec, execHailTimerExpiry, execSilenceTimerExpiry, execAnswerTimeout, execAbortTimeout, execReofferTimerExpiry,
      execEscalationTimerExpiry, expiry, event_of_low h]
  | hello | proceed | wait | media | refuse | out | jam | stopped | clear | status =>
    simp only [exec, execHello, execProceed, execWait, execMedia, execRefuse, execOut, execJam, execStopped, execClear, execStatus, answer,
      receive_of_low h]
  | linkFrameDiscarded l why =>
    cases why with
    | crc => simp [exec, execLinkFrameDiscarded, h]
    | kindOrLength => simp only [exec, execLinkFrameDiscarded, receive_of_low h]
  | carrierLost m => exact absurd rfl (hc m).1
  | carrierPresent m => exact absurd rfl (hc m).2
  | resetPinLow =>
    have same : ({ s with resetLow := true } : State) = s := by rw [← h]
    exact congrArg Host.Outcome.next same
  | resetPinRise x => exact absurd rfl (hr x)
  | extend | fence | reset | countersRead | unknownDirective =>
    simp only [exec, execExtend, execFence, execReset, execCountersRead, execUnknownDirective, takeDirective_of_low h]
  | rateSet | tierSet | accountOpen | accountClose | accountLimit | accountSwap | accountRead | accountRoll =>
    simp only [exec, execRateSet, execTierSet, execAccountOpen, execAccountClose, execAccountLimit, execAccountSwap, execAccountRead,
      execAccountRoll, takeDirective_of_low h]
  | laneSet | laneRead | poolSet | poolReserve =>
    simp only [exec, execLaneSet, execLaneRead, execPoolSet, execPoolReserve, takeDirective_of_low h]
  | jobRead | jobHold | jobRelease | jobCancel | jobMove | purge =>
    simp only [exec, execJobRead, execJobHold, execJobRelease, execJobCancel, execJobMove, execPurge, takeDirective_of_low h]
  | alertRead | alertAck | alertMask =>
    simp only [exec, execAlertRead, execAlertAck, execAlertMask, takeDirective_of_low h]

end

/-- Settles O58. -/
theorem carrierAndResetPins : Obligations.CarrierAndResetPins := by
  refine ⟨fun s l hs => ?carrier, fun s => rfl, fun s straps k => ⟨rfl, rfl, rfl, ?risen⟩, fun s c k h => ?low⟩
  case carrier =>
    intro r p off
    have lane : ∀ x : Lane, (s.begin.setLane l x).lane l = x := fun _ => State.lane_setLane_self ..
    refine ⟨fun h => ?lost, fun h => ?ready, fun h => ?down, fun h => ?present⟩
    case lost =>
      have goes : (s.begin.setLane l { s.lane l with carrier := false }).loseCarrier l =
          (s.begin.setLane l { s.lane l with carrier := false }).goDown l := by
        unfold State.loseCarrier
        rw [lane]
        rcases h with h | h | h
        · rw [show (s.lane l).state = .training from h]
        · rw [show (s.lane l).state = .offline from h]
        · rw [show (s.lane l).state = .down from h]
      rw [exec_carrierLost hs, goes, goDown_setLane, finish_nothing _ rfl]
      rfl
    case ready =>
      have goes : (s.begin.setLane l { s.lane l with carrier := false }).loseCarrier l =
          ((s.begin.setLane l { s.lane l with carrier := false }).leaveReady l).goDown l := by
        unfold State.loseCarrier
        rw [lane, show (s.lane l).state = .ready from h]
      rw [exec_carrierLost hs, goes, leaveReady_setLane, goDown_setLane, finish_nothing _ rfl]
      rfl
    case down =>
      rw [exec_carrierPresent hs, if_pos h, enterTraining_setLane, finish_nothing _ rfl]
      rfl
    case present =>
      rw [exec_carrierPresent hs, if_neg h, finish_nothing _ rfl]
      rfl
  case risen =>
    exact (startUp_lane ..).trans (congrArg Lane.afterReset (getElem_mapVector ..))
  case low =>
    exact ⟨congrArg Host.Outcome.next (if_pos h), congrArg Host.Outcome.next (if_pos h), exec_of_low h⟩

/-! ## What each expiry is -/

section
variable (s : State) (l : LaneNo)

theorem exec_hailTimerExpiry_eq : exec (.hailTimerExpiry l) s = expiry l s (fun r => r.hail.isSome && r.state = .training) fun t =>
    (t.modLane l fun r => { r with hail := some Config.hailMs }).transmit l (.hail l t.station) := rfl

theorem exec_silenceTimerExpiry_eq : exec (.silenceTimerExpiry l) s = expiry l s (fun r => r.silence.isSome) fun t => t.fallSilent l := rfl

theorem exec_answerTimeout_eq : exec (.answerTimeout l) s = expiry l s (fun r => r.answer.isSome && r.offer.isSome && !r.abort) fun t =>
    if (t.lane l).timeouts + 1 < 3 then (t.modLane l fun r => { r.startAnswer with timeouts := r.timeouts + 1 }).repeatOffer l
    else t.laneLoss l := rfl

theorem exec_abortTimeout_eq : exec (.abortTimeout l) s = expiry l s (fun r => r.answer.isSome && r.abort) fun t => t.laneLoss l := rfl

theorem exec_reofferTimerExpiry_eq : exec (.reofferTimerExpiry l) s = expiry l s (fun r => r.reoffer.isSome) fun t =>
    (t.modLane l fun r => { r with reoffer := none }).offerStep l := rfl

theorem exec_escalationTimerExpiry_eq : exec (.escalationTimerExpiry l) s =
    expiry l s (fun r => r.escalation.isSome && r.state = .jammed) fun t =>
      (t.modLane l fun r => { r with escalation := none }).raiseAlert
        (laneAlert .jamEscalated l ((t.lane l).lastJam.bind (·.job)) none none 0) := rfl

end

/-! ## The offer step -/

section
variable {s : State} {l : LaneNo} {i : Slot} {rec : SheetRecord}

/-- What an offer under sequence `q` sets (R95). -/
def State.offeredAs (s : State) (l : LaneNo) (i : Slot) (rec : SheetRecord) (q next : Word16) : State :=
  let r := s.lane l
  let j := s.job i
  let a := s.account j.account
  let x := s.scaled rec j.account
  { s with
    accounts := s.accounts.set j.account { a with pending := a.pending + estimateOf x }
    lanes := s.lanes.set l { r with
      offer := some ⟨j.send.copy, rec.number, q, j.account, x, estimateOf x⟩, seq := next, timeouts := 0
      answer := some (r.current.answer * 1000) }
    sent := s.sent ++ [Sent.link l (LinkFrame.offer q i j.send.copy rec.number rec.cls rec.sides rec.length
      ((rec.length + (r.cap.chunk - 1)) / r.cap.chunk)).bytes] }

/-- The offer step of a lane that can offer: the offer, or a hold for FUNDS or REFUSED (R77, R95, R96). -/
theorem offerStep_of_offers (h : s.Offers l i rec) :
    ((s.lane l).cap.takes rec = true → (s.account (s.job i).account).covers (estimateOf (s.scaled rec (s.job i).account)) = true →
      ∀ q next, (s.lane l).offerSeq (s.job i).send.copy rec.number = (q, next) → s.offerStep l = s.offeredAs l i rec q next) ∧
    ((s.lane l).cap.takes rec = true → (s.account (s.job i).account).covers (estimateOf (s.scaled rec (s.job i).account)) = false →
      s.offerStep l = (s.raiseAlert (sheetAlert .accountHold l i (s.job i).account (s.job i).send.copy rec.number)).raiseReason i .funds) ∧
    ((s.lane l).cap.takes rec = false → s.offerStep l = s.refuseSheet l i (s.job i).send.copy rec.number) := by
  have can : s.offerable l = some (i, rec) := offerable_eq_some_iff.mpr h
  unfold State.offerStep
  rw [can]
  dsimp only
  refine ⟨fun ht hf q next hq => ?_, fun ht hf => ?_, fun ht => ?_⟩
  · rw [ht, if_neg (by decide), if_pos hf]
    unfold State.sendOffer
    dsimp only
    rw [hq]
    rfl
  · rw [ht, if_neg (by decide), hf, if_neg (by decide)]
  · rw [ht]
    rfl

/-- The retained sequence serves again for the sheet-copy it was given to (R93). -/
theorem offerSeq_of_retained {r : Lane} {copy sheet : Nat} {q : Word16} (h : r.retained = some ⟨copy, sheet, q⟩) :
    r.offerSeq copy sheet = (q, r.seq) := by
  unfold Lane.offerSeq
  rw [h]
  exact if_pos (by simp)

/-- An alert reads of a lane record its alert mask alone (R128). -/
theorem raiseAlert_setLane {r : Lane} (hm : r.current.mask = (s.lane l).current.mask) (e : AlertEvent) :
    (s.setLane l r).raiseAlert e = (s.raiseAlert e).setLane l r := by
  rw [raiseAlert_congr s (s.setLane l r) e ?_ rfl rfl rfl]
  · conv_rhs => rw [raiseAlert_frame]
    rfl
  · intro k
    rw [State.lane_setLane]
    split
    · rename_i h
      rw [← h]
      exact hm
    · rfl

/-- A PRINTING job with entries in flight that is held for a reason becomes HOLDING (R49, R96). -/
theorem hold_in_flight (e : AlertEvent) (x : Reason) (hs : (s.job i).state = .printing) (hl : (s.job i).lane = some l)
    (hi : (s.lane l).inflight ≠ []) : (s.raiseAlert e).raiseReason i x =
      (s.setJob i { s.job i with state := .holding, reasons := (s.job i).reasons.add x }).raiseAlert e := by
  have flight : (s.raiseAlert e).sheetsInFlight i = true := by
    rw [sheetsInFlight_iff (l := l) (by rw [job_raiseAlert]; exact hl)]
    right
    rw [raiseAlert_frame]
    exact hi
  rw [raiseReason_of_printing_out (by rw [job_raiseAlert]; exact hs) flight, job_raiseAlert, raiseAlert_setJob]

theorem settleHolding_of_flight (hl : (s.job i).lane = some l) (hi : (s.lane l).inflight ≠ []) : s.settleHolding i = s := by
  have flight : s.sheetsInFlight i = true := (sheetsInFlight_iff hl).mpr (.inr hi)
  unfold State.settleHolding
  rw [flight, Bool.not_true, Bool.and_false, if_neg (by decide)]

/-- A PRINTING job with entries in flight that refuses a sheet becomes HOLDING (R77, R101). -/
theorem refuseSheet_in_flight (copy sheet : Nat) (hs : (s.job i).state = .printing) (hl : (s.job i).lane = some l)
    (hi : (s.lane l).inflight ≠ []) : s.refuseSheet l i copy sheet =
      ((s.setLane l { s.lane l with retained := none }).setJob i
        { s.job i with state := .holding, reasons := { (s.job i).reasons with refused := true } }).raiseAlert
          (sheetAlert .refused l i (s.job i).account copy sheet) := by
  unfold State.refuseSheet State.modLane
  dsimp only
  generalize hr : ({ s.lane l with retained := none } : Lane) = r
  have flight : ((s.setLane l r).lane l).inflight ≠ [] := by
    rw [State.lane_setLane_self, ← hr]
    exact hi
  rw [hold_in_flight (s := s.setLane l r) (l := l) _ _ hs hl flight, settleHolding_of_flight (l := l)]
  · rfl
  · rw [job_raiseAlert, State.job_setJob_self]
    exact hl
  · rw [raiseAlert_frame]
    exact flight

/-- The repeated OFFER of an outstanding offer (R85). -/
theorem repeatOffer_eq {o : Offer} (hj : (s.lane l).job = some i) (ho : (s.lane l).offer = some o)
    (hr : (s.job i).recordOf o.sheet = some rec) : s.repeatOffer l = s.transmit l (offerFrame (s.lane l) i rec o.seq o.copy) := by
  unfold State.repeatOffer
  rw [hj, ho]
  dsimp only
  rw [hr]

end

section
variable {s : State} {l : LaneNo}

/-- The re-offer timer that runs out is an offer opportunity (R99). -/
theorem exec_reoffer {s : State} (hs : s.resetLow = false) (hr : (s.lane l).reoffer ≠ none) : exec (.reofferTimerExpiry l) s =
    .next (((s.setLane l { s.lane l with reoffer := none }).begin).offerStep l).finish :=
  (exec_expired (exec_reofferTimerExpiry_eq s l) hs (by simpa [Option.isSome_iff_ne_none] using hr)).trans
    (congrArg (fun t : State => Host.Outcome.next (t.offerStep l).finish)
      (rfl : s.begin.modLane l (fun r => { r with reoffer := none }) = (s.setLane l { s.lane l with reoffer := none }).begin))

end

section
variable {s : State} {l : LaneNo} {i : Slot} {rec : SheetRecord} {t : State}

theorem reoffer_offers {q next : Word16} (hs : s.resetLow = false) (hr : (s.lane l).reoffer ≠ none)
    (ht : s.setLane l { s.lane l with reoffer := none } = t) (h : t.Offers l i rec) (takes : (t.lane l).cap.takes rec = true)
    (funded : (t.account (t.job i).account).covers (estimateOf (t.scaled rec (t.job i).account)) = true)
    (hq : (t.lane l).offerSeq (t.job i).send.copy rec.number = (q, next)) :
    exec (.reofferTimerExpiry l) s = .next (t.offeredAs l i rec q next).settled := by
  have step := (offerStep_of_offers (s := t.begin) ⟨h.1, h.2, h.3, h.4, h.5, h.6, h.7, h.8, h.9⟩).1 takes funded q next hq
  rw [exec_reoffer hs hr, ht, step, finish_nothing _ rfl]
  rfl

theorem reoffer_unfunded (hs : s.resetLow = false) (hr : (s.lane l).reoffer ≠ none)
    (ht : s.setLane l { s.lane l with reoffer := none } = t) (h : t.Offers l i rec) (takes : (t.lane l).cap.takes rec = true)
    (funded : (t.account (t.job i).account).covers (estimateOf (t.scaled rec (t.job i).account)) = false)
    (hl : (t.job i).lane = some l) (hi : (t.lane l).inflight ≠ []) :
    exec (.reofferTimerExpiry l) s = .next ((t.setJob i { t.job i with
      state := .holding, reasons := { (t.job i).reasons with funds := true } }).raiseAlert
        (sheetAlert .accountHold l i (t.job i).account (t.job i).send.copy rec.number)).settled := by
  have step := (offerStep_of_offers (s := t.begin) ⟨h.1, h.2, h.3, h.4, h.5, h.6, h.7, h.8, h.9⟩).2.1 takes funded
  rw [exec_reoffer hs hr, ht, step, hold_in_flight (s := t.begin) (l := l) _ _ h.printing hl hi]
  exact congrArg Host.Outcome.next (finish_raiseAlert (t.setJob i _) _)

theorem reoffer_refused (hs : s.resetLow = false) (hr : (s.lane l).reoffer ≠ none)
    (ht : s.setLane l { s.lane l with reoffer := none } = t) (h : t.Offers l i rec) (takes : (t.lane l).cap.takes rec = false)
    (hl : (t.job i).lane = some l) (hi : (t.lane l).inflight ≠ []) :
    exec (.reofferTimerExpiry l) s = .next (((t.setLane l { t.lane l with retained := none }).setJob i { t.job i with
      state := .holding, reasons := { (t.job i).reasons with refused := true } }).raiseAlert
        (sheetAlert .refused l i (t.job i).account (t.job i).send.copy rec.number)).settled := by
  have step := (offerStep_of_offers (s := t.begin) ⟨h.1, h.2, h.3, h.4, h.5, h.6, h.7, h.8, h.9⟩).2.2 takes
  rw [exec_reoffer hs hr, ht, step, refuseSheet_in_flight (s := t.begin) _ _ h.printing hl hi]
  exact congrArg Host.Outcome.next (finish_raiseAlert ((t.setLane l _).setJob i _) _)

end

/-- Settles O60. -/
theorem timersActAndOffersAreMade : Obligations.TimersActAndOffersAreMade := by
  intro s l hs r p trained named hailed
  have own : s.begin = s.begin.setLane l r := (setLane_lane s.begin l).symm
  refine ⟨fun h hh => ?hail, fun h hh => ?offline, fun h hh => ?ready, fun h hh => ?escalation,
    fun i o rec ha ho hab ht hj hr => ?answer, fun i rec hr hb ho hab hroom hj hp hrec hsp => ?offer⟩
  case hail =>
    have runs : (r.hail.isSome && r.state = .training) = true := by simpa [h, Option.isSome_iff_ne_none] using hh
    rw [exec_expired (exec_hailTimerExpiry_eq s l) hs runs, finish_nothing _ rfl]
    rfl
  case offline =>
    have falls : s.begin.fallSilent l = s.begin.enterTraining l := by
      unfold State.fallSilent
      rw [show (s.begin.lane l).state = .offline from h]
    rw [exec_expired (exec_silenceTimerExpiry_eq s l) hs (by simpa [Option.isSome_iff_ne_none] using hh), falls, own,
      enterTraining_setLane, finish_nothing _ rfl]
    rfl
  case ready =>
    have falls : s.begin.fallSilent l = (s.begin.leaveReady l).enterTraining l := by
      unfold State.fallSilent
      rw [show (s.begin.lane l).state = .ready from h]
    rw [exec_expired (exec_silenceTimerExpiry_eq s l) hs (by simpa [Option.isSome_iff_ne_none] using hh), falls, own,
      leaveReady_setLane, enterTraining_setLane, finish_nothing _ rfl]
    rfl
  case escalation =>
    have runs : (r.escalation.isSome && r.state = .jammed) = true := by simpa [h, Option.isSome_iff_ne_none] using hh
    rw [exec_expired (exec_escalationTimerExpiry_eq s l) hs runs]
    exact congrArg Host.Outcome.next (finish_raiseAlert (s.setLane l { r with escalation := none }) _)
  case answer =>
    have runs : (r.answer.isSome && r.offer.isSome && !r.abort) = true := by
      rw [ho, hab]
      simpa [Option.isSome_iff_ne_none] using ha
    have again := repeatOffer_eq (s := s.begin.setLane l { r.startAnswer with timeouts := r.timeouts + 1 }) (l := l) (o := o)
      (by rw [State.lane_setLane_self]; exact hj) (by rw [State.lane_setLane_self]; exact ho) hr
    rw [exec_expired (exec_answerTimeout_eq s l) hs runs, if_pos (c := (s.begin.lane l).timeouts + 1 < 3) (show r.timeouts + 1 < 3 by omega), State.modLane]
    refine (congrArg (fun t : State => Host.Outcome.next t.finish) again).trans ?_
    rw [State.lane_setLane_self, finish_nothing _ rfl]
    rfl
  case offer =>
    intro j copy a x est takes funded idle offered
    obtain ⟨t, ht⟩ : ∃ t, s.setLane l idle = t := ⟨_, rfl⟩
    have lane : t.lane l = idle := by rw [← ht, State.lane_setLane_self]
    have job : t.job i = j := by rw [← ht]; rfl
    have can : t.Offers l i rec := by
      subst ht
      refine ⟨?_, hp, ?_, ?_, ?_, ?_, ?_, hrec, hsp⟩
      all_goals rw [State.lane_setLane_self]
      exacts [hj, hb, ho, hab, hroom]
    have taken : (t.lane l).cap.takes rec = true ↔ takes := by rw [lane]; exact takes_iff
    have covered : (t.account (t.job i).account).covers (estimateOf (t.scaled rec (t.job i).account)) = true ↔ funded := by
      subst ht
      exact decide_eq_true_iff
    refine ⟨fun c f => ⟨fun q hq => ?_, fun hn hf => ?_⟩, fun c f hi hl => ?_, fun c hi hl => ?_⟩
    · rw [reoffer_offers (q := q) (next := r.seq) hs hr ht can (taken.mpr c) (covered.mpr f) (by rw [lane, job]; exact offerSeq_of_retained hq)]
      subst ht
      exact congrArg Host.Outcome.next (by unfold State.offeredAs; dsimp only; rw [State.lane_setLane_self, State.setLane]; dsimp only; rw [Vector.set_set]; rfl)
    · rw [reoffer_offers (q := r.seq) (next := r.seq + 1) hs hr ht can (taken.mpr c) (covered.mpr f) (by rw [lane]; exact offerSeq_of_fresh hn hf _ _)]
      subst ht
      exact congrArg Host.Outcome.next (by unfold State.offeredAs; dsimp only; rw [State.lane_setLane_self, State.setLane]; dsimp only; rw [Vector.set_set]; rfl)
    · rw [reoffer_unfunded hs hr ht can (taken.mpr c) (Bool.eq_false_iff.mpr fun g => f (covered.mp g)) (by rw [job]; exact hl)
        (by rw [lane]; exact hi)]
      subst ht
      rfl
    · rw [reoffer_refused hs hr ht can (Bool.eq_false_iff.mpr fun g => c (taken.mp g)) (by rw [job]; exact hl) (by rw [lane]; exact hi)]
      subst ht
      rw [State.lane_setLane_self, setLane_setLane]
      rfl

/-! ## HELLO -/

section
variable {s : State} {l : LaneNo}

theorem clampChunk_eq {n k : Nat} (h8 : 8 ≤ k) (h14 : k ≤ 14) (low : 2 ^ k ≤ n ∨ k = 8) (high : n < 2 ^ (k + 1) ∨ k = 14) :
    clampChunk n = 2 ^ k := by
  unfold clampChunk
  obtain rfl | rfl | rfl | rfl | rfl | rfl | rfl : k = 8 ∨ k = 9 ∨ k = 10 ∨ k = 11 ∨ k = 12 ∨ k = 13 ∨ k = 14 := by omega
  all_goals
    norm_num at low high ⊢
    split_ifs <;> omega

theorem helloCapability_eq {chunk : Word16} {k : Nat} (h8 : 8 ≤ k) (h14 : k ≤ 14) (low : 2 ^ k ≤ chunk.toNat ∨ k = 8)
    (high : chunk.toNat < 2 ^ (k + 1) ∨ k = 14) (media : Word16) (duplex : Bool) (depth : Byte) :
    helloCapability chunk media duplex depth = ⟨2 ^ k, media, duplex, max 1 (min 15 depth.toNat)⟩ := by
  have steps : clamp 1 15 depth.toNat = max 1 (min 15 depth.toNat) := by
    unfold clamp
    split_ifs <;> omega
  rw [helloCapability, clampChunk_eq h8 h14 low high, steps]

/-- A HELLO in TRAINING ends the training (R75, R76). -/
theorem takeHello_of_training {r : Lane} (hr : r.state = .training) (c : Capability) : (s.setLane l r).takeHello l c =
    s.waitsAs l { r with cap := c, silence := some (r.current.silence * 1000), hail := none } := by
  unfold State.takeHello State.modLane
  rw [State.lane_setLane_self, if_pos hr, setLane_setLane, State.lane_setLane_self, setLane_setLane, enterIdle_setLane]
  rfl

theorem takeHello_of_trained {r : Lane} (hr : r.state ≠ .training) (c : Capability) : (s.setLane l r).takeHello l c =
    s.setLane l { r with cap := c } := by
  unfold State.takeHello State.modLane
  rw [State.lane_setLane_self, if_neg hr, setLane_setLane]

theorem exec_hello {chunk media : Word16} {duplex : Bool} {depth : Byte} (hs : s.resetLow = false) (hd : (s.lane l).state ≠ .down)
    (ht : ((s.lane l).state = .training || (s.lane l).state = .ready || (s.lane l).state = .offline) = true) :
    exec (.hello l chunk media duplex depth) s =
      .next ((s.begin.setLane l (s.lane l).heard).takeHello l (helloCapability chunk media duplex depth)).finish := by
  rw [exec_taken (exec_hello_eq s l chunk media duplex depth) hs hd ht]

/-- A lane that waits for work with no job queued waits on (R55). -/
theorem finish_waitsAs_of_empty {r : Lane} (he : r.current.enable = true) (hq : (s.pool r.current.pool).queueOrder = []) :
    (s.begin.waitsAs l r).finish = ({ s with
      lanes := s.lanes.set l { r with state := .ready }
      pools := s.pools.set r.current.pool { s.pool r.current.pool with ready := (s.pool r.current.pool).ready ++ [l] } } : State).settled := by
  have todo : (s.begin.waitsAs l r).todo = { Todo.nothing with pools := [r.current.pool] } := by
    unfold State.waitsAs
    rw [if_pos he]
    rfl
  rw [finish_quiet]
  · unfold State.waitsAs
    rw [if_pos he]
    rfl
  · intro p hp
    rw [todo] at hp
    obtain rfl := List.mem_singleton.mp hp
    exact .inr ((queueOrder_congr (waitsAs_classes ..)).trans hq)
  · rw [todo]
    exact fun a h => absurd h (List.not_mem_nil)
  · rw [todo]
    rfl
  · rw [todo]
    rfl

/-- A lane given the record `r` that is then the only one waiting in its pool (R54). -/
def State.readied (s : State) (l : LaneNo) (r : Lane) : State :=
  ((s.setLane l { r with state := .ready }).setPool r.current.pool { s.pool r.current.pool with ready := [l] }).withTodo
    { Todo.nothing with pools := [r.current.pool] }

theorem waitsAs_of_alone {r : Lane} (he : r.current.enable = true) (hready : (s.pool r.current.pool).ready = []) :
    s.begin.waitsAs l r = s.readied l r := by
  unfold State.waitsAs
  rw [if_pos he, show (s.begin.pool r.current.pool).ready = [] from hready]
  rfl

theorem lane_readied (r : Lane) : (s.readied l r).lane l = { r with state := .ready } := State.lane_setLane_self ..

theorem pool_readied (r : Lane) : (s.readied l r).pool r.current.pool = { s.pool r.current.pool with ready := [l] } :=
  State.pool_setPool_self ..

/-- A lane that waited for work and is bound at once (R55, R106). -/
theorem dispatchedTo_waitsAs {r : Lane} {i : Slot} {rec : SheetRecord} (he : r.current.enable = true)
    (hp : (s.job i).pool = r.current.pool) (hready : (s.pool r.current.pool).ready = []) :
    ((s.begin.waitsAs l r).dispatchedTo l i rec []).settled = ({ s.notice (.dispatched i l) with
      lanes := s.lanes.set l { r with
        state := .bound, job := some i, inflight := [], retained := none, timeouts := 0, seq := r.seq + 1
        offer := some ⟨(s.job i).send.copy, rec.number, r.seq, (s.job i).account, s.scaled rec (s.job i).account,
          estimateOf (s.scaled rec (s.job i).account)⟩
        answer := some (r.current.answer * 1000) }
      jobs := s.jobs.set i { s.job i with state := .printing, lane := some l }
      pools := s.pools.set r.current.pool { s.pool r.current.pool with
        classes := (s.pool r.current.pool).classes.set (s.job i).prio ((s.pool r.current.pool).classes[(s.job i).prio].filter (· ≠ i)) }
      accounts := s.accounts.set (s.job i).account { s.account (s.job i).account with
        pending := (s.account (s.job i).account).pending + estimateOf (s.scaled rec (s.job i).account) }
      sent := s.sent ++ [Sent.link l (LinkFrame.offer r.seq i (s.job i).send.copy rec.number rec.cls rec.sides rec.length
        ((rec.length + (r.cap.chunk - 1)) / r.cap.chunk)).bytes] } : State).settled := by
  have notice := notice_eq_of_notices (s := s.readied l r) (b := s) rfl rfl (.dispatched i l)
  have job : (s.readied l r).job i = s.job i := rfl
  have free : (s.pool r.current.pool).bound (s.job i).prio i [] = { s.pool r.current.pool with
      classes := (s.pool r.current.pool).classes.set (s.job i).prio
        ((s.pool r.current.pool).classes[(s.job i).prio].filter (· ≠ i)) } := by
    unfold Pool.bound
    rw [← hready]
  obtain ⟨ns, drops, h⟩ := exists_notice_eq s (.dispatched i l)
  rw [h] at notice ⊢
  rw [waitsAs_of_alone he hready]
  unfold State.dispatchedTo State.dispatchedAs
  dsimp only
  rw [notice, lane_readied, job, ← free]
  simp only [hp]
  rw [pool_readied]
  unfold State.readied State.withTodo State.setPool State.setLane
  dsimp only
  rw [Vector.set_set, Vector.set_set]
  rfl

end

/-- Settles O51. -/
theorem helloSetsTheCapability : Obligations.HelloSetsTheCapability := by
  intro s l chunk media duplex depth k hs h8 h14 low high run r p heard
  have cap := helloCapability_eq h8 h14 low high media duplex depth
  have taken (hd : r.state = .training ∨ r.state = .ready ∨ r.state = .offline) : run =
      .next ((s.begin.setLane l r.heard).takeHello l (helloCapability chunk media duplex depth)).finish := by
    have up : (s.lane l).state ≠ .down := by
      rcases hd with h | h | h
      all_goals rw [show (s.lane l).state = _ from h]; decide
    exact exec_hello hs up (by simpa [or_assoc] using hd)
  have trained (h : r.state = .training) : run = .next (s.begin.waitsAs l { heard with hail := none }).finish := by
    have same : r.heard = r := if_pos h
    rw [taken (.inl h), same, takeHello_of_training h, cap]
  refine ⟨fun h he hq => ?waits, fun h he => ?disabled, fun h => ?stays,
    fun i rec before after h he hre hab hready hq hb hst hp hrec hsp hc hk hm hd => ?binds⟩
  case waits =>
    exact (trained h).trans (congrArg Host.Outcome.next (finish_waitsAs_of_empty (s := s) (r := { heard with hail := none }) he hq))
  case disabled =>
    have off : ¬ r.current.enable = true := by rw [he]; decide
    rw [trained h]
    unfold State.waitsAs
    rw [if_neg off, finish_nothing _ rfl]
    rfl
  case stays =>
    have h' : r.state ≠ .training := by
      rcases h with h | h
      all_goals rw [h]; decide
    rw [taken (.inr h), takeHello_of_trained (r := r.heard) (by rw [(heard_keeps r).2]; exact h'), heard_of_trained h', cap,
      finish_nothing _ rfl]
    rfl
  case binds =>
    intro j a x funded f
    have ends := dispatchedTo_waitsAs (s := s) (l := l) (r := { heard with hail := none }) (i := i) (rec := rec) he hp hready
    refine (trained h).trans (congrArg Host.Outcome.next (Eq.trans ?_ ends))
    rw [waitsAs_of_alone (s := s) (l := l) (r := { heard with hail := none }) he hready]
    have lane := lane_readied (s := s) (l := l) { heard with hail := none }
    have pool := pool_readied (s := s) (l := l) { heard with hail := none }
    have depth : 0 < max 1 (min 15 depth.toNat) := by omega
    refine finish_of_one_dispatch (p := p) (before := before) (after := after) rfl hp ?_ ?_ List.not_mem_nil ?_ hb (.inl rfl) (rec := rec)
      hrec hsp hc hk ?_ ?_ ?_ ?_ (decide_eq_true f)
    · rw [lane]
    · rw [pool]
    · rw [pool]
      exact hq
    all_goals rw [lane]
    exacts [hre, hab, depth, takes_iff.mpr ⟨hm, hd⟩]

end Sys2Proof.Machine
end

section
/-! PROOF. The answers of a printer (R97 to R101): settles O52 and O53. -/

namespace Sys2Proof.Machine

/-! ## A lower pending sum

What it changes besides the account is the accounts whose headroom rose, for the end of the event (R148). -/

section
variable {s : State} {l : LaneNo} {a : AccountNo}

/-- The state with `as` as the accounts whose headroom has risen. -/
def State.withRisen (s : State) (as : List AccountNo) : State := s.withTodo { s.todo with risen := as }

theorem withRisen_withRisen (as bs : List AccountNo) : (s.withRisen as).withRisen bs = s.withRisen bs := rfl

theorem raiseAlert_withRisen (as : List AccountNo) (e : AlertEvent) : (s.withRisen as).raiseAlert e = (s.raiseAlert e).withRisen as := by
  have todo : (s.raiseAlert e).todo = s.todo := by rw [raiseAlert_frame]; rfl
  unfold State.withRisen
  rw [raiseAlert_withTodo, todo]

theorem noteHeadroom_eq (before : Int) : ∃ as, s.noteHeadroom a before = s.withRisen as ∧ ∀ x ∈ as, x ∈ s.todo.risen ∨ x = a := by
  have same : s = s.withRisen s.todo.risen := rfl
  unfold State.noteHeadroom State.noteRise
  split
  · split
    · exact ⟨_, same, fun x h => .inl h⟩
    · exact ⟨_, rfl, fun x h => (List.mem_append.mp h).imp id List.mem_singleton.mp⟩
  · exact ⟨_, same, fun x h => .inl h⟩

theorem lowerPending_eq (e : Nat) : ∃ as, s.lowerPending a e =
    (s.setAccount a { s.account a with pending := (s.account a).pending - e }).withRisen as ∧ ∀ x ∈ as, x ∈ s.todo.risen ∨ x = a :=
  noteHeadroom_eq (s := s.setAccount a { s.account a with pending := (s.account a).pending - e }) _

/-- A rise of the headroom of accounts whose jobs hold no FUNDS brings nothing more (R148). -/
theorem finish_withRisen {as : List AccountNo} (ht : s.todo = Todo.nothing)
    (hf : ∀ a ∈ as, ∀ k, (s.job k).account = a → (s.job k).reasons.funds = false) : (s.withRisen as).finish = s.settled := by
  refine finish_quiet _ ?_ (fun a ha k => fundsHeld_eq_false (hf a ha k)) ?_ ?_
  all_goals
    unfold State.withRisen State.withTodo
    rw [ht]
  · exact fun p hp => absurd hp List.not_mem_nil
  · rfl
  · rfl

/-- A lane whose offer ends (R99 to R101, R110). -/
def Lane.dropped (r : Lane) : Lane := { r with offer := none, answer := none, timeouts := 0 }

/-- The end of an outstanding offer (R145). -/
theorem dropOffer_setLane {r : Lane} {o : Offer} (h : r.offer = some o) : ∃ as, (s.setLane l r).dropOffer l =
    ((s.setAccount o.account { s.account o.account with pending := (s.account o.account).pending - o.estimate }).setLane l r.dropped).withRisen
      as ∧ ∀ x ∈ as, x ∈ s.todo.risen ∨ x = o.account := by
  obtain ⟨as, lowers, hr⟩ := lowerPending_eq (s := s.setLane l r) (a := o.account) o.estimate
  refine ⟨as, ?_, hr⟩
  have lane : ((((s.setLane l r).setAccount o.account { s.account o.account with
      pending := (s.account o.account).pending - o.estimate }).withRisen as).lane l) = r := State.lane_setLane_self ..
  unfold State.dropOffer
  rw [State.lane_setLane_self, h]
  dsimp only
  rw [lowers, State.modLane]
  refine (congrArg (fun x => State.setLane _ l x.dropped) lane).trans ?_
  exact congrArg (fun t : State => t.withRisen as) (setLane_setLane (s.setAccount o.account _) l r r.dropped)

end

/-! ## PROCEED -/

section
variable {s : State} {l : LaneNo} {i : Slot} {o : Offer}

theorem transmitAll_eq (s : State) (l : LaneNo) (fs : List LinkFrame) :
    s.transmitAll l fs = { s with sent := s.sent ++ fs.map fun f => Sent.link l f.bytes } := by
  unfold State.transmitAll
  induction fs generalizing s with
  | nil => rw [List.foldl_nil, List.map_nil, List.append_nil]
  | cons f fs ih =>
    rw [List.foldl_cons, ih]
    unfold State.transmit
    dsimp only
    rw [List.append_assoc]
    rfl

theorem takesAnswer_of_offer {r : Lane} (hb : r.state = .bound) (ha : r.abort = false) (ho : r.offer = some o) : r.takesAnswer o.seq = true := by
  unfold Lane.takesAnswer
  rw [hb, ha, ho]
  simp

theorem answered_of_offer {effect : State → Slot → Offer → State} (hj : (s.lane l).job = some i) (ho : (s.lane l).offer = some o) :
    s.answered l effect = effect s i o := by
  unfold State.answered
  rw [hj, ho]

/-- A frame taken outside TRAINING is heard (R84). -/
theorem exec_answered {f : Instr} {effect : State → Slot → Offer → State}
    (run : exec f s = receive l s (Lane.takesAnswer o.seq) fun t => t.answered l effect) (hs : s.resetLow = false)
    (hb : (s.lane l).state = .bound) (ha : (s.lane l).abort = false) (ho : (s.lane l).offer = some o) (hj : (s.lane l).job = some i) :
    exec f s = .next
      (effect (s.begin.setLane l { s.lane l with silence := some ((s.lane l).current.silence * 1000) }) i o).finish := by
  rw [exec_taken run hs (by rw [hb]; decide) (takesAnswer_of_offer hb ha ho), heard_of_trained (by rw [hb]; decide)]
  rw [answered_of_offer (i := i) (o := o)]
  · rw [State.lane_setLane_self]
    exact hj
  · rw [State.lane_setLane_self]
    exact ho

theorem sendChunks_eq {rec : SheetRecord} (h : (s.job i).recordOf o.sheet = some rec) : s.sendChunks l i o =
    { s with sent := s.sent ++ (List.range (chunkCount rec.length (s.lane l).cap.chunk)).map fun k =>
      Sent.link l (LinkFrame.chunk o.seq k (s.sheetBytes (s.job i) rec (k * (s.lane l).cap.chunk)
        (min (s.lane l).cap.chunk (rec.length - k * (s.lane l).cap.chunk)))).bytes } := by
  unfold State.sendChunks
  rw [h]
  dsimp only
  rw [transmitAll_eq]
  unfold State.chunkFrames
  rw [List.map_map]
  rfl

/-- PROCEED where the lane's list is then full and the cursors stand still (R97, R98). -/
theorem takeProceed_eq {rec : SheetRecord} {send : Cursor} (hrec : (s.job i).recordOf o.sheet = some rec)
    (hd : (s.lane l).cap.depth ≤ (s.lane l).inflight.length + 1) (hopen : (s.job i).intakeOpen = true)
    (hk : (s.job i).confirm.copy ≠ (s.job i).copies ∨ (s.job i).confirm.pos = 0)
    (hn : send = { (s.job i).send with pos := (s.job i).send.pos + 1 }) (hsend : (s.job i).cursorMove send = none)
    (hconfirm : (s.job i).cursorMove (s.job i).confirm = none) : s.takeProceed l i o =
      { (s.setLane l ((s.lane l).proceed o)).setJob i { s.job i with send := send } with
        sent := s.sent ++ (List.range (chunkCount rec.length (s.lane l).cap.chunk)).map fun k =>
          Sent.link l (LinkFrame.chunk o.seq k (s.sheetBytes (s.job i) rec (k * (s.lane l).cap.chunk)
            (min (s.lane l).cap.chunk (rec.length - k * (s.lane l).cap.chunk)))).bytes } := by
  have lane : (s.setLane l ((s.lane l).proceed o)).lane l = (s.lane l).proceed o := State.lane_setLane_self ..
  unfold State.takeProceed
  rw [State.modLane, sendChunks_eq (s := s.setLane l _) hrec, lane]
  subst hn
  generalize ht : ({ (s.setLane l ((s.lane l).proceed o)) with sent := _ } : State) = t
  have before : t.job i = s.job i ∧ t.lane l = (s.lane l).proceed o := by
    rw [← ht]
    exact ⟨rfl, lane⟩
  rw [State.modJob, before.1]
  have job (j : Job) : (t.setJob i j).job i = j := State.job_setJob_self ..
  rw [settle_of_still _ i (by rw [job]; exact hsend) (.inl (by rw [job]; exact hconfirm)) (by rw [job]; exact hasPassed_of_keeps hk)
    (by rw [job]; exact completed_of_open hopen), offerStep_of_none]
  · rw [← ht]
    rfl
  · refine offerable_eq_none fun k x can => ?_
    have room := can.room
    rw [State.lane_setJob, before.2] at room
    have longer : ((s.lane l).proceed o).inflight.length = (s.lane l).inflight.length + 1 := List.length_append
    have depth : ((s.lane l).proceed o).cap.depth = (s.lane l).cap.depth := rfl
    omega

end

/-- Settles O52. -/
theorem proceedPutsTheSheetInFlight : Obligations.ProceedPutsTheSheetInFlight := by
  intro s l i o rec hs hb ha ho hj hrec hd hopen hk r j send hsend hconfirm size chunk
  rw [exec_answered (exec_proceed_eq s l o.seq) hs hb ha ho hj]
  have lane : ∀ x : Lane, (s.begin.setLane l x).lane l = x := fun _ => State.lane_setLane_self ..
  rw [takeProceed_eq (s := s.begin.setLane l _) hrec (by rw [lane]; exact hd) hopen hk rfl hsend hconfirm, lane, setLane_setLane,
    finish_nothing _ rfl]
  rfl

/-! ## WAIT, MEDIA and REFUSE -/

section
variable {s : State} {l : LaneNo} {i : Slot} {o : Offer} {as : List AccountNo} {r : Lane}

theorem modLane_withRisen (f : Lane → Lane) : ((s.setLane l r).withRisen as).modLane l f = (s.setLane l (f r)).withRisen as := by
  have lane : ((s.setLane l r).withRisen as).lane l = r := State.lane_setLane_self ..
  rw [State.modLane, lane]
  exact congrArg (fun t : State => t.withRisen as) (setLane_setLane s l r (f r))

/-- A job that is not HOLDING, or has entries in flight, stays as it is (R50). -/
theorem settleHolding_of_out (hl : (s.job i).lane = some l) (h : (s.job i).state = .printing ∨ (s.lane l).inflight ≠ []) :
    s.settleHolding i = s := by
  rcases h with h | h
  · unfold State.settleHolding
    rw [h, if_neg (by simp)]
  · exact settleHolding_of_flight hl h

/-- A job that holds a JOB-HOLD enters HELD with its notice, completes it, and leaves its lane (R50, R58). -/
theorem enterHeld_of_hold {p : QueuePtr} (hp : (s.job i).pendingHold = some p) : s.enterHeld i =
    (((s.notice (.held i (s.job i).tag (s.job i).reasons)).setJob i { s.job i with state := .held, pendingHold := none }).complete p
      .done (val32 (reasonsCode (s.job i).reasons)) 0).leaveLane i := by
  unfold State.enterHeld
  rw [hp, State.modJob, notice_setJob]
  rfl

/-- A job that enters HELD from a BOUND lane leaves it READY (R50, R54, R56). -/
theorem enterHeld_from_bound {p : QueuePtr} (hp : (s.job i).pendingHold = some p) (hl : (s.job i).lane = some l)
    (hb : (s.lane l).state = .bound) (hn : (s.lane l).pendingSet = none) (he : (s.lane l).current.enable = true)
    (hr : { s.lane l with job := none, reoffer := none, retained := none, state := .ready } = r) : s.enterHeld i =
    (((((s.notice (.held i (s.job i).tag (s.job i).reasons)).setJob i { s.job i with state := .held, pendingHold := none, lane := none }).setLane
      l r).setPool r.current.pool { s.pool r.current.pool with ready := (s.pool r.current.pool).ready ++ [l] }).noteDispatch
        r.current.pool).complete p .done (val32 (reasonsCode (s.job i).reasons)) 0 := by
  obtain ⟨ns, drops, notice⟩ := exists_notice_eq s (.held i (s.job i).tag (s.job i).reasons)
  rw [enterHeld_of_hold hp, notice]
  obtain ⟨y, hy⟩ : ∃ y, ((s.atNotices ns drops).setJob i { s.job i with state := .held, pendingHold := none }).complete p .done
      (val32 (reasonsCode (s.job i).reasons)) 0 = y := ⟨_, rfl⟩
  have job : y.job i = { s.job i with state := .held, pendingHold := none } := by rw [← hy]; exact State.job_setJob_self ..
  have lane : y.lane l = s.lane l := by rw [← hy]; rfl
  rw [hy, leaveLane_of_bound (l := l) (by rw [job]; exact hl) (by rw [lane]; exact hb) (by rw [lane]; exact hn), job, lane]
  unfold State.waitsAs
  rw [if_pos he]
  subst hr
  rw [← hy, setJob_complete, setJob_setJob]
  rfl

/-- The state once an offer of the account `o.account` is over, with the lane's record `r` (R99 to R101). -/
def State.withdrawn (s : State) (l : LaneNo) (o : Offer) (r : Lane) (as : List AccountNo) : State :=
  ((s.begin.setAccount o.account { s.account o.account with pending := (s.account o.account).pending - o.estimate }).setLane l r).withRisen as

theorem lane_withdrawn : (s.withdrawn l o r as).lane l = r := State.lane_setLane_self ..

theorem pool_atNotices (ns : List Notice) (drops : Nat) (k : PoolNo) : (s.atNotices ns drops).pool k = s.pool k := rfl

theorem job_atNotices (ns : List Notice) (drops : Nat) (k : Slot) : (s.atNotices ns drops).job k = s.job k := rfl

/-- The lane's record set again as its job is held. -/
theorem setLane_withdrawn (ns : List Notice) (drops : Nat) (j : Job) (q : Lane) :
    (((s.withdrawn l o r as).atNotices ns drops).setJob i j).setLane l q = ((s.withdrawn l o q as).atNotices ns drops).setJob i j :=
  congrArg (fun t : State => ((t.withRisen as).atNotices ns drops).setJob i j)
    (setLane_setLane (s.begin.setAccount o.account { s.account o.account with pending := (s.account o.account).pending - o.estimate }) l r q)

theorem pool_withdrawn {k : PoolNo} : (s.withdrawn l o r as).pool k = s.pool k := rfl

theorem job_withdrawn : (s.withdrawn l o r as).job i = s.job i := rfl

theorem finish_withdrawn (hf : ∀ a ∈ as, ∀ k, (s.job k).account = a → (s.job k).reasons.funds = false) : (s.withdrawn l o r as).finish =
    ({ s with
      accounts := s.accounts.set o.account { s.account o.account with pending := (s.account o.account).pending - o.estimate }
      lanes := s.lanes.set l r } : State).settled :=
  finish_withRisen rfl hf

/-- The end of an event that withdraws an offer, sets the lane and its job, and raises an alert. -/
theorem finish_withdrawn_alert {j : Job} (hj : j.account = (s.job i).account)
    (hf : ∀ a ∈ as, ∀ k, (s.job k).account = a → (s.job k).reasons.funds = false) (hj' : j.reasons.funds = (s.job i).reasons.funds)
    (e : AlertEvent) : (((s.withdrawn l o r as).setJob i j).raiseAlert e).finish = (({ s with
      accounts := s.accounts.set o.account { s.account o.account with pending := (s.account o.account).pending - o.estimate }
      lanes := s.lanes.set l r
      jobs := s.jobs.set i j } : State).raiseAlert e).settled := by
  obtain ⟨u, hu⟩ : ∃ u : State, ({ s with
      accounts := s.accounts.set o.account { s.account o.account with pending := (s.account o.account).pending - o.estimate }
      lanes := s.lanes.set l r
      jobs := s.jobs.set i j } : State) = u := ⟨_, rfl⟩
  have risen : ((s.withdrawn l o r as).setJob i j).raiseAlert e = (u.begin.raiseAlert e).withRisen as := by
    rw [← hu, ← raiseAlert_withRisen]
    rfl
  have jobs : ∀ k, ((u.begin.raiseAlert e).job k) = if i = k then j else s.job k := fun k => by
    rw [job_raiseAlert, ← hu]
    exact State.job_setJob ..
  rw [hu, risen, raiseAlert_begin, finish_withRisen rfl]
  · rfl
  · intro a ha k
    rw [← raiseAlert_begin, jobs k]
    split
    · rename_i h
      subst h
      rw [hj, hj']
      exact hf a ha i
    · exact hf a ha k

theorem modLane_withdrawn (f : Lane → Lane) : (s.withdrawn l o r as).modLane l f = s.withdrawn l o (f r) as := modLane_withRisen f

/-- A WAIT, MEDIA or REFUSE that is taken ends the outstanding offer (R99 to R101). -/
theorem exec_withdraws {f : Instr} {effect : State → Slot → Offer → State}
    (run : exec f s = receive l s (Lane.takesAnswer o.seq) fun t => t.answered l effect) (hs : s.resetLow = false)
    (hb : (s.lane l).state = .bound) (ha : (s.lane l).abort = false) (ho : (s.lane l).offer = some o) (hj : (s.lane l).job = some i)
    (hf : ∀ k, (s.job k).account = o.account → (s.job k).reasons.funds = false) :
    ∃ t : State, ∃ as, t.job i = s.job i ∧ (∀ a ∈ as, ∀ k, (s.job k).account = a → (s.job k).reasons.funds = false) ∧
      t.dropOffer l = s.withdrawn l o { s.lane l with
        offer := none, answer := none, timeouts := 0, silence := some ((s.lane l).current.silence * 1000) } as ∧
      exec f s = .next (effect t i o).finish := by
  obtain ⟨as, drops, hr⟩ := dropOffer_setLane (s := s.begin) (l := l)
    (r := { s.lane l with silence := some ((s.lane l).current.silence * 1000) }) ho
  refine ⟨s.begin.setLane l { s.lane l with silence := some ((s.lane l).current.silence * 1000) }, as, rfl, fun a h k hk => ?_, drops,
    exec_answered run hs hb ha ho hj⟩
  rcases hr a h with h | h
  · exact absurd h List.not_mem_nil
  · exact hf k (hk.trans h)

variable {t : State}

theorem settleHolding_withdrawn (hl : (s.job i).lane = some l) (h : (s.job i).state = .printing ∨ r.inflight ≠ []) :
    (s.withdrawn l o r as).settleHolding i = s.withdrawn l o r as :=
  settleHolding_of_out (s := s.withdrawn l o r as) hl (by rw [lane_withdrawn]; exact h)

theorem takeWait_of_printing (hj : t.job i = s.job i) (hd : t.dropOffer l = s.withdrawn l o r as) (h : (s.job i).state = .printing) :
    t.takeWait l i o = s.withdrawn l o { r with retained := some o.retained, reoffer := some r.current.reoffer } as := by
  unfold State.takeWait
  rw [hj, if_pos h, hd, modLane_withdrawn, modLane_withdrawn]
  rfl

theorem takeWait_of_holding (hj : t.job i = s.job i) (hd : t.dropOffer l = s.withdrawn l o r as) (h : (s.job i).state = .holding) :
    t.takeWait l i o = (s.withdrawn l o { r with retained := some o.retained } as).settleHolding i := by
  unfold State.takeWait
  rw [hj, if_neg (by rw [h]; decide), hd, modLane_withdrawn]

theorem takeMedia_eq (hj : t.job i = s.job i) (hd : t.dropOffer l = s.withdrawn l o r as) (hl : (s.job i).lane = some l)
    (h : (s.job i).state = .printing ∨ r.inflight ≠ []) : t.takeMedia l i o =
      ((s.withdrawn l o { r with retained := some o.retained, state := .mediaWait, reoffer := none } as).setJob i (s.job i)).raiseAlert
        (sheetAlert .media l i (s.job i).account o.copy o.sheet) := by
  unfold State.takeMedia
  rw [hj, hd, modLane_withdrawn]
  generalize hq : ({ r with retained := some o.retained, state := .mediaWait, reoffer := none } : Lane) = q
  have same : (s.withdrawn l o q as).setJob i (s.job i) = s.withdrawn l o q as := setJob_job _ i
  rw [same]
  refine settleHolding_of_out (l := l) (by rw [job_raiseAlert]; exact hl) (h.imp (fun h => by rw [job_raiseAlert]; exact h) fun h => ?_)
  rw [raiseAlert_frame]
  show ((s.withdrawn l o q as).lane l).inflight ≠ []
  rw [lane_withdrawn, ← hq]
  exact h

theorem refuse_of_printing (hd : t.dropOffer l = s.withdrawn l o r as) (hl : (s.job i).lane = some l)
    (h : (s.job i).state = .printing) (hi : r.inflight ≠ []) : (t.dropOffer l).refuseSheet l i o.copy o.sheet =
      ((s.withdrawn l o { r with retained := none } as).setJob i
        { s.job i with state := .holding, reasons := { (s.job i).reasons with refused := true } }).raiseAlert
          (sheetAlert .refused l i (s.job i).account o.copy o.sheet) := by
  have kept : (s.withdrawn l o r as).setLane l { (s.withdrawn l o r as).lane l with retained := none } =
      s.withdrawn l o { r with retained := none } as := modLane_withdrawn fun x => { x with retained := none }
  have flight : ((s.withdrawn l o r as).lane l).inflight ≠ [] := by
    rw [lane_withdrawn]
    exact hi
  rw [hd, refuseSheet_in_flight (s := s.withdrawn l o r as) _ _ (by rw [job_withdrawn]; exact h) (by rw [job_withdrawn]; exact hl) flight,
    kept, job_withdrawn]

theorem refuse_of_holding (hd : t.dropOffer l = s.withdrawn l o r as) (hl : (s.job i).lane = some l)
    (h : (s.job i).state = .holding) (hi : r.inflight ≠ []) : (t.dropOffer l).refuseSheet l i o.copy o.sheet =
      ((s.withdrawn l o { r with retained := none } as).setJob i
        { s.job i with reasons := { (s.job i).reasons with refused := true } }).raiseAlert
          (sheetAlert .refused l i (s.job i).account o.copy o.sheet) := by
  rw [hd]
  unfold State.refuseSheet
  rw [modLane_withdrawn]
  generalize hq : ({ r with retained := none } : Lane) = q
  have job : ((s.withdrawn l o q as).raiseAlert (sheetAlert .refused l i ((s.withdrawn l o r as).job i).account o.copy o.sheet)).job i =
      s.job i := job_raiseAlert ..
  rw [raiseReason_of_held (.inr (by rw [job]; exact h)), job, ← raiseAlert_setJob]
  refine settleHolding_of_out (l := l) (by rw [job_raiseAlert, State.job_setJob_self]; exact hl) (.inr ?_)
  rw [raiseAlert_frame]
  show ((s.withdrawn l o q as).lane l).inflight ≠ []
  rw [lane_withdrawn, ← hq]
  exact hi

/-- A HOLDING job with nothing left in flight is HELD, and its lane is READY again (R50, R56). -/
theorem concludes_held_of_withdrawn {p : QueuePtr} {q : Lane} (hf : ∀ a ∈ as, ∀ k, (s.job k).account = a → (s.job k).reasons.funds = false)
    (hh : (s.job i).state = .holding) (hp : (s.job i).pendingHold = some p) (hl : (s.job i).lane = some l) (ho : r.offer = none)
    (hi : r.inflight = []) (hb : r.state = .bound) (hn : r.pendingSet = none) (he : r.current.enable = true)
    (hq : { r with job := none, reoffer := none, retained := none, state := .ready } = q) (hg : s.queue.resetTaken = false)
    (hqueues : ∀ k, (s.pool k).queueOrder = []) : Concludes
      { ({ s with
          accounts := s.accounts.set o.account { s.account o.account with pending := (s.account o.account).pending - o.estimate }
          lanes := s.lanes.set l q
          jobs := s.jobs.set i { s.job i with state := .held, pendingHold := none, lane := none } } : State).notice
            (.held i (s.job i).tag (s.job i).reasons) with
        pools := s.pools.set q.current.pool { s.pool q.current.pool with ready := (s.pool q.current.pool).ready ++ [l] } }
      ((s.withdrawn l o r as).settleHolding i).finish [⟨p, .done, val32 (reasonsCode (s.job i).reasons), 0⟩] := by
  have lane := lane_withdrawn (s := s) (l := l) (o := o) (r := r) (as := as)
  have none_out : (s.withdrawn l o r as).sheetsInFlight i = false := by
    rw [Bool.eq_false_iff]
    intro h
    rw [sheetsInFlight_iff (s := s.withdrawn l o r as) hl, lane, ho, hi] at h
    simp at h
  have holds : (s.withdrawn l o r as).settleHolding i = (s.withdrawn l o r as).enterHeld i := by
    unfold State.settleHolding
    rw [job_withdrawn, none_out, hh]
    rfl
  have enters := enterHeld_from_bound (s := s.withdrawn l o r as) (i := i) (l := l) (r := q) hp hl (by rw [lane]; exact hb) (by rw [lane]; exact hn)
    (by rw [lane]; exact he) (by rw [lane]; exact hq)
  have notice := notice_eq_of_notices (s := s.withdrawn l o r as) (b := s) rfl rfl (.held i (s.job i).tag (s.job i).reasons)
  have notice' := notice_eq_of_notices (s := ({ s with
          accounts := s.accounts.set o.account { s.account o.account with pending := (s.account o.account).pending - o.estimate }
          lanes := s.lanes.set l q
          jobs := s.jobs.set i { s.job i with state := .held, pendingHold := none, lane := none } } : State)) (b := s) rfl rfl
            (.held i (s.job i).tag (s.job i).reasons)
  rw [holds, enters, job_withdrawn, notice, notice']
  generalize (s.notice (.held i (s.job i).tag (s.job i).reasons)).notices = ns
  generalize (s.notice (.held i (s.job i).tag (s.job i).reasons)).noticeDrops = drops
  rw [setLane_withdrawn]
  generalize hv : State.complete _ p _ _ _ = v
  have pools : v.todo.pools = [q.current.pool] := by rw [← hv]; rfl
  have classes : ∀ k, (v.pool k).classes = (s.pool k).classes := fun k => by
    rw [← hv, State.pool_complete, State.pool_noteDispatch, State.pool_setPool, State.pool_setJob, pool_atNotices,
      pool_withdrawn]
    split
    · rename_i h
      rw [h]
    · rfl
  have risen : v.todo.risen = as := by rw [← hv]; rfl
  have done : v.todo.done = [⟨p, .done, val32 (reasonsCode (s.job i).reasons), 0⟩] := by rw [← hv]; rfl
  have jobs : ∀ k, (v.job k).account = (s.job k).account ∧ (v.job k).reasons = (s.job k).reasons := fun k => by
    rw [← hv, State.job_complete, State.job_noteDispatch, State.job_setPool, State.job_setJob, job_atNotices,
      job_withdrawn]
    split
    · rename_i h
      rw [h]
      exact ⟨rfl, rfl⟩
    · exact ⟨rfl, rfl⟩
  rw [← done]
  refine (finish_concludes v (fun k _ => .inr ((queueOrder_congr (classes k)).trans (hqueues k))) (fun a ha k => ?_) (by rw [← hv]; rfl)
    (by rw [← hv]; exact hg) (by rw [done]; simp)).of_todo ?_
  · rw [risen] at ha
    refine fundsHeld_eq_false fun h => ?_
    rw [(jobs k).2]
    exact hf a ha k ((jobs k).1.symm.trans h)
  · rw [← hv, pool_withdrawn]
    unfold State.withdrawn State.atNotices State.setJob State.setPool State.noteDispatch State.complete State.withRisen State.withTodo
      State.setLane State.setAccount
    dsimp only
    rfl

end

/-- Settles O53. -/
theorem answersWithdrawTheOffer : Obligations.AnswersWithdrawTheOffer := by
  intro s l i o hs hb ha ho hj hl hf r j a dropped kept u stays
  refine ⟨fun hp => ?wait, fun hst => ?waitHolding, fun hm => ?media, fun hp hi => ?refuse, fun hst => ?refuseHolding,
    fun p hh hi hp hn he hg hq => ?held⟩
  case wait =>
    obtain ⟨t, as, job, hr, drops, run⟩ := exec_withdraws (exec_wait_eq s l o.seq) hs hb ha ho hj hf
    rw [run]
    rw [takeWait_of_printing job drops hp, finish_withdrawn hr]
    exact congrArg Host.Outcome.next (congrArg State.settled (setJob_job _ i).symm)
  case waitHolding =>
    obtain ⟨t, as, job, hr, drops, run⟩ := exec_withdraws (exec_wait_eq s l o.seq) hs hb ha ho hj hf
    rw [run, takeWait_of_holding job drops hst.1, settleHolding_withdrawn hl (.inr (by exact hst.2)), finish_withdrawn hr]
    exact congrArg Host.Outcome.next (congrArg State.settled (setJob_job _ i).symm)
  case media =>
    obtain ⟨t, as, job, hr, drops, run⟩ := exec_withdraws (exec_media_eq s l o.seq) hs hb ha ho hj hf
    rw [run, takeMedia_eq job drops hl (hm.imp id And.right), finish_withdrawn_alert rfl hr rfl]
    rfl
  case refuse =>
    obtain ⟨t, as, job, hr, drops, run⟩ := exec_withdraws (exec_refuse_eq s l o.seq) hs hb ha ho hj hf
    rw [run, refuse_of_printing drops hl hp hi, finish_withdrawn_alert]
    · rfl
    · exact hr
    · rfl
  case refuseHolding =>
    obtain ⟨t, as, job, hr, drops, run⟩ := exec_withdraws (exec_refuse_eq s l o.seq) hs hb ha ho hj hf
    rw [run, refuse_of_holding drops hl hst.1 hst.2, finish_withdrawn_alert]
    · rfl
    · exact hr
    · rfl
  case held =>
    intro q
    obtain ⟨t, as, job, hr, drops, run⟩ := exec_withdraws (exec_wait_eq s l o.seq) hs hb ha ho hj hf
    refine ⟨_, run, ?_⟩
    rw [takeWait_of_holding job drops hh]
    exact concludes_held_of_withdrawn hr hh hp hl rfl hi hb hn he rfl hg hq

end Sys2Proof.Machine
end

section
/-! PROOF. Confirmation (R103 to R105, R134, R147) and the settling of the cursors that follows it (R42 to R44, R89 to R91): settles O54. -/

namespace Sys2Proof.Machine

/-! ## The accounts of a run of confirmations -/

/-- The accounts after the confirmation of entries, one after another (R134, R147). -/
def accountsAfter (accs : Vector Account 1024) : List InFlight → Vector Account 1024
  | [] => accs
  | e :: es => accountsAfter (accs.set e.account (accs[e.account].debit e.x e.estimate)) es

/-- What the confirmation of entries charges in all, one after another (R134). -/
def chargesOf (accs : Vector Account 1024) : List InFlight → Nat
  | [] => 0
  | e :: es => accs[e.account].chargeFor e.x + chargesOf (accs.set e.account (accs[e.account].debit e.x e.estimate)) es

section
variable {α : Type} {s : State} (f : α → InFlight)

theorem foldl_debited (es : List α) : (es.foldl (fun (t : State) e => t.modAccount (f e).account fun a => a.debit (f e).x (f e).estimate) s).accounts =
    accountsAfter s.accounts (es.map f) := by
  induction es generalizing s with
  | nil => rfl
  | cons e es ih => exact ih

theorem foldl_charged (es : List α) (n : Nat) : (es.foldl (fun (q : State × Nat) e =>
    (q.1.modAccount (f e).account fun a => a.debit (f e).x (f e).estimate, q.2 + (q.1.account (f e).account).chargeFor (f e).x)) (s, n)).2 =
      n + chargesOf s.accounts (es.map f) := by
  induction es generalizing s n with
  | nil => rfl
  | cons e es ih =>
    rw [List.foldl_cons, ih, List.map_cons, chargesOf, Nat.add_assoc]
    rfl

end

/-! ## Freed blocks -/

section
variable {s : State} {i : Slot}

/-- A relation between states that is reflexive and transitive holds over a run of changes that each keep it. -/
theorem foldl_related {α : Type} {R : State → State → Prop} (refl : ∀ t, R t t) (trans : ∀ {a b c}, R a b → R b c → R a c)
    {f : State → α → State} (step : ∀ t x, R t (f t x)) (l : List α) (s : State) : R s (l.foldl f s) := by
  induction l generalizing s with
  | nil => exact refl s
  | cons x l ih => exact trans (step s x) (ih _)

theorem pool_freeBlock (b : Nat) (p : PoolNo) : ∃ free, (s.freeBlock b).pool p = { s.pool p with free := free } := by
  unfold State.freeBlock
  split
  · rename_i q _
    unfold State.modPool
    rw [State.pool_setPool]
    split
    · rename_i h
      subst h
      exact ⟨_, rfl⟩
    · exact ⟨_, rfl⟩
  · exact ⟨_, rfl⟩

/-- A freed block changes of the pools their free queues alone (R27). -/
theorem pool_freeBlocks (bs : List Nat) (p : PoolNo) : ∃ free, (s.freeBlocks bs).pool p = { s.pool p with free := free } :=
  foldl_related (R := fun a b => ∃ free, b.pool p = { a.pool p with free := free }) (fun _ => ⟨_, rfl⟩)
    (fun ⟨_, h⟩ ⟨_, h'⟩ => ⟨_, by rw [h', h]⟩) (fun _ b => pool_freeBlock b p) bs s

end

/-! ## A lane and its job in the course of a settling -/

section
variable {s : State} {l : LaneNo} {i : Slot} {accs : Vector Account 1024} {r : Lane} {j : Job} {free : List Nat} {as : List AccountNo}

/-- The state with the accounts, one lane, one job and the shared free queue as given, and the accounts whose headroom has risen. -/
def State.atSettle (s : State) (l : LaneNo) (i : Slot) (accs : Vector Account 1024) (r : Lane) (j : Job) (free : List Nat)
    (as : List AccountNo) : State :=
  { s with
    accounts := accs, lanes := s.lanes.set l r, jobs := s.jobs.set i j, sharedFree := free, todo := { s.todo with risen := as } }

theorem lane_atSettle : (s.atSettle l i accs r j free as).lane l = r := State.lane_setLane_self ..

theorem job_atSettle : (s.atSettle l i accs r j free as).job i = j := State.job_setJob_self ..

theorem modLane_atSettle (f : Lane → Lane) : (s.atSettle l i accs r j free as).modLane l f = s.atSettle l i accs (f r) j free as := by
  rw [State.modLane, lane_atSettle]
  unfold State.atSettle State.setLane
  dsimp only
  rw [Vector.set_set]

theorem setJob_atSettle (k : Job) : (s.atSettle l i accs r j free as).setJob i k = s.atSettle l i accs r k free as := by
  unfold State.atSettle State.setJob
  dsimp only
  rw [Vector.set_set]

theorem modJob_atSettle (f : Job → Job) : (s.atSettle l i accs r j free as).modJob i f = s.atSettle l i accs r (f j) free as := by
  rw [State.modJob, job_atSettle, setJob_atSettle]

/-- A confirmation settles the account, and notes it where its headroom rose (R147, R148). -/
theorem debit_atSettle (a : AccountNo) (x e : Nat) : ∃ as', (s.atSettle l i accs r j free as).debit a x e =
    s.atSettle l i (accs.set a (accs[a].debit x e)) r j free as' ∧ ∀ b ∈ as', b ∈ as ∨ b = a :=
  noteHeadroom_eq (s := s.atSettle l i (accs.set a (accs[a].debit x e)) r j free as) _

/-- The lane's record as an entry of the record `rec` is confirmed (R104, R150). -/
def Lane.confirms (r : Lane) (rec : Option SheetRecord) (rest : List InFlight) : Lane :=
  { (match rec with | some rec => r.meter rec | none => r) with inflight := rest }

/-- The job's record as an entry is confirmed, before its cursors settle (R104). -/
def Job.confirms (j : Job) (charge : Nat) : Job :=
  { j.confirmTotals charge with confirm := { j.confirm with pos := j.confirm.pos + 1 } }

/-- The confirmation of the head entry (R104). -/
theorem confirmHead_atSettle {e : InFlight} {rest : List InFlight} (hj : r.job = some i) (hi : r.inflight = e :: rest) :
    ∃ as', (s.atSettle l i accs r j free as).confirmHead l =
      (s.atSettle l i (accs.set e.account (accs[e.account].debit e.x e.estimate)) (r.confirms (j.recordOf e.sheet) rest)
        (j.confirms (accs[e.account].chargeFor e.x)) free as').settle i ∧ ∀ b ∈ as', b ∈ as ∨ b = e.account := by
  obtain ⟨as', debits, hr⟩ := debit_atSettle (s := s) (l := l) (i := i) (accs := accs) (r := r) (j := j) (free := free) (as := as)
    e.account e.x e.estimate
  refine ⟨as', ?_, hr⟩
  unfold State.confirmHead
  rw [lane_atSettle, hj, hi]
  dsimp only
  rw [debits, job_atSettle, modLane_atSettle, modJob_atSettle]
  rfl

/-! ## The settling after a confirmation -/

/-- With a confirm cursor that cannot move, a settling can move the send cursor alone (R90, R91). -/
theorem settleCursors_of_still (hc : j.cursorMove j.confirm = none) : ∃ c, j.settleSend.settleConfirm = { j with send := c } ∧
    (j.cursorMove j.send = none → c = j.send) := by
  refine ⟨j.settleBy j.positions j.send, ?_, settleBy_of_none _ _ _⟩
  exact congrArg (fun c => { j with send := j.settleBy j.positions j.send, confirm := c })
    (settleBehind_of_none (j := j.settleSend) j.settleSend.positions j.confirm hc)

/-- A settling with a confirm cursor that cannot move, of a job that has passed nothing and is not complete. -/
theorem settle_atSettle (hc : j.cursorMove j.confirm = none) (hp : j.hasPassed = false) (hd : j.completed = false) :
    ∃ c, (s.atSettle l i accs r j free as).settle i = s.atSettle l i accs r { j with send := c } free as ∧
      (j.cursorMove j.send = none → c = j.send) := by
  obtain ⟨c, moves, hs⟩ := settleCursors_of_still hc
  refine ⟨c, ?_, hs⟩
  unfold State.settle
  rw [modJob_atSettle, moves, releasePass_of_not_passed (by rw [job_atSettle]; exact hp), State.testCompletion, job_atSettle, if_neg]
  rw [show ({ j with send := c } : Job).completed = false from hd]
  simp

/-- A job that has passed the first record of its list on the final copy (R42 to R44). -/
def Job.passesFirst (j : Job) (rec : SheetRecord) (others : List SheetRecord) (send : Cursor) (freed : Nat) : Job :=
  { j with
    records := others, confirm := { j.confirm with pos := 0 }, send := send, passed := j.passed + rec.received
    chain := j.chain.drop freed, released := j.released + freed }

/-- The state with other pool records. -/
def State.withPools (s : State) (ps : Vector Pool 8) : State := { s with pools := ps }

/-- The pool records `ps` differ from those of the state by their free queues alone. -/
def State.FreesInto (s : State) (ps : Vector Pool 8) : Prop := ∀ p : PoolNo, ∃ free, ps[p] = { s.pool p with free := free }

theorem State.FreesInto.refl (s : State) : s.FreesInto s.pools := fun _ => ⟨_, rfl⟩

theorem State.FreesInto.trans {ps qs : Vector Pool 8} (h : s.FreesInto ps) (h' : (s.withPools ps).FreesInto qs) : s.FreesInto qs := fun p => by
  obtain ⟨f, hf⟩ := h p
  obtain ⟨g, hg⟩ := h' p
  exact ⟨g, by rw [hg, show (s.withPools ps).pool p = ps[p] from rfl, hf]⟩

/-- A settling with a confirm cursor that has just passed the first record of the list on the final copy and cannot move on, where no job
waits for credit (R42 to R44). -/
theorem settle_atSettle_passes {rec : SheetRecord} {others : List SheetRecord} {freed : Nat} (hc : j.cursorMove j.confirm = none)
    (hcopy : j.confirm.copy = j.copies) (hpos : j.confirm.pos = 1) (hr : j.records = rec :: others)
    (hd : j.state = .cancelling ∨ others ≠ []) (hw : s.waitList = [])
    (hf : min j.chain.length ((j.passed + rec.received) / 4096 - j.released) = freed) :
    ∃ c ps free', (s.atSettle l i accs r j free as).settle i =
        (s.withPools ps).atSettle l i accs r (j.passesFirst rec others c freed) free' as ∧
      (j.cursorMove j.send = none → c = { j.send with pos := j.send.pos - 1 }) ∧ s.FreesInto ps ∧
      ((∀ p, (s.pool p).reserved = false) → ps = s.pools ∧ free' = free ++ j.chain.take freed) := by
  obtain ⟨c, moves, hs⟩ := settleCursors_of_still hc
  obtain ⟨k, hk⟩ : ∃ k, j.passesFirst rec others { c with pos := c.pos - 1 } freed = k := ⟨_, rfl⟩
  have passes : ({ j with send := c } : Job).passRecords = { j with
      send := { c with pos := c.pos - 1 }, records := others, passed := j.passed + rec.received, confirm := { j.confirm with pos := 0 } } := by
    unfold Job.passRecords
    dsimp only
    rw [hpos, hr]
    rfl
  have after : ({ j with send := c } : Job).afterPass = k := by
    rw [← hk, Job.afterPass, passes]
    subst hf
    rfl
  have blocks : ({ j with send := c } : Job).passRecords.chain.take ({ j with send := c } : Job).passRecords.freeable = j.chain.take freed := by
    rw [passes]
    subst hf
    rfl
  obtain ⟨free', ps, freedInto⟩ := exists_freeBlocks_eq (s := s.atSettle l i accs r k free as) (j.chain.take freed)
  have pools := pool_freeBlocks (s := s.atSettle l i accs r k free as) (j.chain.take freed)
  have left : (s.atSettle l i accs r { j with send := c } free as).releasePass i = (s.withPools ps).atSettle l i accs r k free' as := by
    unfold State.releasePass
    rw [job_atSettle, if_pos (by simp [Job.hasPassed, hcopy, hpos])]
    dsimp only
    rw [← Job.afterPass, after, blocks, setJob_atSettle, freedInto]
    split
    · exact walk_of_none _ hw
    · rfl
  have alive : k.completed = false := by
    rcases hd with h | h
    · unfold Job.completed
      rw [show k.state = .cancelling by rw [← hk]; exact h]
      simp
    · exact completed_eq_false (by rw [← hk]; exact h) (.inr (by rw [← hk]; exact List.length_pos_iff.mpr h))
  refine ⟨{ c with pos := c.pos - 1 }, ps, free', ?_, fun h => by rw [hs h], fun p => ?_, fun hp => ?_⟩
  · unfold State.settle
    rw [modJob_atSettle, moves, left, State.testCompletion, job_atSettle, alive, Bool.false_and, if_neg (by decide), hk]
  · obtain ⟨x, hx⟩ := pools p
    rw [freedInto] at hx
    exact ⟨x, hx⟩
  · have plain := freeBlocks_of_unreserved (s := s.atSettle l i accs r k free as) (j.chain.take freed) hp
    rw [freedInto] at plain
    exact ⟨congrArg State.pools plain, congrArg State.sharedFree plain⟩

/-! ## A run of confirmations -/

/-- The sides of a sheet with the coverages above 0, and those with coverage 0 (R150). -/
def SheetRecord.colour (rec : SheetRecord) : Nat := (if rec.sides = 2 then [rec.covA, rec.covB] else [rec.covA]).countP fun c => 0 < c

def SheetRecord.mono (rec : SheetRecord) : Nat := (if rec.sides = 2 then [rec.covA, rec.covB] else [rec.covA]).countP fun c => c = 0

/-- The lane's record once the entries of the records `recs` are confirmed (R104, R150). -/
def Lane.printed (r : Lane) (rest : List InFlight) (recs : List SheetRecord) : Lane :=
  { r with
    inflight := rest, sheetsOut := min (r.sheetsOut + recs.length) 4294967295
    colourSides := min (r.colourSides + (recs.map SheetRecord.colour).sum) 4294967295
    monoSides := min (r.monoSides + (recs.map SheetRecord.mono).sum) 4294967295 }

theorem confirms_eq (rec : SheetRecord) (rest : List InFlight) : r.confirms (some rec) rest = r.printed rest [rec] := by
  unfold Lane.confirms Lane.printed Lane.meter
  rw [List.map_singleton, List.map_singleton, List.sum_singleton, List.sum_singleton]
  rfl

theorem min_add_min (a b c m : Nat) : min (min (a + b) m + c) m = min (a + (b + c)) m := by omega

theorem printed_printed (mid rest : List InFlight) (rec : SheetRecord) (recs : List SheetRecord) :
    (r.printed mid [rec]).printed rest recs = r.printed rest (rec :: recs) := by
  unfold Lane.printed
  dsimp only
  rw [min_add_min, min_add_min, min_add_min]
  simp only [List.map_cons, List.map_nil, List.sum_cons, List.sum_nil, List.length_cons, List.length_nil]
  congr 2
  all_goals omega

/-- The totals of a job once `n` of its sheet-copies are confirmed for `charge` (R69, R104). -/
def Job.counts (j : Job) (n charge : Nat) : Job :=
  { j with confirmed := min (j.confirmed + n) 4294967295, charge := min (j.charge + charge) 281474976710655 }

/-- A job whose confirm cursor has moved on `n` records on its copy (R104). -/
def Job.movesOn (j : Job) (n : Nat) (send : Cursor) : Job :=
  { j with confirm := { j.confirm with pos := j.confirm.pos + n }, send := send }

theorem movesOn_movesOn (n a b : Nat) (c d : Cursor) :
    (((j.counts 1 a).movesOn 1 c).counts n b).movesOn n d = (j.counts (n + 1) (a + b)).movesOn (n + 1) d := by
  unfold Job.counts Job.movesOn
  dsimp only
  rw [min_add_min, min_add_min, Nat.add_comm 1 n, Nat.add_assoc, Nat.add_comm 1 n]

theorem records_of_recordOf {n : Nat} {rec : SheetRecord} (h : j.recordOf n = some rec) : j.records ≠ [] := by
  intro e
  rw [Job.recordOf, e] at h
  cases h

/-- Confirmations on a copy that is not the final one: the confirm cursor moves on behind each (R104). -/
theorem confirmMany_front {es : List (InFlight × SheetRecord)} {rest : List InFlight} (hne : es ≠ []) (hj : r.job = some i)
    (hi : r.inflight = es.map (·.1) ++ rest) (hrec : ∀ e ∈ es, j.recordOf e.1.sheet = some e.2) (hcopy : j.confirm.copy ≠ j.copies)
    (hmoves : ∀ d, d < es.length → j.cursorMove { j.confirm with pos := j.confirm.pos + d + 1 } = none) :
    ∃ c as', State.confirmMany es.length (s.atSettle l i accs r j free as) l =
        s.atSettle l i (accountsAfter accs (es.map (·.1))) (r.printed rest (es.map (·.2)))
          ((j.counts es.length (chargesOf accs (es.map (·.1)))).movesOn es.length c) free as' ∧
      (j.cursorMove j.send = none → c = j.send) ∧ ∀ b ∈ as', b ∈ as ∨ ∃ e ∈ es, b = e.1.account := by
  induction es generalizing r j accs as with
  | nil => exact absurd rfl hne
  | cons e es ih =>
    have record := hrec e List.mem_cons_self
    have hi' : r.inflight = e.1 :: (es.map (·.1) ++ rest) := hi
    obtain ⟨as1, head, hr1⟩ := confirmHead_atSettle (s := s) (l := l) (accs := accs) (j := j) (free := free) (as := as) hj hi'
    obtain ⟨k, hk⟩ : ∃ k, j.confirms (accs[e.1.account].chargeFor e.1.x) = k := ⟨_, rfl⟩
    have fields : k.records = j.records ∧ k.copies = j.copies ∧ k.confirm = { j.confirm with pos := j.confirm.pos + 1 } ∧ k.send = j.send ∧
        k.cursorMove = j.cursorMove := by
      rw [← hk]
      exact ⟨rfl, rfl, rfl, rfl, rfl⟩
    obtain ⟨hrecords, hcopies, hconfirm, hsend, hmove⟩ := fields
    have first : k.cursorMove k.confirm = none := by
      rw [hmove, hconfirm]
      exact hmoves 0 (by simp)
    obtain ⟨c1, settles, hc1⟩ := settle_atSettle (s := s) (l := l) (i := i) (j := k)
      (accs := accs.set e.1.account (accs[e.1.account].debit e.1.x e.1.estimate)) (r := r.confirms (j.recordOf e.1.sheet) (es.map (·.1) ++ rest))
      (free := free) (as := as1) first
      (by
        unfold Job.hasPassed
        rw [hcopies, hconfirm, beq_eq_false_iff_ne.mpr hcopy, Bool.false_and])
      (completed_eq_false (by rw [hrecords]; exact records_of_recordOf record) (.inl (by rw [hcopies, hconfirm]; exact hcopy)))
    rw [List.length_cons, State.confirmMany, head, hk, settles, record, confirms_eq]
    have same : ({ k with send := c1 } : Job) = (j.counts 1 (accs[e.1.account].chargeFor e.1.x)).movesOn 1 c1 := by
      rw [← hk]
      rfl
    by_cases hes : es = []
    · subst hes
      refine ⟨c1, as1, ?_, fun h => (hc1 (by rw [hmove, hsend]; exact h)).trans hsend, fun b hb => (hr1 b hb).imp id fun h => ⟨e, by simp, h⟩⟩
      rw [same]
      rfl
    · have onward := ih (j := { k with send := c1 }) (r := r.printed (es.map (·.1) ++ rest) [e.2]) (as := as1)
        (accs := accs.set e.1.account (accs[e.1.account].debit e.1.x e.1.estimate)) hes hj rfl
        (fun x hx => by
          rw [show ({ k with send := c1 } : Job).recordOf x.1.sheet = j.recordOf x.1.sheet from congrArg (fun rs => List.find? _ rs) hrecords]
          exact hrec x (List.mem_cons_of_mem e hx))
        (by rw [hconfirm]; exact hcopies ▸ hcopy)
        (fun d hd => by
          have := hmoves (d + 1) (by rw [List.length_cons]; omega)
          rw [show ({ k with send := c1 } : Job).cursorMove = j.cursorMove from hmove, hconfirm]
          rw [show j.confirm.pos + 1 + d + 1 = j.confirm.pos + (d + 1) + 1 by omega]
          exact this)
      obtain ⟨c, as', many, hc, hr⟩ := onward
      refine ⟨c, as', ?_, fun h => ?_, fun b hb => ?_⟩
      · rw [many, printed_printed, same, movesOn_movesOn]
        rfl
      · have kept : c1 = j.send := (hc1 (by rw [hmove, hsend]; exact h)).trans hsend
        exact (hc (by rw [show ({ k with send := c1 } : Job).cursorMove = j.cursorMove from hmove, kept]; exact h)).trans kept
      · rcases hr b hb with h | ⟨x, hx, h⟩
        · exact (hr1 b h).imp id fun h => ⟨e, List.mem_cons_self, h⟩
        · exact .inr ⟨x, List.mem_cons_of_mem e hx, h⟩

/-- A job that has passed the first `n` records of its list on the final copy, which received `bytes` in all (R42 to R44). -/
def Job.passesOn (j : Job) (others : List SheetRecord) (bytes : Nat) (send : Cursor) : Job :=
  { j with
    records := others, send := send, passed := j.passed + bytes
    chain := j.chain.drop (min j.chain.length ((j.passed + bytes) / 4096 - j.released))
    released := j.released + min j.chain.length ((j.passed + bytes) / 4096 - j.released) }

/-- The blocks that a job frees as it passes records that received `bytes` in all (R43). -/
def Job.freedBy (j : Job) (bytes : Nat) : List Nat := j.chain.take (min j.chain.length ((j.passed + bytes) / 4096 - j.released))

theorem freed_freed {n p q r : Nat} (h : p ≤ q) : min n (p / 4096 - r) + min (n - min n (p / 4096 - r)) (q / 4096 - (r + min n (p / 4096 - r))) =
    min n (q / 4096 - r) := by
  have := Nat.div_le_div_right (c := 4096) h
  omega

theorem passesOn_passesOn (others rest : List SheetRecord) (m n a b x y : Nat) (c d : Cursor) :
    ((((j.counts 1 x).passesOn rest a c).counts n y).passesOn others b d) = (j.counts (n + 1) (x + y)).passesOn others (a + b) d ∧
      j.freedBy a ++ ((j.counts m x).passesOn rest a c).freedBy b = j.freedBy (a + b) := by
  have total := freed_freed (n := j.chain.length) (p := j.passed + a) (q := j.passed + (a + b)) (r := j.released) (by omega)
  constructor
  · unfold Job.counts Job.passesOn
    dsimp only
    rw [min_add_min, min_add_min, Nat.add_comm 1 n, List.drop_drop, List.length_drop, Nat.add_assoc, Nat.add_assoc, total]
  · unfold Job.freedBy Job.counts Job.passesOn
    dsimp only
    rw [List.length_drop, Nat.add_assoc, ← total, List.take_add]

/-- Confirmations on the final copy: the first records of the list leave it, with the blocks wholly behind them (R42 to R44, R104). -/
theorem confirmMany_final {es : List (InFlight × SheetRecord)} {rest : List InFlight} {others : List SheetRecord} (hne : es ≠ [])
    (hj : r.job = some i) (hi : r.inflight = es.map (·.1) ++ rest) (hr : j.records = es.map (·.2) ++ others)
    (hn : ∀ e ∈ es, e.2.number = e.1.sheet) (hcopy : j.confirm = ⟨j.copies, 0⟩) (hd : j.state = .cancelling ∨ others ≠ [])
    (hmoves : ∀ d, d < es.length → j.cursorMove { j.confirm with pos := j.confirm.pos + d + 1 } = none)
    (hw : s.waitList = []) :
    ∃ c ps free' as', State.confirmMany es.length (s.atSettle l i accs r j free as) l =
        (s.withPools ps).atSettle l i (accountsAfter accs (es.map (·.1))) (r.printed rest (es.map (·.2)))
          ((j.counts es.length (chargesOf accs (es.map (·.1)))).passesOn others (es.map (·.2.received)).sum c) free' as' ∧
      (es.length = 1 → j.cursorMove j.send = none → c = { j.send with pos := j.send.pos - 1 }) ∧
      (∀ b ∈ as', b ∈ as ∨ ∃ e ∈ es, b = e.1.account) ∧ s.FreesInto ps ∧
      ((∀ p, (s.pool p).reserved = false) → ps = s.pools ∧ free' = free ++ j.freedBy (es.map (·.2.received)).sum) := by
  induction es generalizing s r j accs as free with
  | nil => exact absurd rfl hne
  | cons e es ih =>
    have hi' : r.inflight = e.1 :: (es.map (·.1) ++ rest) := hi
    have hr' : j.records = e.2 :: (es.map (·.2) ++ others) := hr
    have record : j.recordOf e.1.sheet = some e.2 := by
      unfold Job.recordOf
      rw [hr', List.find?_cons, hn e List.mem_cons_self]
      simp
    obtain ⟨as1, head, hr1⟩ := confirmHead_atSettle (s := s) (l := l) (accs := accs) (j := j) (free := free) (as := as) hj hi'
    obtain ⟨k, hk⟩ : ∃ k, j.confirms (accs[e.1.account].chargeFor e.1.x) = k := ⟨_, rfl⟩
    have fields : k.records = j.records ∧ k.copies = j.copies ∧ k.confirm = { j.confirm with pos := j.confirm.pos + 1 } ∧ k.state = j.state ∧
        k.cursorMove = j.cursorMove ∧ k.send = j.send := by
      rw [← hk]
      exact ⟨rfl, rfl, rfl, rfl, rfl, rfl⟩
    obtain ⟨hrecords, hcopies, hconfirm, hstate, hmove, hsend⟩ := fields
    have first : k.cursorMove k.confirm = none := by
      rw [hmove, hconfirm]
      exact hmoves 0 (by simp)
    have more : k.state = .cancelling ∨ es.map (·.2) ++ others ≠ [] := hd.imp (hstate ▸ ·) fun h => by simp [h]
    obtain ⟨c1, ps1, free1, settles, hc1, hps1, plain1⟩ := settle_atSettle_passes (s := s) (l := l) (i := i) (j := k)
      (accs := accs.set e.1.account (accs[e.1.account].debit e.1.x e.1.estimate)) (r := r.confirms (j.recordOf e.1.sheet) (es.map (·.1) ++ rest))
      (free := free) (as := as1) (rec := e.2) (others := es.map (·.2) ++ others) first (by rw [hcopies, hconfirm, hcopy])
      (by rw [hconfirm, hcopy]) (hrecords.trans hr') more hw rfl
    obtain ⟨j1, hj1⟩ : ∃ j1, (j.counts 1 (accs[e.1.account].chargeFor e.1.x)).passesOn (es.map (·.2) ++ others) e.2.received c1 = j1 := ⟨_, rfl⟩
    have same : k.passesFirst e.2 (es.map (·.2) ++ others) c1 (min k.chain.length ((k.passed + e.2.received) / 4096 - k.released)) = j1 := by
      rw [← hj1, ← hk]
      unfold Job.passesFirst Job.confirms Job.confirmTotals Job.passesOn Job.counts
      dsimp only
      rw [hcopy]
      rfl
    have freed : k.chain.take (min k.chain.length ((k.passed + e.2.received) / 4096 - k.released)) = j.freedBy e.2.received := by
      rw [← hk]
      rfl
    rw [freed] at plain1
    rw [List.length_cons, State.confirmMany, head, hk, settles, record, confirms_eq, same]
    have fields1 : j1.records = es.map (·.2) ++ others ∧ j1.copies = j.copies ∧ j1.confirm = j.confirm ∧ j1.state = j.state ∧
        j1.intakeOpen = j.intakeOpen := by
      rw [← hj1]
      exact ⟨rfl, rfl, rfl, rfl, rfl⟩
    obtain ⟨hrecords1, hcopies1, hconfirm1, hstate1, hopen1⟩ := fields1
    have later (m : Nat) (h : j.cursorMove { j.confirm with pos := m + 1 } = none) : j1.cursorMove { j.confirm with pos := m } = none := by
      unfold Job.cursorMove at h ⊢
      dsimp only at h ⊢
      rw [hr', List.getElem?_cons_succ] at h
      rw [hrecords1, hcopies1, hopen1]
      cases hx : (es.map (·.2) ++ others)[m]? with
      | none =>
        rw [hx] at h
        exact h
      | some x =>
        rw [hx] at h
        by_cases passable : x.cond.passable = true
        · simp [passable] at h
        · exact if_neg passable
    by_cases hes : es = []
    · subst hes
      refine ⟨c1, ps1, free1, as1, ?_, fun _ h => ?_, fun b hb => (hr1 b hb).imp id fun h => ⟨e, by simp, h⟩, hps1, fun hp => ?_⟩
      · rw [← hj1, List.map_singleton, List.map_singleton, List.map_singleton, List.sum_singleton]
        rfl
      · rw [hc1 (by rw [hmove, hsend]; exact h), hsend]
      · rw [List.map_singleton, List.sum_singleton]
        exact plain1 hp
    · obtain ⟨c, ps, free', as', many, -, hr2, hps, plain⟩ := ih (s := s.withPools ps1) (j := j1) (r := r.printed (es.map (·.1) ++ rest) [e.2])
        (as := as1) (free := free1)
        (accs := accs.set e.1.account (accs[e.1.account].debit e.1.x e.1.estimate)) hes hj rfl hrecords1
        (fun x hx => hn x (List.mem_cons_of_mem e hx)) (by rw [hconfirm1, hcopies1, hcopy]) (hstate1 ▸ hd)
        (fun d hd => by
          rw [hconfirm1]
          exact later _ (hmoves (d + 1) (by rw [List.length_cons]; omega))) hw
      obtain ⟨onward, freedAll⟩ := passesOn_passesOn (j := j) others (es.map (·.2) ++ others) 1 es.length e.2.received (es.map (·.2.received)).sum
        (accs[e.1.account].chargeFor e.1.x)
        (chargesOf (accs.set e.1.account (accs[e.1.account].debit e.1.x e.1.estimate)) (es.map (·.1))) c1 c
      rw [hj1] at onward freedAll
      refine ⟨c, ps, free', as', ?_, fun h => absurd (List.length_eq_zero_iff.mp (Nat.succ_injective h)) hes, fun b hb => ?_,
        hps1.trans hps, fun hp => ?_⟩
      · rw [many, printed_printed, onward]
        rfl
      · rcases hr2 b hb with h | ⟨x, hx, h⟩
        · exact (hr1 b h).imp id fun h => ⟨e, List.mem_cons_self, h⟩
        · exact .inr ⟨x, List.mem_cons_of_mem e hx, h⟩
      · obtain ⟨hps1', hfree1⟩ := plain1 hp
        obtain ⟨hps', hfree⟩ := plain (fun p => by
          rw [show (s.withPools ps1).pool p = ps1[p] from rfl, hps1']
          exact hp p)
        refine ⟨hps'.trans hps1', ?_⟩
        rw [hfree, hfree1, List.append_assoc, freedAll]
        rfl

end

end Sys2Proof.Machine
end

section
/-! PROOF. What a job's leaving of its lane (R56, R83), its release (R45, R68), a release pass (R43) and a walk (R38) leave as it was, and
what they add to the queues. -/

namespace Sys2Proof.Machine

/-! ## What a walk and a release pass leave -/

/-- The state without what a walk, a release pass and a job's end change: jobs, pools, the cache, the free queues, the wait list, the
notice queue and what is left to carry out. -/
def State.outside (s : State) : State := { s with
  jobs := Vector.replicate 256 Job.vacant, pools := Vector.replicate 8 Pool.afterReset, cache := Vector.replicate 64 ⟨false, 0, 0⟩
  sharedFree := [], waitList := [], notices := [], noticeDrops := 0, todo := Todo.nothing }

section
variable {s t : State} {i : Slot}

/-- What a state shares with one that differs in those parts alone. -/
theorem of_outside (h : t.outside = s.outside) : t.lanes = s.lanes ∧ t.accounts = s.accounts ∧ t.alerts = s.alerts ∧ t.mem = s.mem ∧
    t.sent = s.sent ∧ t.queue = s.queue ∧ t.tick = s.tick ∧ t.station = s.station := by
  have same {β : Type} (f : State → β) (hf : ∀ u : State, f u.outside = f u) : f t = f s := by rw [← hf t, h, hf]
  exact ⟨same State.lanes fun _ => rfl, same State.accounts fun _ => rfl, same State.alerts fun _ => rfl, same State.mem fun _ => rfl,
    same State.sent fun _ => rfl, same State.queue fun _ => rfl, same State.tick fun _ => rfl, same State.station fun _ => rfl⟩

theorem outside_notice (n : Notice) : (s.notice n).outside = s.outside := by
  obtain ⟨ns, drops, h⟩ := exists_notice_eq s n
  rw [h]
  rfl

theorem outside_walk : s.walk.outside = s.outside := by
  obtain ⟨js, w, ns, drops, h⟩ := exists_walk_eq (s := s)
  rw [h]
  rfl

theorem outside_freeBlocks (bs : List Nat) : (s.freeBlocks bs).outside = s.outside := by
  obtain ⟨free, ps, h⟩ := exists_freeBlocks_eq (s := s) bs
  rw [h]
  rfl

theorem outside_releasePass : (s.releasePass i).outside = s.outside := by
  unfold State.releasePass
  split
  · dsimp only
    split
    · rw [outside_walk, outside_freeBlocks]
      rfl
    · rw [outside_freeBlocks]
      rfl
  · rfl

/-! ## The notice queue grows -/

theorem notices_grow_notice (n : Notice) : s.notices <+: (s.notice n).notices := by
  unfold State.notice
  split
  · exact List.prefix_append _ _
  · exact List.prefix_rfl

theorem notices_grow_grantTo : s.notices <+: (s.grantTo i).notices := by
  unfold State.grantTo
  split
  · exact List.prefix_rfl
  · dsimp only
    split
    · exact notices_grow_notice (s := s.modJob i _) _
    · exact notices_grow_notice (s := s.modJob i _) _

theorem notices_grow_walk : s.notices <+: s.walk.notices :=
  foldl_related (R := fun a b => a.notices <+: b.notices) (fun _ => List.prefix_rfl) List.IsPrefix.trans (fun _ _ => notices_grow_grantTo) _ _

/-! ## The jobs and pools that a walk and a release pass leave -/

theorem job_grantTo_of_ne {k : Slot} (h : k ≠ i) : (s.grantTo i).job k = s.job k := by
  unfold State.grantTo
  split
  · rfl
  · dsimp only
    split
    · rw [State.job_notice]
      exact (State.job_setJob ..).trans (if_neg (Ne.symm h))
    · show (State.notice _ _).job k = s.job k
      rw [State.job_notice]
      exact (State.job_setJob ..).trans (if_neg (Ne.symm h))

theorem job_walk_of_not_waiting (h : i ∉ s.waitList) : s.walk.job i = s.job i := by
  unfold State.walk
  generalize s.waitList = w at h
  induction w generalizing s with
  | nil => rfl
  | cons k w ih =>
    rw [List.mem_cons, not_or] at h
    rw [List.foldl_cons, ih h.2, job_grantTo_of_ne h.1]

theorem pool_walk (p : PoolNo) : s.walk.pool p = s.pool p := by
  obtain ⟨js, w, ns, drops, h⟩ := exists_walk_eq (s := s)
  rw [h]
  rfl

theorem job_freeBlocks (bs : List Nat) (k : Slot) : (s.freeBlocks bs).job k = s.job k := by
  obtain ⟨free, ps, h⟩ := exists_freeBlocks_eq (s := s) bs
  rw [h]
  rfl

theorem todo_freeBlocks (bs : List Nat) : (s.freeBlocks bs).todo = s.todo := by
  obtain ⟨free, ps, h⟩ := exists_freeBlocks_eq (s := s) bs
  rw [h]
  rfl

theorem waitList_freeBlocks (bs : List Nat) : (s.freeBlocks bs).waitList = s.waitList := by
  obtain ⟨free, ps, h⟩ := exists_freeBlocks_eq (s := s) bs
  rw [h]
  rfl

theorem notices_freeBlocks (bs : List Nat) : (s.freeBlocks bs).notices = s.notices ∧ (s.freeBlocks bs).noticeDrops = s.noticeDrops := by
  obtain ⟨free, ps, h⟩ := exists_freeBlocks_eq (s := s) bs
  rw [h]
  exact ⟨rfl, rfl⟩

theorem todo_walk : s.walk.todo = s.todo := by
  obtain ⟨js, w, ns, drops, h⟩ := exists_walk_eq (s := s)
  rw [h]
  rfl

/-- A job's record without what a settling of its cursors and a grant change (R38, R42 to R44, R89 to R91). -/
def Job.standing (j : Job) : Job := { j with
  records := [], chain := [], send := ⟨0, 0⟩, confirm := ⟨0, 0⟩, passed := 0, released := 0, granted := 0, promised := 0, promisedShared := 0 }

theorem standing_walk (k : Slot) : (s.walk.job k).standing = (s.job k).standing := by
  obtain ⟨g, p, q, h⟩ := job_walk (s := s) k
  rw [h]
  rfl

/-! ## Relaying -/

/-- The alert records of `t` are those of `s`, relayed or not. -/
def State.relays (s t : State) : Prop :=
  (∀ k : Fin 32, s.alerts[k] = none → t.alerts[k] = none) ∧
    ∀ (k : Fin 32) x, s.alerts[k] = some x → ∃ b, t.alerts[k] = some { x with relayed := b }

theorem relays_refl (s : State) : s.relays s := ⟨fun _ h => h, fun _ x h => ⟨x.relayed, h⟩⟩

theorem relays_trans {a b c : State} (h : a.relays b) (h' : b.relays c) : a.relays c := by
  refine ⟨fun k hk => h'.1 k (h.1 k hk), fun k x hx => ?_⟩
  obtain ⟨r, hr⟩ := h.2 k x hx
  obtain ⟨r', hr'⟩ := h'.2 k _ hr
  exact ⟨r', hr'⟩

theorem relays_relayHeld (p : AlertRecord → Bool) (m : Fin 32) : s.relays (s.relayHeld p m) := by
  unfold State.relayHeld
  split
  · rename_i r hr
    split
    · refine ⟨fun k hk => ?_, fun k x hx => ?_⟩
      · have other : m.val ≠ k.val := fun e => by
          rw [show m = k from Fin.ext e, hk] at hr
          cases hr
        exact (Vector.getElem_set_ne m.2 k.2 other).trans hk
      · by_cases same : m = k
        · subst same
          rw [hr] at hx
          cases hx
          exact ⟨_, Vector.getElem_set_self ..⟩
        · exact ⟨x.relayed, (Vector.getElem_set_ne m.2 k.2 (fun e => same (Fin.ext e))).trans hx⟩
    · exact relays_refl s
  · exact relays_refl s

theorem relays_relayUnmasked (p : AlertRecord → Bool) : s.relays (s.relayUnmasked p) :=
  foldl_related relays_refl relays_trans (fun _ k => relays_relayHeld p k) _ _

theorem notices_grow_relayUnmasked (p : AlertRecord → Bool) : s.notices <+: (s.relayUnmasked p).notices := by
  refine foldl_related (R := fun a b => a.notices <+: b.notices) (fun _ => List.prefix_rfl) List.IsPrefix.trans (fun t k => ?_) _ _
  rcases relayHeld_noticesFrom t p k with h | ⟨n, h, -⟩
  · rw [h.1]
  · rw [h]
    exact notices_grow_notice n

theorem relayUnmasked_frame (p : AlertRecord → Bool) : s.relayUnmasked p = { s with
    alerts := (s.relayUnmasked p).alerts, notices := (s.relayUnmasked p).notices, noticeDrops := (s.relayUnmasked p).noticeDrops } :=
  foldl_related (R := fun a b => b = { a with alerts := b.alerts, notices := b.notices, noticeDrops := b.noticeDrops }) (fun _ => rfl)
    (fun h h' => by rw [h', h]) (fun t k => relayHeld_frame t p k) _ _

end

/-! ## Leaving a lane -/

/-- The settings of a lane that its job leaves: a pending set becomes the current one (R83). -/
def Lane.newSet (r : Lane) : Settings := (r.pendingSet.map (·.1)).getD r.current

/-- A lane that its job leaves is READY then (R54, R56). -/
def Lane.readies (r : Lane) : Bool := decide (r.state = .bound) && r.newSet.enable

/-- The record of a lane that its job leaves (R56, R83, R107). -/
def Lane.left (r : Lane) : Lane :=
  { r with
    job := none, reoffer := none, retained := none, pendingSet := none, current := r.newSet
    state := if r.state = .bound then if r.newSet.enable = true then .ready else .offline else r.state }

/-- The completion of a LANE-SET that a lane holds as its job leaves (R83). -/
def Lane.setDone (r : Lane) : List Completion :=
  (r.pendingSet.map fun x => (⟨x.2, .done, val32 (laneStateCode r.left.state), 1⟩ : Completion)).toList

section
variable {s t : State} {i : Slot} {l : LaneNo}

/-- The state in which lane `l` has the record that its job's leaving gives it, before a pending LANE-SET completes (R54, R56). -/
def State.vacatesLane (s : State) (l : LaneNo) : State := { s with
  lanes := s.lanes.set l (s.lane l).left
  pools := if (s.lane l).readies = true then s.pools.set (s.lane l).newSet.pool { s.pool (s.lane l).newSet.pool with
    ready := (s.pool (s.lane l).newSet.pool).ready ++ [l] } else s.pools
  todo := { s.todo with pools := if (s.lane l).readies = true then s.todo.pools ++ [(s.lane l).newSet.pool] else s.todo.pools } }

theorem lane_vacatesLane : (s.vacatesLane l).lane l = (s.lane l).left := State.lane_setLane_self ..

/-- The record of a lane that its job leaves, before the lane waits for work (R56, R83). -/
def Lane.freed (r : Lane) : Lane :=
  { r with job := none, reoffer := none, retained := none, pendingSet := none, current := r.newSet }

/-- A BOUND lane that its job leaves waits for work, and another keeps its state (R56). -/
theorem waits_eq : (if ((s.setLane l (s.lane l).freed).lane l).state = .bound then (s.setLane l (s.lane l).freed).enterIdle l
    else s.setLane l (s.lane l).freed) = s.vacatesLane l := by
  rw [State.lane_setLane_self, enterIdle_setLane]
  unfold State.waitsAs State.vacatesLane Lane.readies
  by_cases hb : (s.lane l).state = .bound
  · have hb' : (s.lane l).freed.state = .bound := hb
    by_cases he : (s.lane l).newSet.enable = true
    · have left : (s.lane l).left = { (s.lane l).freed with state := .ready } := by
        unfold Lane.left
        rw [if_pos hb, if_pos he]
        rfl
      rw [if_pos hb', if_pos (show (s.lane l).freed.current.enable = true from he), left, hb, he]
      rfl
    · have left : (s.lane l).left = { (s.lane l).freed with state := .offline } := by
        unfold Lane.left
        rw [if_pos hb, if_neg he]
        rfl
      rw [if_pos hb', if_neg (show ¬(s.lane l).freed.current.enable = true from he), left, Bool.eq_false_iff.mpr he]
      simp
      rfl
  · have left : (s.lane l).left = (s.lane l).freed := by
      unfold Lane.left
      rw [if_neg hb]
      rfl
    rw [if_neg (show ¬(s.lane l).freed.state = .bound from hb), left]
    simp [hb]
    rfl

theorem freed_eq {r : Lane} : r.freed = { r with
    job := none, reoffer := none, retained := none, pendingSet := none, current := (r.pendingSet.map (·.1)).getD r.current } := rfl

/-- The lane's side of a job's leaving where no set is held (R56). -/
theorem unbind_of_none (h : (s.lane l).pendingSet = none) : s.unbind l = s.vacatesLane l := by
  unfold State.unbind State.modLane
  dsimp only
  rw [← freed_eq, waits_eq, h]

/-- The lane's side of a job's leaving where a set is held, which its LANE-SET completes (R56, R83). -/
theorem unbind_of_some {set : Settings} {p : QueuePtr} (h : (s.lane l).pendingSet = some (set, p)) : s.unbind l =
    ((s.vacatesLane l).complete p .done (val32 (laneStateCode (s.lane l).left.state)) 1).relayUnmasked
      (unmaskedOnLane l (s.lane l).current.mask set.mask) := by
  unfold State.unbind State.modLane
  dsimp only
  rw [← freed_eq, waits_eq, h, lane_vacatesLane]

/-- What a job's leaving of its lane changes: the records of the two, the lane's pool, the completion of a pending LANE-SET, and the relays
of the alerts that it unmasks. -/
theorem leaveLane_eq (hl : (s.job i).lane = some l) : ∃ alerts ns drops, s.leaveLane i = ({ s.vacatesLane l with
      jobs := s.jobs.set i { s.job i with lane := none }, alerts := alerts, notices := ns, noticeDrops := drops
      todo := { (s.vacatesLane l).todo with done := s.todo.done ++ (s.lane l).setDone } } : State) ∧
    s.relays (s.leaveLane i) ∧ s.notices <+: ns ∧
    (((s.lane l).pendingSet ≠ none → ∀ (k : Fin 32) x, s.alerts[k] = some x → x.relayed = true) →
      alerts = s.alerts ∧ ns = s.notices ∧ drops = s.noticeDrops) := by
  have unbound : s.leaveLane i = (s.setJob i { s.job i with lane := none }).unbind l := by
    unfold State.leaveLane
    rw [hl]
    rfl
  cases h : (s.lane l).pendingSet with
  | none =>
    have left := unbind_of_none (s := s.setJob i { s.job i with lane := none }) (l := l) h
    have quiet : (s.lane l).setDone = [] := by
      unfold Lane.setDone
      rw [h]
      rfl
    refine ⟨s.alerts, s.notices, s.noticeDrops, ?_, ?_, List.prefix_rfl, fun _ => ⟨rfl, rfl, rfl⟩⟩
    · rw [unbound, left, quiet, List.append_nil]
      rfl
    · rw [unbound, left]
      exact relays_refl s
  | some x =>
    obtain ⟨set, p⟩ := x
    have left := unbind_of_some (s := s.setJob i { s.job i with lane := none }) (l := l) h
    have noted : (s.lane l).setDone = [⟨p, .done, val32 (laneStateCode (s.lane l).left.state), 1⟩] := by
      unfold Lane.setDone
      rw [h]
      rfl
    obtain ⟨v, hv⟩ : ∃ v, ((s.setJob i { s.job i with lane := none }).vacatesLane l).complete p .done
      (val32 (laneStateCode (s.lane l).left.state)) 1 = v := ⟨_, rfl⟩
    have same : s.alerts = v.alerts ∧ s.notices = v.notices ∧ s.noticeDrops = v.noticeDrops := by
      rw [← hv]
      exact ⟨rfl, rfl, rfl⟩
    obtain ⟨halerts, hnotices, hdrops⟩ := same
    rw [show (State.complete (State.vacatesLane (s.setJob i { s.job i with lane := none }) l) p .done
      (val32 (laneStateCode ((s.setJob i { s.job i with lane := none }).lane l).left.state)) 1) = v from hv] at left
    generalize unmaskedOnLane l _ _ = g at left
    rw [unbound, left]
    refine ⟨(v.relayUnmasked g).alerts, (v.relayUnmasked g).notices, (v.relayUnmasked g).noticeDrops, (relayUnmasked_frame (s := v) g).trans ?_,
      ?_, ?_, fun hr => ?_⟩
    · rw [← hv, noted]
      rfl
    · have relayed := relays_relayUnmasked (s := v) g
      unfold State.relays at relayed ⊢
      rw [halerts]
      exact relayed
    · rw [hnotices]
      exact notices_grow_relayUnmasked g
    · rw [relayUnmasked_of_relayed (s := v) (by rw [← halerts]; exact hr (by simp)) g]
      exact ⟨halerts.symm, hnotices.symm, hdrops.symm⟩

end

/-! ## A job that leaves its lane for good -/

/-- What the leaving of lane `l` by the job of slot `i`, told by the notice `n` and with the completions `done` of its directives,
leaves and changes besides the job's record (R50, R56, R68, R83). -/
structure State.Departs (s t : State) (l : LaneNo) (i : Slot) (n : Notice) (done : List Completion) : Prop where
  lanes : t.lanes = s.lanes.set l (s.lane l).left
  kept : t.accounts = s.accounts ∧ t.mem = s.mem ∧ t.sent = s.sent ∧ t.queue = s.queue ∧ t.tick = s.tick ∧ t.station = s.station
  alerts : s.relays t
  pools : ∀ p, (t.pool p).ready = ((s.vacatesLane l).pool p).ready ∧ (t.pool p).classes = (s.pool p).classes
  todo : t.todo = { (s.vacatesLane l).todo with done := t.todo.done }
  done : t.todo.done = s.todo.done ++ done
  notices : (s.notice n).notices <+: t.notices
  quiet : ((s.lane l).pendingSet ≠ none → ∀ (k : Fin 32) x, s.alerts[k] = some x → x.relayed = true) → s.waitList = [] →
    t.notices = (s.notice n).notices ∧ t.noticeDrops = (s.notice n).noticeDrops
  others : s.waitList = [] → ∀ k, k ≠ i → t.job k = s.job k
  standing : ∀ k, k ≠ i → (t.job k).standing = (s.job k).standing

section
variable {s : State} {i : Slot} {l : LaneNo}

theorem notice_vacatesLane (n : Notice) : ∃ ns drops, s.notice n = s.atNotices ns drops ∧
    (s.notice n).vacatesLane l = (s.vacatesLane l).atNotices ns drops := by
  obtain ⟨ns, drops, h⟩ := exists_notice_eq s n
  exact ⟨ns, drops, h, by rw [h]; rfl⟩

theorem completeOpt_eq (p : Option QueuePtr) (r : Result) (v1 v2 : Word32) : s.completeOpt p r v1 v2 =
    s.withTodo { s.todo with done := s.todo.done ++ (p.map fun q => (⟨q, r, v1, v2⟩ : Completion)).toList } := by
  cases p with
  | none =>
    rw [completeOpt_none, Option.map_none, Option.toList_none, List.append_nil]
    rfl
  | some q => rfl

theorem classes_vacatesLane (p : PoolNo) : ((s.vacatesLane l).pool p).classes = (s.pool p).classes := by
  unfold State.vacatesLane State.pool
  dsimp only
  split
  · rw [Fin.getElem_fin, Vector.getElem_set]
    split
    · rename_i h
      exact congrArg (fun q : PoolNo => s.pools[q].classes) (Fin.ext h)
    · rfl
  · rfl

theorem ready_vacatesLane (h : (s.lane l).readies = true) :
    ((s.vacatesLane l).pool (s.lane l).newSet.pool).ready = (s.pool (s.lane l).newSet.pool).ready ++ [l] := by
  unfold State.vacatesLane State.pool
  dsimp only
  rw [if_pos h, Fin.getElem_fin, Vector.getElem_set_self]

theorem pools_vacatesLane_of_not (h : (s.lane l).readies = false) : (s.vacatesLane l).pools = s.pools := by
  unfold State.vacatesLane
  dsimp only
  rw [h]
  rfl

/-- A job that enters HELD (R50, R58). -/
theorem enterHeld_departs (hl : (s.job i).lane = some l) : s.Departs (s.enterHeld i) l i (.held i (s.job i).tag (s.job i).reasons)
      (((s.job i).pendingHold.map fun q => (⟨q, .done, val32 (reasonsCode (s.job i).reasons), 0⟩ : Completion)).toList ++
        (s.lane l).setDone) ∧
    (s.enterHeld i).job i = { s.job i with state := .held, pendingHold := none, lane := none } := by
  obtain ⟨ns, drops, hn⟩ := exists_notice_eq s (.held i (s.job i).tag (s.job i).reasons)
  obtain ⟨y, hy⟩ : ∃ y, (((s.atNotices ns drops).setJob i { s.job i with state := .held, pendingHold := none }).completeOpt
      (s.job i).pendingHold .done (val32 (reasonsCode (s.job i).reasons)) 0) = y := ⟨_, rfl⟩
  have enters : s.enterHeld i = y.leaveLane i := by
    unfold State.enterHeld
    rw [State.modJob, notice_setJob, hn]
    dsimp only
    rw [hy]
  rw [completeOpt_eq] at hy
  have job : y.job i = { s.job i with state := .held, pendingHold := none } := by rw [← hy]; exact State.job_setJob_self ..
  have lane : y.lane l = s.lane l := by rw [← hy]; rfl
  obtain ⟨alerts, ns', drops', left, relays, grows, quiet⟩ := leaveLane_eq (s := y) (i := i) (l := l) (by rw [job]; exact hl)
  rw [enters]
  have notices : (s.notice (.held i (s.job i).tag (s.job i).reasons)).notices = y.notices ∧
      (s.notice (.held i (s.job i).tag (s.job i).reasons)).noticeDrops = y.noticeDrops := by
    rw [hn, ← hy]
    exact ⟨rfl, rfl⟩
  have others : ∀ k, k ≠ i → (y.leaveLane i).job k = s.job k := fun k hk => by
    rw [left, ← hy]
    show (State.setJob _ i _).job k = s.job k
    rw [State.job_setJob, if_neg (Ne.symm hk)]
    exact (State.job_setJob ..).trans (if_neg (Ne.symm hk))
  refine ⟨⟨?_, ?_, ?_, ?_, ?_, ?_, ?_, ?_, fun _ => others, fun k hk => congrArg Job.standing (others k hk)⟩, ?_⟩
  · rw [left, lane, ← hy]
    rfl
  · rw [left, ← hy]
    exact ⟨rfl, rfl, rfl, rfl, rfl, rfl⟩
  · have same : y.alerts = s.alerts := by rw [← hy]; rfl
    unfold State.relays at relays ⊢
    rw [← same]
    exact relays
  · intro p
    have pools : (y.leaveLane i).pools = (s.vacatesLane l).pools := by
      rw [left, ← hy]
      rfl
    have pool : (y.leaveLane i).pool p = (s.vacatesLane l).pool p := congrArg (fun v : Vector Pool 8 => v[p]) pools
    rw [pool]
    exact ⟨rfl, classes_vacatesLane p⟩
  · rw [left, ← hy]
    rfl
  · rw [left, ← hy]
    exact List.append_assoc ..
  · rw [left, notices.1]
    exact grows
  · intro hr _
    have relayed : (y.lane l).pendingSet ≠ none → ∀ (k : Fin 32) x, y.alerts[k] = some x → x.relayed = true := by
      rw [lane, show y.alerts = s.alerts by rw [← hy]; rfl]
      exact hr
    obtain ⟨-, hns, hdrops⟩ := quiet relayed
    rw [left, notices.1, notices.2]
    exact ⟨hns, hdrops⟩
  · rw [left, job]
    exact State.job_setJob_self ..

/-- A job that is released from its lane (R45, R56, R58, R68). -/
theorem releaseJob_departs (hl : (s.job i).lane = some l) (hq : (s.job i).state ≠ .queued) (c : Bool) :
    s.Departs (s.releaseJob i c) l i ((s.job i).farewell i c)
      ((s.lane l).setDone ++ ((s.job i).pendingCancel.map fun q => (⟨q, .done, 0, 0⟩ : Completion)).toList ++
        ((s.job i).pendingHold.map fun q => (⟨q, .state, 0, 0⟩ : Completion)).toList) ∧
    (s.releaseJob i c).job i = Job.vacant := by
  obtain ⟨ns, drops, hn⟩ := exists_notice_eq s ((s.job i).farewell i c)
  obtain ⟨alerts, ns', drops', left, relays, grows, quiet⟩ := leaveLane_eq (s := s.atNotices ns drops) (i := i) (l := l) hl
  have kept : ((s.atNotices ns drops).leaveLane i).lanes = s.lanes.set l (s.lane l).left ∧
      (((s.atNotices ns drops).leaveLane i).accounts = s.accounts ∧ ((s.atNotices ns drops).leaveLane i).mem = s.mem ∧
        ((s.atNotices ns drops).leaveLane i).sent = s.sent ∧ ((s.atNotices ns drops).leaveLane i).queue = s.queue ∧
        ((s.atNotices ns drops).leaveLane i).tick = s.tick ∧ ((s.atNotices ns drops).leaveLane i).station = s.station) ∧
      ((s.atNotices ns drops).leaveLane i).waitList = s.waitList ∧ ((s.atNotices ns drops).leaveLane i).pools = (s.vacatesLane l).pools ∧
      ((s.atNotices ns drops).leaveLane i).todo = { (s.vacatesLane l).todo with done := s.todo.done ++ (s.lane l).setDone } ∧
      ((s.atNotices ns drops).leaveLane i).notices = ns' ∧ ((s.atNotices ns drops).leaveLane i).noticeDrops = drops' ∧
      ∀ k, k ≠ i → ((s.atNotices ns drops).leaveLane i).job k = s.job k := by
    rw [left]
    exact ⟨rfl, ⟨rfl, rfl, rfl, rfl, rfl, rfl⟩, rfl, rfl, rfl, rfl, rfl, fun k hk => (State.job_setJob ..).trans (if_neg (Ne.symm hk))⟩
  have before : s.releaseJob i c = (((((((((s.atNotices ns drops).leaveLane i).freeBlocks (s.job i).chain).leaveWait i).forgetSlot i).setJob i
      Job.vacant).completeOpt (s.job i).pendingCancel .done 0 0).completeOpt (s.job i).pendingHold .state 0 0).walk) := by
    unfold State.releaseJob
    dsimp only
    rw [← Job.farewell, if_neg hq, hn]
  obtain ⟨hlanes, hkept, hwait, hpools, htodo, hns, hdrops, hjobs⟩ := kept
  clear left
  generalize (s.atNotices ns drops).leaveLane i = w at *
  obtain ⟨free, ps, freed⟩ := exists_freeBlocks_eq (s := w) (s.job i).chain
  have pools := pool_freeBlocks (s := w) (s.job i).chain
  rw [freed] at pools
  rw [freed, completeOpt_eq, completeOpt_eq] at before
  generalize hv : ((((((w.atFree free ps).leaveWait i).forgetSlot i).setJob i Job.vacant).withTodo _).withTodo _) = v at before
  have same : v.outside = w.outside ∧ v.notices = w.notices ∧ v.noticeDrops = w.noticeDrops ∧ v.waitList = w.waitList.filter (· != i) := by
    rw [← hv]
    unfold State.withTodo State.setJob State.forgetSlot State.leaveWait State.atFree State.outside
    dsimp only
    exact ⟨rfl, rfl, rfl, rfl⟩
  obtain ⟨hside, hvn, hvd, hvw⟩ := same
  have alone : s.waitList = [] → v.walk = v := fun h => walk_of_none v (by rw [hvw, hwait, h]; rfl)
  obtain ⟨vlanes, vaccounts, valerts, vmem, vsent, vqueue, vtick, vstation⟩ := of_outside (outside_walk.trans hside)
  have others : ∀ k, k ≠ i → v.job k = s.job k := fun k hk => by
    rw [← hv]
    show (State.setJob _ i _).job k = s.job k
    rw [State.job_setJob, if_neg (Ne.symm hk)]
    exact hjobs k hk
  rw [before]
  refine ⟨⟨?_, ?_, ?_, ?_, ?_, ?_, ?_, ?_, fun hw k hk => ?_, fun k hk => ?_⟩, ?_⟩
  · rw [vlanes, hlanes]
  · rw [vaccounts, vmem, vsent, vqueue, vtick, vstation]
    exact hkept
  · unfold State.relays at relays ⊢
    rw [valerts]
    exact relays
  · intro p
    obtain ⟨fr, hp⟩ := pools p
    have after : v.pool p = { (s.vacatesLane l).pool p with free := fr } := by
      rw [show (s.vacatesLane l).pool p = w.pool p from congrArg (fun x : Vector Pool 8 => x[p]) hpools.symm, ← hp, ← hv]
      rfl
    rw [pool_walk, after]
    exact ⟨rfl, classes_vacatesLane p⟩
  · rw [todo_walk, ← hv]
    show ({ w.todo with done := _ } : Todo) = _
    rw [htodo]
    rfl
  · rw [todo_walk, ← hv]
    show w.todo.done ++ _ ++ _ = _
    rw [htodo]
    show s.todo.done ++ (s.lane l).setDone ++ _ ++ _ = _
    rw [List.append_assoc, List.append_assoc, List.append_assoc]
  · refine List.IsPrefix.trans ?_ notices_grow_walk
    rw [hvn, hns, hn]
    exact grows
  · intro hr hw
    obtain ⟨-, qns, qdrops⟩ := quiet hr
    rw [alone hw, hvn, hvd, hns, hdrops, hn]
    exact ⟨qns, qdrops⟩
  · rw [alone hw]
    exact others k hk
  · rw [standing_walk, others k hk]
  · rw [job_walk_of_not_waiting (by rw [hvw]; simp), ← hv]
    exact State.job_setJob_self ..

end

end Sys2Proof.Machine
end

section
/-! PROOF. OUT (R103 to R105): settles O54. -/

namespace Sys2Proof.Machine

section
variable {s : State} {l : LaneNo} {i : Slot} {accs : Vector Account 1024} {r : Lane} {j : Job} {free : List Nat} {as : List AccountNo}

/-! ## An event that settles a lane and its job -/

theorem atSettle_start {r : Lane} : s.begin.setLane l r = s.begin.atSettle l i s.accounts r (s.job i) s.sharedFree [] := by
  have same : s.jobs = s.jobs.set i (s.job i) := (congrArg State.jobs (setJob_job s i)).symm
  unfold State.atSettle State.setLane State.begin
  dsimp only
  rw [← same]
  rfl

/-- The end of an event that has settled a lane and its job, where no job of the accounts whose headroom rose holds FUNDS. -/
theorem finish_atSettle (hj : j.account = (s.job i).account) (hf : j.reasons.funds = (s.job i).reasons.funds)
    (ha : ∀ a ∈ as, ∀ k, (s.job k).account = a → (s.job k).reasons.funds = false) :
    (s.begin.atSettle l i accs r j free as).finish =
      ({ s with accounts := accs, lanes := s.lanes.set l r, jobs := s.jobs.set i j, sharedFree := free } : State).settled := by
  refine finish_withRisen (s := s.begin.atSettle l i accs r j free []) rfl fun a h k => ?_
  have job : (s.begin.atSettle l i accs r j free []).job k = if i = k then j else s.job k := State.job_setJob ..
  rw [job]
  split
  · rename_i e
    subst e
    rw [hj, hf]
    exact ha a h i
  · exact ha a h k

/-- How many entries an OUT confirms (R103). -/
theorem confirmedBy_append {es rest : List InFlight} {last : InFlight} (hl : es.getLast? = some last)
    (hd : ∀ e ∈ es.dropLast, e.seq ≠ last.seq) : confirmedBy (es ++ rest) (some last.seq) = es.length := by
  obtain ⟨front, rfl⟩ : ∃ front, es = front ++ [last] := List.getLast?_eq_some_iff.mp hl
  rw [List.dropLast_concat] at hd
  have found : (front ++ [last] ++ rest).findIdx? (fun e => e.seq == last.seq) = some front.length := by
    rw [List.append_assoc, List.findIdx?_append, List.findIdx?_eq_none_iff.mpr fun e he => by simpa using hd e he]
    simp [List.findIdx?_cons]
  unfold confirmedBy
  dsimp only
  rw [found]
  simp

/-- After an OUT that leaves nothing to hold and nothing to offer, nothing more follows (R105). -/
theorem afterOut_of_quiet (hj : r.job = some i) (hl : j.lane = some l)
    (h : j.state = .printing ∧ (r.offer ≠ none ∨ r.state = .mediaWait) ∨ j.state = .holding ∧ r.inflight ≠ [] ∨ j.state = .cancelling) :
    (s.atSettle l i accs r j free as).afterOut l = s.atSettle l i accs r j free as := by
  have holds : (s.atSettle l i accs r j free as).settleHolding i = s.atSettle l i accs r j free as := by
    rcases h with ⟨h, -⟩ | ⟨-, h⟩ | h
    · exact settleHolding_of_out (l := l) (by rw [job_atSettle]; exact hl) (.inl (by rw [job_atSettle]; exact h))
    · exact settleHolding_of_out (l := l) (by rw [job_atSettle]; exact hl) (.inr (by rw [lane_atSettle]; exact h))
    · unfold State.settleHolding
      rw [job_atSettle, h]
      rfl
  have none_offered : (s.atSettle l i accs r j free as).offerable l = none := offerable_eq_none fun k rec can => by
    have job := can.job
    rw [lane_atSettle, hj] at job
    cases job
    have printing := can.printing
    have bound := can.bound
    have offer := can.offer
    rw [job_atSettle] at printing
    rw [lane_atSettle] at bound offer
    rcases h with ⟨-, h | h⟩ | ⟨h, -⟩ | h
    · exact h offer
    · rw [h] at bound
      cases bound
    · rw [h] at printing
      cases printing
    · rw [h] at printing
      cases printing
  unfold State.afterOut
  rw [lane_atSettle, hj]
  dsimp only
  rw [holds, offerStep_of_none _ _ none_offered]

/-- An OUT that names one of a lane's entries confirms those up to it (R103, R104). -/
theorem exec_out_of_held {q : Word16} (hs : s.resetLow = false) (hst : (s.lane l).state = .bound ∨ (s.lane l).state = .mediaWait)
    (hq : ∃ e ∈ (s.lane l).inflight, e.seq = q) (i : Slot) : exec (.out l q) s =
      .next ((State.confirmMany (confirmedBy (s.lane l).inflight (some q))
        (s.begin.atSettle l i s.accounts { s.lane l with silence := some ((s.lane l).current.silence * 1000) } (s.job i) s.sharedFree []) l).afterOut
          l).finish := by
  have takes : ((s.lane l).state.delivers && (s.lane l).holds q) = true := by
    obtain ⟨e, he, hseq⟩ := hq
    have holds : (s.lane l).holds q = true := List.any_eq_true.mpr ⟨e, he, by simpa using hseq⟩
    rw [holds]
    rcases hst with h | h
    · rw [h]
      rfl
    · rw [h]
      rfl
  have up : (s.lane l).state ≠ .down ∧ (s.lane l).state ≠ .training := by
    rcases hst with h | h
    · rw [h]
      decide
    · rw [h]
      decide
  rw [exec_taken (exec_out_eq s l q) hs up.1 takes, heard_of_trained up.2, ← atSettle_start]
  dsimp only
  rw [State.lane_setLane_self]

/-- The account of one confirmation, by Table 7.3 and Table 8.1 (R134, R147). -/
theorem debit_eq {a : Account} {x e : Nat} (hx : x ≤ 52428000000) (hr : a.residue < 100000) : a.debit x e = { a with
    pending := a.pending - e, balance := max (a.balance - ((x + a.residue) / 100000 : Nat)) (-549755813888)
    residue := (x + a.residue) % 100000, periodSheets := min (a.periodSheets + 1) 4294967295
    periodCharge := min (a.periodCharge + (x + a.residue) / 100000) 281474976710655 } := by
  have residue := debit_residue (estimate := e) hx hr
  unfold Account.debit at residue ⊢
  dsimp only at residue
  rw [chargeFor_eq hx hr, residue]
  rfl

end

/-! ## The last confirmation of a job -/

section
variable {s : State} {l : LaneNo} {i : Slot} {accs : Vector Account 1024} {r : Lane} {j : Job} {free : List Nat} {as : List AccountNo}

/-- The settling after the last confirmation of the final copy of a closed job releases it as DONE (R67, R68). -/
theorem settle_completes (hj : j.lane = some l) (hs : j.state = .printing) (ho : j.intakeOpen = false) (hc : j.confirm.copy = j.copies)
    (hn : j.confirm.pos = j.records.length) (hpos : 0 < j.confirm.pos) (hsend : j.send = j.confirm) (hoffer : r.offer = none)
    (hi : r.inflight = []) (hw : s.waitList = []) : ∃ w : State, ∃ k : Job,
      (s.atSettle l i accs r j free as).settle i = w.releaseJob i false ∧ w.job i = k ∧ k.lane = some l ∧ k.state = .printing ∧
      k.farewell i false = j.farewell i false ∧ k.pendingHold = j.pendingHold ∧ k.pendingCancel = j.pendingCancel ∧
      w.outside = (s.atSettle l i accs r j free as).outside ∧ w.waitList = [] ∧
      (∀ m, m ≠ i → w.job m = s.job m) ∧ (∀ p, (w.pool p).ready = (s.pool p).ready ∧ (w.pool p).classes = (s.pool p).classes) ∧
      w.notices = s.notices ∧ w.noticeDrops = s.noticeDrops ∧ w.todo = (s.atSettle l i accs r j free as).todo := by
  have still : ∀ c : Cursor, c = j.confirm → j.cursorMove c = none := fun c e => by
    unfold Job.cursorMove
    rw [e, List.getElem?_eq_none_iff.mpr (by omega), hc, ho]
    simp
  obtain ⟨c, moves, kept⟩ := settleCursors_of_still (still j.confirm rfl)
  have same : ({ j with send := c } : Job) = j := by rw [kept (still _ hsend)]
  rw [same] at moves
  have passed : j.hasPassed = true := by simp [Job.hasPassed, hc, hpos]
  obtain ⟨fr, ps, freed⟩ := exists_freeBlocks_eq (s := s.atSettle l i accs r j.afterPass free as) (j.passRecords.chain.take j.passRecords.freeable)
  have pools := pool_freeBlocks (s := s.atSettle l i accs r j.afterPass free as) (j.passRecords.chain.take j.passRecords.freeable)
  rw [freed] at pools
  obtain ⟨w, hwdef⟩ : ∃ w, (s.atSettle l i accs r j.afterPass free as).atFree fr ps = w := ⟨_, rfl⟩
  have released : (s.atSettle l i accs r j free as).releasePass i = w := by
    unfold State.releasePass
    rw [job_atSettle, if_pos passed]
    dsimp only
    rw [← Job.afterPass, setJob_atSettle, freed, hwdef]
    split
    · exact walk_of_none w (by rw [← hwdef]; exact hw)
    · rfl
  have job : w.job i = j.afterPass := by rw [← hwdef]; exact State.job_setJob_self ..
  have lane : w.lane l = r := by rw [← hwdef]; exact State.lane_setLane_self ..
  have empty : j.afterPass.records = [] := by
    show j.records.drop j.confirm.pos = []
    rw [hn, List.drop_length]
  have completed : j.afterPass.completed = true := by
    unfold Job.completed
    rw [empty, show j.afterPass.state = .printing from hs, show j.afterPass.intakeOpen = false from ho]
    rfl
  have idle : w.sheetsInFlight i = false := by
    rw [← Bool.not_eq_true, sheetsInFlight_iff (l := l) (by rw [job]; exact hj), lane, hoffer, hi]
    simp
  refine ⟨w, j.afterPass, ?_, job, hj, hs, rfl, rfl, rfl, ?_, by rw [← hwdef]; exact hw, fun m hm => ?_, fun p => ?_, by rw [← hwdef]; rfl,
    by rw [← hwdef]; rfl, by rw [← hwdef]; rfl⟩
  · unfold State.settle
    rw [modJob_atSettle, moves, released, State.testCompletion, job, completed, idle]
    rfl
  · rw [← hwdef]
    rfl
  · rw [← hwdef]
    exact (State.job_setJob ..).trans (if_neg (Ne.symm hm))
  · obtain ⟨x, hp⟩ := pools p
    rw [← hwdef, hp]
    exact ⟨rfl, rfl⟩

/-- The event of the last confirmation: the job is gone, its lane waits for work, and no other job, account or lane changes (R67, R68). -/
theorem out_completes (hr : r.job = some i) (hj : j.lane = some l) (hs : j.state = .printing) (ho : j.intakeOpen = false)
    (hc : j.confirm.copy = j.copies) (hn : j.confirm.pos = j.records.length) (hpos : 0 < j.confirm.pos) (hsend : j.send = j.confirm)
    (hoffer : r.offer = none) (hi : r.inflight = []) (hb : r.state = .bound) (hset : r.pendingSet = none) (he : r.current.enable = true)
    (hw : s.waitList = []) (hq : ∀ q, (s.pool q).queueOrder = []) (hh : j.pendingHold = none) (hcancel : j.pendingCancel = none)
    (ha : ∀ a ∈ as, ∀ k, (s.job k).account = a → (s.job k).reasons.funds = false) :
    ∃ t, (((s.begin.atSettle l i accs r j free as).settle i).afterOut l).finish = t ∧ t.job i = Job.vacant ∧ (∀ k, k ≠ i → t.job k = s.job k) ∧
      t.accounts = accs ∧ t.lanes = s.lanes.set l { r with job := none, state := .ready, reoffer := none, retained := none } ∧
      (t.pool r.current.pool).ready = (s.pool r.current.pool).ready ++ [l] ∧ t.notices = (s.notice (j.farewell i false)).notices ∧
      t.queue = s.queue ∧ t.mem = s.mem ∧ t.sent = s.sent := by
  obtain ⟨w, k, settles, job, hkl, hks, hfare, hkh, hkc, hside, hwait, hothers, hpools, hns, hdrops, htodo⟩ :=
    settle_completes (s := s.begin) (i := i) (accs := accs) (free := free) (as := as) hj hs ho hc hn hpos hsend hoffer hi hw
  obtain ⟨wlanes, waccounts, -, wmem, wsent, wqueue, -, -⟩ := of_outside hside
  have lane : w.lane l = r := (congrArg (fun v : Vector Lane 16 => v[l]) wlanes).trans lane_atSettle
  obtain ⟨departs, vacant⟩ := releaseJob_departs (s := w) (i := i) (l := l) (by rw [job]; exact hkl) (by rw [job, hks]; decide) false
  have newSet : r.newSet = r.current := by
    unfold Lane.newSet
    rw [hset]
    rfl
  have left : r.left = { r with job := none, state := .ready, reoffer := none, retained := none } := by
    unfold Lane.left
    rw [newSet, if_pos hb, if_pos he, ← hset]
  have readies : r.readies = true := by
    unfold Lane.readies
    rw [newSet, he, hb]
    rfl
  rw [job, hfare] at departs
  obtain ⟨tlanes, ⟨taccounts, tmem, tsent, tqueue, -, -⟩, -, tpools, ttodo, tdone, -, tquiet, tothers, -⟩ := departs
  rw [lane] at tlanes tquiet
  rw [settles]
  generalize w.releaseJob i false = t at *
  have tlane : t.lane l = r.left := by
    show t.lanes[l] = _
    rw [tlanes]
    exact Vector.getElem_set_self ..
  have stays : t.afterOut l = t := by
    unfold State.afterOut
    rw [tlane, left]
  have classes : ∀ p, (t.pool p).queueOrder = [] := fun p =>
    (queueOrder_congr ((tpools p).2.trans (hpools p).2)).trans (hq p)
  have no_set : (w.lane l).setDone = [] := by
    rw [lane]
    unfold Lane.setDone
    rw [hset]
    rfl
  have done : t.todo.done = [] := by
    rw [no_set, hkh, hkc, hh, hcancel, htodo] at tdone
    exact tdone
  have risen : t.todo.risen = as := by
    rw [ttodo]
    show w.todo.risen = as
    rw [htodo]
    rfl
  have reset : t.todo.reset = false := by
    rw [ttodo]
    show w.todo.reset = false
    rw [htodo]
    rfl
  have jobs : ∀ m, m ≠ i → t.job m = s.job m := fun m hm => (tothers hwait m hm).trans (hothers m hm)
  have finished : t.finish = t.settled := by
    refine finish_quiet t (fun p _ => .inr (classes p)) (fun a h k => fundsHeld_eq_false ?_) done reset
    rw [risen] at h
    by_cases hk : k = i
    · subst hk
      rw [vacant]
      exact fun _ => rfl
    · rw [jobs k hk]
      exact ha a h k
  obtain ⟨qns, -⟩ := tquiet (by rw [hset]; simp) hwait
  refine ⟨t.settled, ?_, vacant, jobs, ?_, ?_, ?_, ?_, ?_, ?_, ?_⟩
  · rw [stays, finished]
  · exact taccounts.trans waccounts
  · show t.lanes = _
    rw [tlanes, wlanes, left]
    exact Vector.set_set ..
  · show (t.pool _).ready = _
    rw [(tpools r.current.pool).1]
    have ready := ready_vacatesLane (s := w) (l := l) (by rw [lane]; exact readies)
    rw [lane, newSet, (hpools r.current.pool).1] at ready
    exact ready
  · show t.notices = _
    rw [qns, notice_eq_of_notices (s := w) (b := s) hns hdrops]
    rfl
  · exact tqueue.trans wqueue
  · exact tmem.trans wmem
  · exact tsent.trans wsent

end

/-! ## OUT -/

section
variable {s : State} {l : LaneNo} {i : Slot}

/-- The lane's record as it hears an OUT and its entries of the records `recs` are confirmed. -/
theorem printed_heard {r : Lane} (rest : List InFlight) (recs : List SheetRecord) :
    ({ r with silence := some (r.current.silence * 1000) } : Lane).printed rest recs = { r with
      inflight := rest, silence := some (r.current.silence * 1000), sheetsOut := min (r.sheetsOut + recs.length) 4294967295
      colourSides := min (r.colourSides + (recs.map SheetRecord.colour).sum) 4294967295
      monoSides := min (r.monoSides + (recs.map SheetRecord.mono).sum) 4294967295 } := rfl

/-- An OUT on a copy that is not the final one (R103 to R105). -/
theorem exec_out_front {es : List (InFlight × SheetRecord)} {last : InFlight} {rest : List InFlight} (hs : s.resetLow = false)
    (hst : (s.lane l).state = .bound ∨ (s.lane l).state = .mediaWait) (hj : (s.lane l).job = some i) (hl : (s.job i).lane = some l)
    (hi : (s.lane l).inflight = es.map (·.1) ++ rest) (hlast : (es.map (·.1)).getLast? = some last)
    (hseq : ∀ e ∈ (es.map (·.1)).dropLast, e.seq ≠ last.seq) (hrec : ∀ e ∈ es, (s.job i).recordOf e.1.sheet = some e.2)
    (hf : ∀ e ∈ es, ∀ k, (s.job k).account = e.1.account → (s.job k).reasons.funds = false)
    (hcopy : (s.job i).confirm.copy ≠ (s.job i).copies) (hsend : (s.job i).cursorMove (s.job i).send = none)
    (hmoves : ∀ d, d < es.length → (s.job i).cursorMove { (s.job i).confirm with pos := (s.job i).confirm.pos + d + 1 } = none)
    (hq : (s.job i).state = .printing ∧ ((s.lane l).offer ≠ none ∨ (s.lane l).state = .mediaWait) ∨
      (s.job i).state = .holding ∧ rest ≠ [] ∨ (s.job i).state = .cancelling) :
    exec (.out l last.seq) s = .next ({ s with
      accounts := accountsAfter s.accounts (es.map (·.1))
      lanes := s.lanes.set l
        (({ s.lane l with silence := some ((s.lane l).current.silence * 1000) } : Lane).printed rest (es.map (·.2)))
      jobs := s.jobs.set i (((s.job i).counts es.length (chargesOf s.accounts (es.map (·.1)))).movesOn es.length (s.job i).send) } :
        State).settled := by
  have hne : es ≠ [] := by
    rintro rfl
    cases hlast
  have member : last ∈ es.map (·.1) := List.mem_of_getLast? hlast
  have count : confirmedBy (s.lane l).inflight (some last.seq) = es.length := by
    rw [hi, confirmedBy_append hlast hseq, List.length_map]
  obtain ⟨c, as, many, hc, hr⟩ := confirmMany_front (s := s.begin) (l := l) (accs := s.accounts)
    (r := { s.lane l with silence := some ((s.lane l).current.silence * 1000) }) (j := s.job i) (free := s.sharedFree) (as := []) hne hj hi
    hrec hcopy hmoves
  rw [exec_out_of_held hs hst ⟨last, by rw [hi]; exact List.mem_append_left _ member, rfl⟩ i, count, many, hc hsend,
    afterOut_of_quiet (by exact hj) (by exact hl) (by exact hq), finish_atSettle]
  · rfl
  · rfl
  · intro a ha
    rcases hr a ha with h | ⟨e, he, h⟩
    · cases h
    · subst h
      exact hf e he

/-- An OUT that passes records on the final copy (R42 to R44, R103 to R105). -/
theorem exec_out_final {es : List (InFlight × SheetRecord)} {last : InFlight} {rest : List InFlight} {others : List SheetRecord}
    (hs : s.resetLow = false)
    (hst : (s.lane l).state = .bound ∨ (s.lane l).state = .mediaWait) (hj : (s.lane l).job = some i) (hl : (s.job i).lane = some l)
    (hi : (s.lane l).inflight = es.map (·.1) ++ rest) (hlast : (es.map (·.1)).getLast? = some last)
    (hseq : ∀ e ∈ (es.map (·.1)).dropLast, e.seq ≠ last.seq) (hrec : (s.job i).records = es.map (·.2) ++ others)
    (hn : ∀ e ∈ es, e.2.number = e.1.sheet)
    (hf : ∀ e ∈ es, ∀ k, (s.job k).account = e.1.account → (s.job k).reasons.funds = false)
    (hcopy : (s.job i).confirm = ⟨(s.job i).copies, 0⟩) (ho : others ≠ [])
    (hmoves : ∀ d, d < es.length → (s.job i).cursorMove { (s.job i).confirm with pos := (s.job i).confirm.pos + d + 1 } = none)
    (hw : s.waitList = []) (hp : ∀ p, (s.pool p).reserved = false)
    (hq : (s.job i).state = .printing ∧ ((s.lane l).offer ≠ none ∨ (s.lane l).state = .mediaWait) ∨
      (s.job i).state = .holding ∧ rest ≠ [] ∨ (s.job i).state = .cancelling) :
    ∃ c, (es.length = 1 → (s.job i).cursorMove (s.job i).send = none → c = { (s.job i).send with pos := (s.job i).send.pos - 1 }) ∧
      exec (.out l last.seq) s = .next ({ s with
      accounts := accountsAfter s.accounts (es.map (·.1))
      lanes := s.lanes.set l
        (({ s.lane l with silence := some ((s.lane l).current.silence * 1000) } : Lane).printed rest (es.map (·.2)))
      sharedFree := s.sharedFree ++ (s.job i).freedBy (es.map (·.2.received)).sum
      jobs := s.jobs.set i (((s.job i).counts es.length (chargesOf s.accounts (es.map (·.1)))).passesOn others
        (es.map (·.2.received)).sum c) } : State).settled := by
  have hne : es ≠ [] := by
    rintro rfl
    cases hlast
  have member : last ∈ es.map (·.1) := List.mem_of_getLast? hlast
  have count : confirmedBy (s.lane l).inflight (some last.seq) = es.length := by
    rw [hi, confirmedBy_append hlast hseq, List.length_map]
  obtain ⟨c, ps, free, as, many, hc, hr, -, plain⟩ := confirmMany_final (s := s.begin) (l := l) (accs := s.accounts)
    (r := { s.lane l with silence := some ((s.lane l).current.silence * 1000) }) (j := s.job i) (free := s.sharedFree) (as := []) hne hj hi
    hrec hn hcopy (.inr ho) hmoves hw
  obtain ⟨rfl, rfl⟩ := plain hp
  have same : s.begin.withPools s.begin.pools = s.begin := rfl
  refine ⟨c, hc, ?_⟩
  rw [exec_out_of_held hs hst ⟨last, by rw [hi]; exact List.mem_append_left _ member, rfl⟩ i, count, many, same,
    afterOut_of_quiet (by exact hj) (by exact hl) (by exact hq), finish_atSettle]
  · rfl
  · rfl
  · intro a ha
    rcases hr a ha with h | ⟨e, he, h⟩
    · cases h
    · subst h
      exact hf e he

/-- An OUT that confirms the last sheet-copy of the final copy of a closed job (R67, R68, R104). -/
theorem exec_out_last {e : InFlight} {rec : SheetRecord} {j : Job} {charge : Nat} (hs : s.resetLow = false)
    (hb : (s.lane l).state = .bound) (hj : (s.lane l).job = some i) (hl : (s.job i).lane = some l)
    (hi : (s.lane l).inflight = [e]) (hrec : (s.job i).recordOf e.sheet = some rec)
    (hf : ∀ k, (s.job k).account = e.account → (s.job k).reasons.funds = false) (hst : (s.job i).state = .printing)
    (hopen : (s.job i).intakeOpen = false) (hcopy : (s.job i).confirm.copy = (s.job i).copies)
    (hn : (s.job i).records.length = (s.job i).confirm.pos + 1) (hsend : (s.job i).send = ⟨(s.job i).copies, (s.job i).records.length⟩)
    (ho : (s.lane l).offer = none) (hset : (s.lane l).pendingSet = none) (he : (s.lane l).current.enable = true) (hw : s.waitList = [])
    (hq : ∀ q, (s.pool q).queueOrder = []) (hh : (s.job i).pendingHold = none) (hc : (s.job i).pendingCancel = none)
    (hcharge : (s.account e.account).chargeFor e.x = charge) (hk : (s.job i).confirms charge = j) : ∃ t, exec (.out l e.seq) s = .next t ∧
      t.job i = Job.vacant ∧ (∀ k, k ≠ i → t.job k = s.job k) ∧
      t.accounts = s.accounts.set e.account ((s.account e.account).debit e.x e.estimate) ∧
      t.lanes = s.lanes.set l { (({ s.lane l with silence := some ((s.lane l).current.silence * 1000) } : Lane).printed [] [rec]) with
        job := none, state := .ready, reoffer := none, retained := none } ∧
      (t.pool (s.lane l).current.pool).ready = (s.pool (s.lane l).current.pool).ready ++ [l] ∧
      t.notices = (s.notice (j.farewell i false)).notices ∧ t.queue = s.queue ∧ t.mem = s.mem ∧ t.sent = s.sent := by
  have count : confirmedBy (s.lane l).inflight (some e.seq) = 1 := by
    rw [hi]
    exact confirmedBy_append (es := [e]) (rest := []) (last := e) rfl (by simp)
  obtain ⟨as, head, hr⟩ := confirmHead_atSettle (s := s.begin) (l := l) (i := i) (accs := s.accounts) (free := s.sharedFree) (as := [])
    (r := { s.lane l with silence := some ((s.lane l).current.silence * 1000) }) (j := s.job i) hj hi
  have fields : j.lane = (s.job i).lane ∧ j.state = (s.job i).state ∧ j.intakeOpen = (s.job i).intakeOpen ∧ j.copies = (s.job i).copies ∧
      j.confirm = { (s.job i).confirm with pos := (s.job i).confirm.pos + 1 } ∧ j.records = (s.job i).records ∧ j.send = (s.job i).send ∧
      j.pendingHold = (s.job i).pendingHold ∧ j.pendingCancel = (s.job i).pendingCancel := by
    rw [← hk]
    exact ⟨rfl, rfl, rfl, rfl, rfl, rfl, rfl, rfl, rfl⟩
  obtain ⟨jlane, jstate, jopen, jcopies, jconfirm, jrecords, jsend, jhold, jcancel⟩ := fields
  rw [show (s.accounts[e.account]).chargeFor e.x = charge from hcharge, hk, hrec, confirms_eq] at head
  obtain ⟨t, finished, rest⟩ := out_completes (s := s) (l := l) (i := i) (as := as) (free := s.sharedFree)
    (accs := s.accounts.set e.account ((s.account e.account).debit e.x e.estimate))
    (r := ({ s.lane l with silence := some ((s.lane l).current.silence * 1000) } : Lane).printed [] [rec]) (j := j) hj (jlane.trans hl)
    (jstate.trans hst) (jopen.trans hopen) (by rw [jconfirm, jcopies]; exact hcopy) (by rw [jconfirm, jrecords]; exact hn.symm)
    (by rw [jconfirm]; exact Nat.succ_pos _) (by rw [jsend, jconfirm, hsend, hn, ← hcopy]) ho rfl hb hset he hw hq (jhold.trans hh)
    (jcancel.trans hc) (fun a ha k hka => by
      rcases hr a ha with h | h
      · cases h
      · exact hf k (hka.trans h))
  refine ⟨t, ?_, rest⟩
  rw [exec_out_of_held hs (.inl hb) ⟨e, by rw [hi]; exact List.mem_singleton_self e, rfl⟩ i, count]
  show Host.Outcome.next (((State.confirmHead _ l).afterOut l).finish) = _
  rw [head]
  exact congrArg Host.Outcome.next finished

end

/-- Settles O54. -/
theorem outConfirmsTheHeadEntry : Obligations.OutConfirmsTheHeadEntry := by
  intro s l i hs hst hj hl r j sides colour mono metered noOffer
  refine ⟨fun entries last rest hi hlast hseq hrec hf hcopy hsend hmoves hq => ?many, fun e rest rec hi hrec hx hres hf => ?one⟩
  case many =>
    intro debited charges
    rw [exec_out_front hs hst hj hl hi hlast hseq hrec hf hcopy hsend hmoves hq]
    have accounts : (entries.foldl (fun (t : State) (e : InFlight × SheetRecord) => debited t e.1) s).accounts =
        accountsAfter s.accounts (entries.map (·.1)) := foldl_debited (s := s) (fun e : InFlight × SheetRecord => e.1) entries
    have charged : charges = chargesOf s.accounts (entries.map (·.1)) :=
      (foldl_charged (s := s) (fun e : InFlight × SheetRecord => e.1) entries 0).trans (Nat.zero_add _)
    rw [accounts, charged]
    refine congrArg Host.Outcome.next (congrArg State.settled ?_)
    rw [printed_heard, List.length_map, List.map_map, List.map_map]
    rfl
  case one =>
    intro a n a' r' confirm j'
    have debit : (s.account e.account).debit e.x e.estimate = a' := debit_eq hx hres
    have charge : (s.account e.account).chargeFor e.x = n := chargeFor_eq hx hres
    have accounts : accountsAfter s.accounts [e] = s.accounts.set e.account a' := congrArg (fun x => s.accounts.set e.account x) debit
    have charged : chargesOf s.accounts [e] = n := charge
    have only : ∀ x ∈ [(e, rec)], ∀ k, (s.job k).account = x.1.account → (s.job k).reasons.funds = false := by
      intro x h
      obtain rfl := List.mem_singleton.mp h
      exact hf
    refine ⟨fun hcopy hmove hsend hq => ?front,
      fun others hc hr ho hpos hmove hsend hq hw hp => ?final,
      fun hpr hopen hcopy hn hsend hrest ho hb hset he hw hq hh hcancel => ?last⟩
    case front =>
      have run := exec_out_front (es := [(e, rec)]) (last := e) (rest := rest) hs hst hj hl hi rfl (by simp) (by simpa using hrec) only hcopy
        hsend (fun d hd => by
          rw [show d = 0 by simpa using hd]
          exact hmove) hq
      rw [show ([(e, rec)].map (·.1)) = [e] from rfl, accounts, charged] at run
      exact run
    case final =>
      obtain ⟨c, hcursor, run⟩ := exec_out_final (es := [(e, rec)]) (last := e) (rest := rest) (others := others) hs hst hj hl hi rfl (by simp) hr
        (by simpa using List.find?_some hrec) only hc ho
        (fun d hd => by
          rw [show d = 0 by simpa using hd]
          exact hmove) hw hp hq
      rw [show ([(e, rec)].map (·.1)) = [e] from rfl, accounts, charged, hcursor rfl hsend,
        show ([(e, rec)].map (·.2.received)).sum = rec.received from List.sum_singleton] at run
      exact run
    case last =>
      subst hrest
      obtain ⟨t, run, vacant, others, haccounts, hlanes, rest⟩ := exec_out_last hs hb hj hl hi hrec hf hpr hopen hcopy hn hsend ho hset he hw hq hh
        hcancel charge rfl
      exact ⟨t, run, vacant, others, haccounts.trans (congrArg (fun x => s.accounts.set e.account x) debit), hlanes, rest⟩

end Sys2Proof.Machine
end

section
/-! PROOF. The settlement at a last-out (R109 to R111), STOPPED (R121) and CLEAR (R117, R119): settles O56. -/

namespace Sys2Proof.Machine

/-! ## Estimates that are no longer held -/

/-- An account whose pending sum has fallen by `n` (R145). -/
def Account.lowered (a : Account) (n : Nat) : Account := { a with pending := a.pending - n }

theorem lowered_zero (a : Account) : a.lowered 0 = a := rfl

theorem lowered_lowered (a : Account) (m n : Nat) : (a.lowered m).lowered n = a.lowered (m + n) := by
  unfold Account.lowered
  dsimp only
  rw [Nat.sub_sub]

/-- Lowering commutes with a confirmation (R145, R147). -/
theorem debit_lowered (a : Account) (n x e : Nat) : (a.lowered n).debit x e = (a.debit x e).lowered n := by
  unfold Account.debit Account.lowered Account.chargeFor
  dsimp only
  rw [Nat.sub_right_comm]

/-- The sum of the estimates of entries that name account `a`. -/
def heldBy (a : AccountNo) (es : List InFlight) : Nat := ((es.filter (·.account = a)).map (·.estimate)).sum

/-- The estimate of the offer where it names account `a`. -/
def offeredBy (a : AccountNo) (o : Option Offer) : Nat := ((o.toList.filter (·.account = a)).map (·.estimate)).sum

theorem heldBy_cons (a : AccountNo) (e : InFlight) (es : List InFlight) :
    heldBy a (e :: es) = (if e.account = a then e.estimate else 0) + heldBy a es := by
  unfold heldBy
  rw [List.filter_cons]
  by_cases h : e.account = a
  · simp [h]
  · simp [h]

section
variable {accs low : Vector Account 1024}

/-- The accounts `low` are those of `accs`, with each pending sum lowered. -/
def LoweredBy (accs low : Vector Account 1024) (d : AccountNo → Nat) : Prop := ∀ a : AccountNo, low[a] = accs[a].lowered (d a)

theorem getElem_set_account (a b : AccountNo) (x : Account) : (accs.set a x)[b] = if a = b then x else accs[b] := by
  rw [Fin.getElem_fin, Vector.getElem_set]
  by_cases h : a = b
  · rw [if_pos (congrArg Fin.val h), if_pos h]
  · rw [if_neg (fun e => h (Fin.ext e)), if_neg h]
    rfl

theorem accountsAfter_lowered {d : AccountNo → Nat} (es : List InFlight) (h : LoweredBy accs low d) :
    LoweredBy (accountsAfter accs es) (accountsAfter low es) d ∧ chargesOf low es = chargesOf accs es := by
  induction es generalizing accs low with
  | nil => exact ⟨h, rfl⟩
  | cons e es ih =>
    have next : LoweredBy (accs.set e.account (accs[e.account].debit e.x e.estimate)) (low.set e.account (low[e.account].debit e.x e.estimate))
        d := fun a => by
      rw [getElem_set_account, getElem_set_account]
      split
      · rename_i same
        subst same
        rw [h e.account, debit_lowered]
      · exact h a
    obtain ⟨accounts, charges⟩ := ih next
    refine ⟨accounts, ?_⟩
    unfold chargesOf
    rw [charges, h e.account]
    rfl

theorem LoweredBy.set {d : AccountNo → Nat} (h : LoweredBy accs low d) (a : AccountNo) (n : Nat) :
    LoweredBy accs (low.set a (low[a].lowered n)) fun b => d b + if a = b then n else 0 := fun b => by
  show _ = accs[b].lowered (d b + if a = b then n else 0)
  rw [getElem_set_account]
  by_cases same : a = b
  · subst same
    rw [if_pos rfl, if_pos rfl, h a, lowered_lowered]
  · rw [if_neg same, if_neg same, h b, Nat.add_zero]

end

/-! ## Spoils and withdrawals -/

section
variable {s : State} {l : LaneNo} {i : Slot} {accs : Vector Account 1024} {r : Lane} {j : Job} {free : List Nat} {as : List AccountNo}

theorem lowerPending_atSettle (a : AccountNo) (e : Nat) : ∃ as', (s.atSettle l i accs r j free as).lowerPending a e =
    s.atSettle l i (accs.set a (accs[a].lowered e)) r j free as' ∧ ∀ b ∈ as', b ∈ as ∨ b = a :=
  noteHeadroom_eq (s := s.atSettle l i (accs.set a (accs[a].lowered e)) r j free as) _

/-- The lane's record once `n` entries are spoiled and none is left (R109). -/
def Lane.spoils (r : Lane) (n : Nat) : Lane := { r with inflight := [], sheetsSpoiled := min (r.sheetsSpoiled + n) 4294967295 }

/-- The job's record once `n` entries are spoiled (R109). -/
def Job.spoils (j : Job) (n : Nat) : Job := { j with spoiled := min (j.spoiled + n) 4294967295 }

/-- Every entry of a lane is spoiled, and its estimates are held no longer (R109, R145). -/
theorem spoilMany_atSettle (hj : r.job = some i) (hr : r.sheetsSpoiled ≤ 4294967295) (hs : j.spoiled ≤ 4294967295) {es : List InFlight}
    (hi : r.inflight = es) {low : Vector Account 1024} {d : AccountNo → Nat} (hd : LoweredBy accs low d) :
    ∃ low' as', State.spoilMany es.length (s.atSettle l i low r j free as) l =
        s.atSettle l i low' (r.spoils es.length) (j.spoils es.length) free as' ∧
      LoweredBy accs low' (fun a => d a + heldBy a es) ∧ (es = [] → as' = as) := by
  induction es generalizing r j low d as with
  | nil =>
    have lane : r.spoils 0 = r := by
      unfold Lane.spoils
      rw [Nat.add_zero, Nat.min_eq_left hr, ← hi]
    have job : j.spoils 0 = j := by
      unfold Job.spoils
      rw [Nat.add_zero, Nat.min_eq_left hs]
    refine ⟨low, as, ?_, hd, fun _ => rfl⟩
    rw [List.length_nil, lane, job]
    rfl
  | cons e es ih =>
    obtain ⟨as1, lowers, -⟩ := lowerPending_atSettle (s := s) (l := l) (i := i) (accs := low) (r := r) (j := j) (free := free) (as := as)
      e.account e.estimate
    have head : (s.atSettle l i low r j free as).spoilHead l = s.atSettle l i (low.set e.account (low[e.account].lowered e.estimate))
        { r with sheetsSpoiled := bump r.sheetsSpoiled, inflight := es } { j with spoiled := bump j.spoiled } free as1 := by
      unfold State.spoilHead
      rw [lane_atSettle, hi]
      dsimp only
      rw [lowers, modLane_atSettle]
      split
      · rename_i k hk
        rw [hj] at hk
        cases hk
        exact modJob_atSettle _
      · rename_i hk
        rw [hj] at hk
        cases hk
    obtain ⟨low', as', many, lowered, -⟩ := ih (r := { r with sheetsSpoiled := bump r.sheetsSpoiled, inflight := es })
      (j := { j with spoiled := bump j.spoiled }) (as := as1) hj (bump_le _) (bump_le _) rfl (hd.set e.account e.estimate)
    refine ⟨low', as', ?_, fun a => ?_, fun h => by cases h⟩
    · have lane : ({ r with sheetsSpoiled := bump r.sheetsSpoiled, inflight := es } : Lane).spoils es.length = r.spoils (es.length + 1) := by
        unfold Lane.spoils
        dsimp only
        rw [show bump r.sheetsSpoiled = min (r.sheetsSpoiled + 1) 4294967295 from rfl, min_add_min, Nat.add_comm 1]
      have job : ({ j with spoiled := bump j.spoiled } : Job).spoils es.length = j.spoils (es.length + 1) := by
        unfold Job.spoils
        dsimp only
        rw [show bump j.spoiled = min (j.spoiled + 1) 4294967295 from rfl, min_add_min, Nat.add_comm 1]
      rw [List.length_cons, State.spoilMany, head, many, lane, job]
    · refine (lowered a).trans (congrArg accs[a].lowered ?_)
      show d a + (if e.account = a then e.estimate else 0) + heldBy a es = d a + heldBy a (e :: es)
      rw [heldBy_cons, Nat.add_assoc]

/-- The lane's record with no offer outstanding (R110). -/
def Lane.withdraws (r : Lane) : Lane :=
  { r with
    offer := none, answer := if r.offer = none then r.answer else none, timeouts := if r.offer = none then r.timeouts else 0 }

/-- The offer of a lane ends, and its estimate is held no longer (R110, R145). -/
theorem dropOffer_atSettle : ∃ low as', (s.atSettle l i accs r j free as).dropOffer l = s.atSettle l i low r.withdraws j free as' ∧
    LoweredBy accs low (fun a => offeredBy a r.offer) ∧ (r.offer = none → as' = as) := by
  unfold State.dropOffer
  rw [lane_atSettle]
  cases ho : r.offer with
  | none =>
    refine ⟨accs, as, ?_, fun _ => rfl, fun _ => rfl⟩
    have same : r.withdraws = r := by
      unfold Lane.withdraws
      rw [if_pos ho, if_pos ho, ← ho]
    rw [same]
  | some o =>
    obtain ⟨as', lowers, -⟩ := lowerPending_atSettle (s := s) (l := l) (i := i) (accs := accs) (r := r) (j := j) (free := free) (as := as)
      o.account o.estimate
    refine ⟨accs.set o.account (accs[o.account].lowered o.estimate), as', ?_, fun a => ?_, fun h => by cases h⟩
    · dsimp only
      rw [lowers, modLane_atSettle]
      unfold Lane.withdraws
      rw [ho, if_neg (by simp), if_neg (by simp)]
    · have set := LoweredBy.set (accs := accs) (low := accs) (d := fun _ => 0) (fun _ => rfl) o.account o.estimate a
      refine set.trans (congrArg accs[a].lowered ?_)
      unfold offeredBy
      by_cases h : o.account = a
      · simp [h]
      · simp [h]

/-! ## The settlement at a last-out -/

/-- A last-out that no entry carries confirms nothing (R111). -/
theorem confirmedBy_of_absent {es : List InFlight} {q : Option Word16} (h : ∀ x, q = some x → ∀ e ∈ es, e.seq ≠ x) : confirmedBy es q = 0 := by
  unfold confirmedBy
  cases q with
  | none => rfl
  | some x =>
    have absent : es.findIdx? (fun e => e.seq == x) = none := List.findIdx?_eq_none_iff.mpr fun e he => by simpa using h x rfl e he
    dsimp only
    rw [absent]

/-- The settlement at a last-out that no entry carries spoils every entry (R111). -/
theorem settleAt_of_absent {q : Option Word16} (hj : r.job = some i) (hr : r.sheetsSpoiled ≤ 4294967295) (hs : j.spoiled ≤ 4294967295)
    (hq : ∀ x, q = some x → ∀ e ∈ r.inflight, e.seq ≠ x) : ∃ low as',
      ((s.atSettle l i accs r j free []).dropOffer l).settleAt l q =
        s.atSettle l i low (r.withdraws.spoils r.inflight.length) (j.spoils r.inflight.length) free as' ∧
      LoweredBy accs low (fun a => offeredBy a r.offer + heldBy a r.inflight) ∧ (r.inflight = [] → r.offer = none → as' = []) := by
  obtain ⟨low, as1, drops, lowered, h1⟩ := dropOffer_atSettle (s := s) (l := l) (i := i) (accs := accs) (r := r) (j := j) (free := free) (as := [])
  obtain ⟨low', as', many, lowered', h2⟩ := spoilMany_atSettle (s := s) (l := l) (i := i) (accs := accs) (r := r.withdraws) (j := j)
    (free := free) (as := as1) hj hr hs rfl lowered
  refine ⟨low', as', ?_, lowered', fun hi ho => (h2 hi).trans (h1 ho)⟩
  rw [drops]
  unfold State.settleAt
  rw [lane_atSettle, confirmedBy_of_absent (es := r.withdraws.inflight) hq, State.confirmMany, State.spoilAll, lane_atSettle]
  exact many

/-- The settlement at a last-out on a copy that is not the final one (R104, R109, R111). -/
theorem settleAt_front {es : List (InFlight × SheetRecord)} {last : InFlight} {rest : List InFlight} (hj : r.job = some i)
    (hr : r.sheetsSpoiled ≤ 4294967295) (hs : j.spoiled ≤ 4294967295) (hi : r.inflight = es.map (·.1) ++ rest)
    (hlast : (es.map (·.1)).getLast? = some last) (hseq : ∀ e ∈ (es.map (·.1)).dropLast, e.seq ≠ last.seq)
    (hrec : ∀ e ∈ es, j.recordOf e.1.sheet = some e.2) (hcopy : j.confirm.copy ≠ j.copies)
    (hmoves : ∀ d, d < es.length → j.cursorMove { j.confirm with pos := j.confirm.pos + d + 1 } = none) : ∃ low c as',
      ((s.atSettle l i accs r j free []).dropOffer l).settleAt l (some last.seq) =
        s.atSettle l i low ((r.withdraws.printed rest (es.map (·.2))).spoils rest.length)
          (((j.counts es.length (chargesOf accs (es.map (·.1)))).movesOn es.length c).spoils rest.length) free as' ∧
      LoweredBy (accountsAfter accs (es.map (·.1))) low (fun a => offeredBy a r.offer + heldBy a rest) := by
  have hne : es ≠ [] := by
    rintro rfl
    cases hlast
  have count : confirmedBy r.withdraws.inflight (some last.seq) = es.length := by
    rw [show r.withdraws.inflight = r.inflight from rfl, hi, confirmedBy_append hlast hseq, List.length_map]
  obtain ⟨low, as1, drops, lowered, -⟩ := dropOffer_atSettle (s := s) (l := l) (i := i) (accs := accs) (r := r) (j := j) (free := free) (as := [])
  obtain ⟨c, as2, confirms, -, -⟩ := confirmMany_front (s := s) (l := l) (i := i) (accs := low) (r := r.withdraws) (j := j) (free := free)
    (as := as1) hne hj hi hrec hcopy hmoves
  obtain ⟨after, charges⟩ := accountsAfter_lowered (es.map (·.1)) lowered
  rw [charges] at confirms
  obtain ⟨low', as', many, lowered', -⟩ := spoilMany_atSettle (s := s) (l := l) (i := i) (accs := accountsAfter accs (es.map (·.1)))
    (r := r.withdraws.printed rest (es.map (·.2))) (j := (j.counts es.length (chargesOf accs (es.map (·.1)))).movesOn es.length c)
    (free := free) (as := as2) hj hr hs rfl after
  refine ⟨low', c, as', ?_, lowered'⟩
  rw [drops]
  unfold State.settleAt
  rw [lane_atSettle, count, confirms, State.spoilAll, lane_atSettle]
  exact many

/-- The settlement at a last-out on the final copy (R42 to R44, R104, R109, R111). -/
theorem settleAt_final {es : List (InFlight × SheetRecord)} {last : InFlight} {rest : List InFlight} {others : List SheetRecord}
    (hj : r.job = some i) (hr : r.sheetsSpoiled ≤ 4294967295) (hs : j.spoiled ≤ 4294967295) (hi : r.inflight = es.map (·.1) ++ rest)
    (hlast : (es.map (·.1)).getLast? = some last) (hseq : ∀ e ∈ (es.map (·.1)).dropLast, e.seq ≠ last.seq)
    (hrec : j.records = es.map (·.2) ++ others) (hn : ∀ e ∈ es, e.2.number = e.1.sheet) (hcopy : j.confirm = ⟨j.copies, 0⟩)
    (ho : j.state = .cancelling ∨ others ≠ [])
    (hmoves : ∀ d, d < es.length → j.cursorMove { j.confirm with pos := j.confirm.pos + d + 1 } = none)
    (hw : s.waitList = []) : ∃ low c ps free' as',
      ((s.atSettle l i accs r j free []).dropOffer l).settleAt l (some last.seq) =
        (s.withPools ps).atSettle l i low ((r.withdraws.printed rest (es.map (·.2))).spoils rest.length)
          (((j.counts es.length (chargesOf accs (es.map (·.1)))).passesOn others (es.map (·.2.received)).sum c).spoils rest.length)
          free' as' ∧
      LoweredBy (accountsAfter accs (es.map (·.1))) low (fun a => offeredBy a r.offer + heldBy a rest) ∧ s.FreesInto ps ∧
      ((∀ p, (s.pool p).reserved = false) → ps = s.pools ∧ free' = free ++ j.freedBy (es.map (·.2.received)).sum) := by
  have hne : es ≠ [] := by
    rintro rfl
    cases hlast
  have count : confirmedBy r.withdraws.inflight (some last.seq) = es.length := by
    rw [show r.withdraws.inflight = r.inflight from rfl, hi, confirmedBy_append hlast hseq, List.length_map]
  obtain ⟨low, as1, drops, lowered, -⟩ := dropOffer_atSettle (s := s) (l := l) (i := i) (accs := accs) (r := r) (j := j) (free := free) (as := [])
  obtain ⟨c, ps, free', as2, confirms, -, -, frees, plain⟩ := confirmMany_final (s := s) (l := l) (i := i) (accs := low) (r := r.withdraws) (j := j) (free := free)
    (as := as1) hne hj hi hrec hn hcopy ho hmoves hw
  obtain ⟨after, charges⟩ := accountsAfter_lowered (es.map (·.1)) lowered
  rw [charges] at confirms
  obtain ⟨low', as', many, lowered', -⟩ := spoilMany_atSettle (s := s.withPools ps) (l := l) (i := i) (accs := accountsAfter accs (es.map (·.1)))
    (r := r.withdraws.printed rest (es.map (·.2)))
    (j := (j.counts es.length (chargesOf accs (es.map (·.1)))).passesOn others (es.map (·.2.received)).sum c)
    (free := free') (as := as2) hj hr hs rfl after
  refine ⟨low', c, ps, free', as', ?_, lowered', frees, plain⟩
  rw [drops]
  unfold State.settleAt
  rw [lane_atSettle, count, confirms, State.spoilAll, lane_atSettle]
  exact many

/-- What a settlement leaves of a job's record besides its list, cursors and spool figures. -/
structure Job.SettlesTo (j k : Job) (n m charge : Nat) : Prop where
  kept : k.lane = j.lane ∧ k.state = j.state ∧ k.tag = j.tag ∧ k.pendingHold = j.pendingHold ∧ k.pendingCancel = j.pendingCancel ∧
    k.account = j.account ∧ k.reasons = j.reasons
  totals : k.totals = ⟨min (j.confirmed + n) 4294967295, min (j.spoiled + m) 4294967295, j.damaged, min (j.charge + charge) 281474976710655⟩

theorem printed_none (h : r.metersInRange) : r.printed r.inflight [] = r := by
  obtain ⟨-, -, hout, hcolour, hmono, -, -⟩ := h
  have hout' : r.sheetsOut ≤ 4294967295 := hout
  have hcolour' : r.colourSides ≤ 4294967295 := hcolour
  have hmono' : r.monoSides ≤ 4294967295 := hmono
  unfold Lane.printed
  simp only [List.map_nil, List.sum_nil, List.length_nil, Nat.add_zero]
  rw [Nat.min_eq_left hout', Nat.min_eq_left hcolour', Nat.min_eq_left hmono']

/-- A settlement at a last-out, carried or not (R111). -/
theorem settleAt_settles {q : Option Word16} {es : List (InFlight × SheetRecord)} {rest : List InFlight} (hj : r.job = some i)
    (hr : r.metersInRange) (hs : j.totalsInRange) (hi : r.inflight = es.map (·.1) ++ rest) (hc : j.state = .cancelling) (hw : s.waitList = [])
    (h : es = [] ∧ (∀ x, q = some x → ∀ e ∈ r.inflight, e.seq ≠ x) ∨
      ∃ last, (es.map (·.1)).getLast? = some last ∧ q = some last.seq ∧ (∀ e ∈ (es.map (·.1)).dropLast, e.seq ≠ last.seq) ∧
        (∀ d, d < es.length → j.cursorMove { j.confirm with pos := j.confirm.pos + d + 1 } = none) ∧
        (j.confirm.copy ≠ j.copies ∧ (∀ e ∈ es, j.recordOf e.1.sheet = some e.2) ∨
          j.confirm = ⟨j.copies, 0⟩ ∧ (∀ e ∈ es, e.2.number = e.1.sheet) ∧ ∃ others, j.records = es.map (·.2) ++ others)) :
    ∃ low ps free' as' k, ((s.atSettle l i accs r j free []).dropOffer l).settleAt l q =
        (s.withPools ps).atSettle l i low ((r.withdraws.printed rest (es.map (·.2))).spoils rest.length) k free' as' ∧
      LoweredBy (accountsAfter accs (es.map (·.1))) low (fun a => offeredBy a r.offer + heldBy a rest) ∧ s.FreesInto ps ∧
      j.SettlesTo k es.length rest.length (chargesOf accs (es.map (·.1))) ∧ (r.inflight = [] → r.offer = none → as' = []) := by
  have hspoiled : r.sheetsSpoiled ≤ 4294967295 := hr.2.2.2.2.2.1
  obtain ⟨hconfirmed, hjs, -, hcharge⟩ := hs
  rcases h with ⟨rfl, hq⟩ | ⟨last, hlast, rfl, hseq, hmoves, h⟩
  · obtain ⟨low, as', settles, lowered, none_risen⟩ := settleAt_of_absent (s := s) (l := l) (i := i) (accs := accs) (free := free) hj hspoiled hjs hq
    obtain rfl : r.inflight = rest := hi
    have lane : r.withdraws.printed r.inflight [] = r.withdraws := printed_none (r := r.withdraws) hr
    refine ⟨low, s.pools, free, as', j.spoils r.inflight.length, ?_, lowered, State.FreesInto.refl s, ⟨⟨rfl, rfl, rfl, rfl, rfl, rfl, rfl⟩, ?_⟩, none_risen⟩
    · rw [settles, List.map_nil, lane]
      rfl
    · have hconfirmed' : j.confirmed ≤ 4294967295 := hconfirmed
      have hcharge' : j.charge ≤ 281474976710655 := hcharge
      unfold Job.totals Job.spoils
      rw [List.length_nil, List.map_nil, chargesOf, Nat.add_zero, Nat.add_zero, Nat.min_eq_left hconfirmed', Nat.min_eq_left hcharge']
  · have some_held : r.inflight ≠ [] := by
      rw [hi]
      intro e
      rw [(List.append_eq_nil_iff.mp e).1] at hlast
      cases hlast
    rcases h with ⟨hcopy, hrec⟩ | ⟨hcopy, hn, others, hrec⟩
    · obtain ⟨low, c, as', settles, lowered⟩ := settleAt_front (s := s) (l := l) (i := i) (accs := accs) (free := free) hj hspoiled hjs hi hlast hseq
        hrec hcopy hmoves
      exact ⟨low, s.pools, free, as', _, settles, lowered, State.FreesInto.refl s, ⟨⟨rfl, rfl, rfl, rfl, rfl, rfl, rfl⟩, rfl⟩,
        fun e => absurd e some_held⟩
    · obtain ⟨low, c, ps, free', as', settles, lowered, frees, -⟩ := settleAt_final (s := s) (l := l) (i := i) (accs := accs) (free := free) hj
        hspoiled hjs hi hlast hseq hrec hn hcopy (.inl hc) hmoves hw
      exact ⟨low, ps, free', as', _, settles, lowered, frees, ⟨⟨rfl, rfl, rfl, rfl, rfl, rfl, rfl⟩, rfl⟩, fun e => absurd e some_held⟩

end

/-! ## The end of an event in which a job leaves its lane -/

/-- The tables that the end of an event leaves. -/
theorem Concludes.kept {u t : State} {done : List Completion} (h : Concludes u t done) : t.jobs = u.jobs ∧ t.lanes = u.lanes ∧
    t.accounts = u.accounts ∧ t.pools = u.pools ∧ t.mem = u.mem ∧ t.sent = u.sent ∧ t.alerts = u.alerts :=
  have same {β : Type} (f : State → β) (hf : f (u.withReplies t) = f u) : f t = f u := (congrArg f h.tables).trans hf
  ⟨same State.jobs rfl, same State.lanes rfl, same State.accounts rfl, same State.pools rfl, same State.mem rfl, same State.sent rfl,
    same State.alerts rfl⟩

/-- An event in which a job has left its lane, where no job can be dispatched and no funds rise visits one, ends with the completions
of its directives. -/
theorem State.Departs.finish {v t : State} {l : LaneNo} {i : Slot} {n : Notice} {done : List Completion} (d : v.Departs t l i n done)
    (hdone : v.todo.done = []) (hx : v.todo.reset = false) (hg : v.queue.resetTaken = false) (hp : ∀ p, t.idle p)
    (hf : ∀ a ∈ v.todo.risen, ∀ k, (t.job k).fundsHeld a = false) (hn : (done.map fun c => ringPlace c.ptr).Nodup) :
    Concludes t t.finish done := by
  obtain ⟨-, ⟨-, -, -, tqueue, -, -⟩, -, -, ttodo, tdone, -, -, -⟩ := d
  rw [hdone, List.nil_append] at tdone
  rw [← tdone] at hn ⊢
  have risen : t.todo.risen = v.todo.risen := (congrArg Todo.risen ttodo).trans rfl
  have reset : t.todo.reset = v.todo.reset := (congrArg Todo.reset ttodo).trans rfl
  exact finish_concludes t (fun p _ => hp p) (by rw [risen]; exact hf) (reset.trans hx) (by rw [tqueue]; exact hg) hn

/-! ## STOPPED -/

section
variable {s : State} {l : LaneNo} {i : Slot}

/-- Whether a notice is queued depends on the notice queue alone. -/
theorem notice_congr {s b : State} (h : s.notices = b.notices) (hd : s.noticeDrops = b.noticeDrops) (n : Notice) :
    (s.notice n).notices = (b.notice n).notices ∧ (s.notice n).noticeDrops = (b.notice n).noticeDrops := by
  rw [notice_eq_of_notices (s := s) (b := b) h hd n]
  exact ⟨rfl, rfl⟩

/-- A lane as it hears a STOPPED (R84, R121). -/
def Lane.stops (r : Lane) : Lane := { r with silence := some (r.current.silence * 1000), answer := none, abort := false }

/-- A STOPPED settles the in-flight list, and releases the job as cancelled (R121). -/
theorem exec_stopped {q : Option Word16} {es : List (InFlight × SheetRecord)} {rest : List InFlight} (hs : s.resetLow = false)
    (hst : (s.lane l).state = .bound ∨ (s.lane l).state = .mediaWait) (ha : (s.lane l).abort = true) (hj : (s.lane l).job = some i)
    (hc : (s.job i).state = .cancelling) (hw : s.waitList = []) (hr : (s.lane l).metersInRange) (ht : (s.job i).totalsInRange)
    (hi : (s.lane l).inflight = es.map (·.1) ++ rest)
    (h : es = [] ∧ (∀ x, q = some x → ∀ e ∈ (s.lane l).inflight, e.seq ≠ x) ∨
      ∃ last, (es.map (·.1)).getLast? = some last ∧ q = some last.seq ∧ (∀ e ∈ (es.map (·.1)).dropLast, e.seq ≠ last.seq) ∧
        (∀ d, d < es.length → (s.job i).cursorMove { (s.job i).confirm with pos := (s.job i).confirm.pos + d + 1 } = none) ∧
        ((s.job i).confirm.copy ≠ (s.job i).copies ∧ (∀ e ∈ es, (s.job i).recordOf e.1.sheet = some e.2) ∨
          (s.job i).confirm = ⟨(s.job i).copies, 0⟩ ∧ (∀ e ∈ es, e.2.number = e.1.sheet) ∧
            ∃ others, (s.job i).records = es.map (·.2) ++ others)) :
    ∃ low ps free' as' k, exec (.stopped l q) s = .next (((s.begin.withPools ps).atSettle l i low
        (((s.lane l).stops.withdraws.printed rest (es.map (·.2))).spoils rest.length) k free' as').releaseJob i true).finish ∧
      LoweredBy (accountsAfter s.accounts (es.map (·.1))) low (fun a => offeredBy a (s.lane l).offer + heldBy a rest) ∧ s.FreesInto ps ∧
      (s.job i).SettlesTo k es.length rest.length (chargesOf s.accounts (es.map (·.1))) ∧
      ((s.lane l).inflight = [] → (s.lane l).offer = none → as' = []) := by
  obtain ⟨low, ps, free', as', k, settles, lowered, frees, kept, none_risen⟩ := settleAt_settles (s := s.begin) (l := l) (i := i)
    (accs := s.accounts) (r := (s.lane l).stops) (j := s.job i) (free := s.sharedFree) (q := q) hj hr ht hi hc hw h
  refine ⟨low, ps, free', as', k, ?_, lowered, frees, kept, none_risen⟩
  have takes : ((s.lane l).state.delivers && (s.lane l).abort) = true := by rw [ha, delivers_iff.mpr hst]; rfl
  have up : (s.lane l).state ≠ .down ∧ (s.lane l).state ≠ .training := by
    rcases hst with h | h
    · rw [h]
      decide
    · rw [h]
      decide
  rw [exec_taken (exec_stopped_eq s l q) hs up.1 takes, heard_of_trained up.2, atSettle_start (i := i)]
  unfold State.takeStopped
  rw [modLane_atSettle]
  dsimp only
  rw [show ({ s.lane l with answer := none, silence := some ((s.lane l).current.silence * 1000), abort := false } : Lane) = (s.lane l).stops from rfl,
    settles, lane_atSettle]
  rw [show ((((s.lane l).stops.withdraws.printed rest (es.map (·.2))).spoils rest.length).job) = some i from hj]

/-- The state of a lane that its CANCELLING job leaves at a STOPPED (R56, R61). -/
def Lane.stoppedState (r : Lane) : LaneState :=
  if r.state = .mediaWait then .mediaWait else if r.newSet.enable = true then .ready else .offline

/-- The record of a lane whose CANCELLING job leaves it at a STOPPED (R56, R61, R83, R121). -/
theorem left_stops {r : Lane} (hst : r.state = .bound ∨ r.state = .mediaWait) (rest : List InFlight) (recs : List SheetRecord) :
    ((r.stops.withdraws.printed rest recs).spoils rest.length).left = { r with
      silence := some (r.current.silence * 1000), job := none, abort := false, offer := none, inflight := [], answer := none, reoffer := none
      retained := none, current := r.newSet, pendingSet := none, state := r.stoppedState
      timeouts := if r.offer = none then r.timeouts else 0
      sheetsOut := min (r.sheetsOut + recs.length) 4294967295
      colourSides := min (r.colourSides + (recs.map SheetRecord.colour).sum) 4294967295
      monoSides := min (r.monoSides + (recs.map SheetRecord.mono).sum) 4294967295
      sheetsSpoiled := min (r.sheetsSpoiled + rest.length) 4294967295 } := by
  have newSet : ((r.stops.withdraws.printed rest recs).spoils rest.length).newSet = r.newSet := rfl
  have answer : r.stops.withdraws.answer = none := ite_self none
  have state : (if r.state = .bound then if r.newSet.enable = true then .ready else .offline else r.state) = r.stoppedState := by
    unfold Lane.stoppedState
    rcases hst with h | h
    · rw [h]
      rfl
    · rw [h]
      rfl
  unfold Lane.left
  rw [newSet, ← state, ← answer]
  rfl

/-- A STOPPED leaves its lane READY exactly where the lane waits for work in a pool (R54, R61). -/
theorem readies_stops {r : Lane} (hst : r.state = .bound ∨ r.state = .mediaWait) (rest : List InFlight) (recs : List SheetRecord)
    (h : r.stoppedState = .ready) : ((r.stops.withdraws.printed rest recs).spoils rest.length).readies = true := by
  have bound : r.state = .bound := hst.resolve_right fun e => by
    unfold Lane.stoppedState at h
    rw [if_pos e] at h
    cases h
  have enabled : r.newSet.enable = true := by
    by_contra e
    unfold Lane.stoppedState at h
    rw [if_neg (by rw [bound]; decide), if_neg e] at h
    cases h
  show (decide (r.state = .bound) && r.newSet.enable) = true
  rw [bound, enabled]
  rfl

/-- The completions of a STOPPED, by the LANE-SET that the lane holds (R61, R83). -/
def Lane.stopDone (r : Lane) (c : QueuePtr) : List Completion :=
  ⟨c, .done, 0, 0⟩ :: match r.pendingSet with
    | some (_, q) => [⟨q, .done, BitVec.ofNat 32 (laneStateCode r.stoppedState), 1⟩]
    | none => []

/-- The event of a STOPPED, from its settlement on (R56, R61, R68, R83). -/
theorem stopped_concludes {c : QueuePtr} {rest : List InFlight} {recs : List SheetRecord} {low : Vector Account 1024} {ps : Vector Pool 8}
    {free' : List Nat} {as' : List AccountNo} {k : Job} {n charge : Nat}
    (hq : ∀ p, (s.pool p).queueOrder = []) (hst : (s.lane l).state = .bound ∨ (s.lane l).state = .mediaWait)
    (hl : (s.job i).lane = some l) (hc : (s.job i).state = .cancelling) (hcancel : (s.job i).pendingCancel = some c)
    (hhold : (s.job i).pendingHold = none) (hw : s.waitList = []) (hg : s.queue.resetTaken = false)
    (hf : as' = [] ∨ ∀ k, (s.job k).reasons.funds = false)
    (hset : ∀ set q, (s.lane l).pendingSet = some (set, q) → ringPlace q ≠ ringPlace c ∧
      ∀ (k : Fin 32) x, s.alerts[k] = some x → x.relayed = true)
    (frees : s.FreesInto ps) (kept : (s.job i).SettlesTo k n rest.length charge) : ∃ u,
    Concludes u (((s.begin.withPools ps).atSettle l i low (((s.lane l).stops.withdraws.printed rest recs).spoils rest.length) k free'
        as').releaseJob i true).finish ((s.lane l).stopDone c) ∧
      u.queue = s.queue ∧ u.notices = (s.notice (.cancelled i (s.job i).tag k.totals)).notices ∧
      u.noticeDrops = (s.notice (.cancelled i (s.job i).tag k.totals)).noticeDrops ∧
      u.job i = Job.vacant ∧ (∀ m, m ≠ i → u.job m = s.job m) ∧
      u.lanes = s.lanes.set l (((s.lane l).stops.withdraws.printed rest recs).spoils rest.length).left ∧
      ((s.lane l).stoppedState = .ready → (u.pool (s.lane l).newSet.pool).ready = (s.pool (s.lane l).newSet.pool).ready ++ [l]) ∧
      u.accounts = low ∧ u.mem = s.mem ∧ u.sent = s.sent := by
  obtain ⟨⟨klane, kstate, ktag, khold, kcancel, kaccount, kreasons⟩, ktotals⟩ := kept
  obtain ⟨R, hR⟩ : ∃ R, ((s.lane l).stops.withdraws.printed rest recs).spoils rest.length = R := ⟨_, rfl⟩
  have code := congrArg Lane.state (left_stops hst rest recs)
  have ready := readies_stops hst rest recs
  have held : R.pendingSet = (s.lane l).pendingSet := by rw [← hR]; rfl
  have newSet : R.newSet = (s.lane l).newSet := by rw [← hR]; rfl
  rw [hR] at code ready ⊢
  dsimp only at code
  obtain ⟨v, hv⟩ : ∃ v, (s.begin.withPools ps).atSettle l i low R k free' as' = v := ⟨_, rfl⟩
  rw [hv]
  have vjob : v.job i = k := by rw [← hv, job_atSettle]
  have vlane : v.lane l = R := by rw [← hv, lane_atSettle]
  obtain ⟨departs, vacant⟩ := releaseJob_departs (s := v) (i := i) (l := l) (by rw [vjob, klane]; exact hl) (by rw [vjob, kstate, hc]; decide) true
  have farewell : k.farewell i true = .cancelled i (s.job i).tag k.totals := by rw [← ktag]; rfl
  rw [vjob, vlane, khold, kcancel, hcancel, hhold, farewell] at departs
  have vwait : v.waitList = [] := by rw [← hv]; exact hw
  have vnotices : v.notices = s.notices ∧ v.noticeDrops = s.noticeDrops := by rw [← hv]; exact ⟨rfl, rfl⟩
  have vjobs : ∀ m, m ≠ i → v.job m = s.job m := fun m hm => by rw [← hv]; exact (State.job_setJob ..).trans (if_neg (Ne.symm hm))
  have others := departs.others vwait
  have jobs : ∀ m, m ≠ i → (v.releaseJob i true).job m = s.job m := fun m hm => (others m hm).trans (vjobs m hm)
  have classes : ∀ p, ((v.releaseJob i true).pool p).queueOrder = [] := fun p => by
    obtain ⟨f, hfree⟩ := frees p
    refine (queueOrder_congr ?_).trans (hq p)
    rw [(departs.pools p).2, ← hv]
    exact (congrArg Pool.classes hfree).trans rfl
  have risen : ∀ a ∈ v.todo.risen, ∀ m, ((v.releaseJob i true).job m).fundsHeld a = false := fun a ha m => by
    rcases hf with h | h
    · rw [← hv] at ha
      rw [show (State.atSettle (s.begin.withPools ps) l i low R k free' as').todo.risen = as' from rfl, h] at ha
      cases ha
    · refine fundsHeld_eq_false fun _ => ?_
      by_cases hm : m = i
      · rw [hm, vacant]
        rfl
      · rw [jobs m hm]
        exact h m
  have nodup : ((R.setDone ++ [⟨c, .done, 0, 0⟩] : List Completion).map fun c => ringPlace c.ptr).Nodup := by
    unfold Lane.setDone
    rw [held]
    cases hp : (s.lane l).pendingSet with
    | none => simp
    | some x => simpa using (hset x.1 x.2 hp).1
  have concludes := departs.finish (by rw [← hv]; rfl) (by rw [← hv]; rfl) (by rw [← hv]; exact hg) (fun p => .inr (classes p)) risen
    (by simpa using nodup)
  have notices := departs.quiet (by
    rw [vlane, held, ← hv]
    intro hne
    obtain ⟨x, hx⟩ := Option.ne_none_iff_exists'.mp hne
    exact (hset x.1 x.2 hx).2) vwait
  have same := notice_congr (s := v) (b := s) vnotices.1 vnotices.2 (.cancelled i (s.job i).tag k.totals)
  have pools := departs.pools (s.lane l).newSet.pool
  obtain ⟨ulanes, ⟨uaccounts, umem, usent, uqueue, -, -⟩, -, -, -, -, -, -, -⟩ := departs
  refine ⟨v.releaseJob i true, ?_, ?_, ?_, ?_, vacant, jobs, ?_, fun h => ?_, ?_, ?_, ?_⟩
  · unfold Lane.stopDone
    unfold Lane.setDone at concludes
    rw [held, code] at concludes
    cases hp : (s.lane l).pendingSet with
    | none =>
      rw [hp] at concludes
      exact concludes
    | some x =>
      rw [hp] at concludes
      exact Concludes.swap concludes (hset x.1 x.2 hp).1
  · rw [uqueue, ← hv]
    rfl
  · exact notices.1.trans same.1
  · exact notices.2.trans same.2
  · rw [ulanes, vlane, ← hv]
    exact Vector.set_set ..
  · obtain ⟨f, hfree⟩ := frees (s.lane l).newSet.pool
    have joins := ready_vacatesLane (s := v) (l := l) (by rw [vlane]; exact ready h)
    rw [vlane, newSet] at joins
    rw [pools.1, joins, ← hv]
    exact (congrArg (fun p : Pool => p.ready ++ [l]) hfree).trans rfl
  · rw [uaccounts, ← hv]
    rfl
  · rw [umem, ← hv]
    rfl
  · rw [usent, ← hv]
    rfl

/-! ## CLEAR -/

/-- A lane as a CLEAR ends its stop (R84, R117). -/
def Lane.cleared (r : Lane) : Lane := { r with escalation := none, silence := some (r.current.silence * 1000) }

theorem exec_clear (hs : s.resetLow = false) (hst : (s.lane l).state = .jammed ∨ (s.lane l).state = .mediaWait) :
    (∀ i, (s.lane l).job = some i → exec (.clear l) s =
      .next ((s.begin.setLane l { (s.lane l).cleared with state := .bound, timeouts := 0 }).offerStep l).finish) ∧
    ((s.lane l).job = none → exec (.clear l) s = .next (s.begin.waitsAs l (s.lane l).cleared).finish) := by
  have up : (s.lane l).state ≠ .down ∧ (s.lane l).state ≠ .training := by
    rcases hst with h | h
    · rw [h]
      decide
    · rw [h]
      decide
  have takes : (decide ((s.lane l).state = .jammed) || decide ((s.lane l).state = .mediaWait)) = true := by
    rcases hst with h | h
    · rw [h]
      rfl
    · rw [h]
      rfl
  have taken := exec_taken (exec_clear_eq s l) hs up.1 takes
  rw [heard_of_trained up.2] at taken
  have cleared : (s.begin.setLane l { s.lane l with silence := some ((s.lane l).current.silence * 1000) }).modLane l
      (fun r => { r with escalation := none }) = s.begin.setLane l (s.lane l).cleared := by
    rw [State.modLane, State.lane_setLane_self, setLane_setLane]
    rfl
  refine ⟨fun i h => ?_, fun h => ?_⟩
  · rw [taken]
    unfold State.takeClear
    rw [cleared, State.lane_setLane_self]
    dsimp only
    rw [h, State.modLane, State.lane_setLane_self, setLane_setLane]
  · rw [taken]
    unfold State.takeClear
    rw [cleared, State.lane_setLane_self]
    dsimp only
    rw [h, ← enterIdle_setLane]

/-- A CLEAR returns a lane to its job, where that has no sheet to offer (R117, R119). -/
theorem clear_bound (hs : s.resetLow = false) (hst : (s.lane l).state = .jammed ∨ (s.lane l).state = .mediaWait) (hj : (s.lane l).job = some i)
    (h : (s.job i).state ≠ .printing ∨ ∀ rec, (s.job i).recordAt (s.job i).send = some rec → rec.cond ≠ .spooled) :
    exec (.clear l) s = .next
      ({ s with lanes := s.lanes.set l { (s.lane l).cleared with state := .bound, timeouts := 0 } } : State).settled := by
  have none_offered : (s.begin.setLane l { (s.lane l).cleared with state := .bound, timeouts := 0 }).offerable l = none :=
    offerable_eq_none fun k rec can => by
      have job := can.job
      rw [State.lane_setLane_self] at job
      obtain rfl : i = k := Option.some.inj (hj.symm.trans job)
      rcases h with h | h
      · exact h can.printing
      · exact h rec can.record can.spooled
  rw [(exec_clear hs hst).1 i hj, offerStep_of_none _ _ none_offered, finish_nothing _ rfl]
  rfl

end

/-- Settles O56. -/
theorem stoppedAndClearEndTheStop : Obligations.StoppedAndClearEndTheStop := by
  intro s l hs hq r p back
  refine ⟨fun i c lastOut entries rest hst ha hj hl hc hcancel hhold hw hg hr ht hf hset => ?stopped,
    fun hst => ⟨fun i hj h => clear_bound hs hst hj h, fun hj he => ?ready, fun hj he => ?offline⟩⟩
  case stopped =>
    intro j hi h sides colour mono debited charges new left totals
    obtain ⟨low, ps, free', as', k, run, lowered, frees, kept, none_risen⟩ := exec_stopped hs hst ha hj hc hw hr ht hi h
    obtain ⟨u, concludes, uqueue, unotices, udrops, vacant, jobs, ulanes, ready, uaccounts, umem, usent⟩ := stopped_concludes
      (low := low) (recs := entries.map (·.2)) (free' := free') (as' := as') hq hst hl hc hcancel hhold hw hg
      (hf.imp (fun h => none_risen h.1 h.2) id) hset frees kept
    obtain ⟨tjobs, tlanes, taccounts, tpools, tmem, tsent, -⟩ := concludes.kept
    have charged : charges = chargesOf s.accounts (entries.map (·.1)) :=
      (foldl_charged (s := s) (fun e : InFlight × SheetRecord => e.1) entries 0).trans (Nat.zero_add _)
    have told : k.totals = totals := kept.totals.trans (by rw [← charged])
    rw [told] at unotices udrops
    have job : ∀ m, State.job _ m = u.job m := fun m => congrArg (fun v : Vector Job 256 => v[m]) tjobs
    refine ⟨_, u, run, concludes, uqueue, unotices, udrops, (job i).trans vacant, fun m hm => (job m).trans (jobs m hm), ?_, fun h => ?_,
      fun a => ?_, tmem.trans umem, tsent.trans usent⟩
    · rw [tlanes, ulanes, left_stops hst, List.length_map, List.map_map, List.map_map]
      rfl
    · exact (congrArg (fun v : Vector Pool 8 => v[new.pool].ready) tpools).trans (ready h)
    · refine (congrArg (fun v : Vector Account 1024 => v[a]) (taccounts.trans uaccounts)).trans ((lowered a).trans ?_)
      dsimp only
      rw [Nat.add_comm (offeredBy _ _)]
      exact congrArg (fun v : Vector Account 1024 => v[a].lowered (heldBy a rest + offeredBy a r.offer))
        (foldl_debited (s := s) (fun e : InFlight × SheetRecord => e.1) entries).symm
  case ready =>
    rw [(exec_clear hs hst).2 hj, finish_waitsAs_of_empty (s := s) (r := (s.lane l).cleared) he (hq _)]
    rfl
  case offline =>
    rw [(exec_clear hs hst).2 hj]
    unfold State.waitsAs
    rw [if_neg (by rw [show (s.lane l).cleared.current.enable = false from he]; decide), finish_nothing _ rfl]
    rfl

end Sys2Proof.Machine
end

section
/-! PROOF. Jams (R113, R114) and lane loss (R65, R87, R122): what a lane's giving up of its work leaves, and the rewinding of its job (R112). -/

namespace Sys2Proof.Machine

/-! ## Settling a job that does not complete -/

/-- `t` differs from `s` by the cursors, the list, the chain and the credit of its jobs, by free queues, and by notices queued: what a
settling that does not complete a job can change (R38, R42 to R44, R89 to R91). -/
structure State.Rests (s t : State) : Prop where
  outside : t.outside = s.outside
  todo : t.todo = s.todo
  pools : ∀ p, (t.pool p).ready = (s.pool p).ready ∧ (t.pool p).classes = (s.pool p).classes
  jobs : ∀ k, (t.job k).standing = (s.job k).standing
  notices : s.notices <+: t.notices

section
variable {s t : State} {i : Slot}

theorem rests_refl (s : State) : s.Rests s := ⟨rfl, rfl, fun _ => ⟨rfl, rfl⟩, fun _ => rfl, List.prefix_rfl⟩

theorem State.Rests.trans {u : State} (h : s.Rests t) (h' : t.Rests u) : s.Rests u :=
  ⟨h'.outside.trans h.outside, h'.todo.trans h.todo, fun p => ⟨(h'.pools p).1.trans (h.pools p).1, (h'.pools p).2.trans (h.pools p).2⟩,
    fun k => (h'.jobs k).trans (h.jobs k), h.notices.trans h'.notices⟩

theorem setJob_rests {j : Job} (h : j.standing = (s.job i).standing) : s.Rests (s.setJob i j) := by
  refine ⟨rfl, rfl, fun _ => ⟨rfl, rfl⟩, fun k => ?_, List.prefix_rfl⟩
  rw [State.job_setJob]
  split
  · rename_i e
    rw [← e, h]
  · rfl

theorem walk_rests : s.Rests s.walk :=
  ⟨outside_walk, todo_walk, fun p => by rw [pool_walk]; exact ⟨rfl, rfl⟩, standing_walk, notices_grow_walk⟩

theorem freeBlocks_rests (bs : List Nat) : s.Rests (s.freeBlocks bs) := by
  refine ⟨outside_freeBlocks bs, todo_freeBlocks bs, fun p => ?_, fun k => congrArg Job.standing (job_freeBlocks bs k), ?_⟩
  · obtain ⟨free, h⟩ := pool_freeBlocks (s := s) bs p
    rw [h]
    exact ⟨rfl, rfl⟩
  · rw [(notices_freeBlocks bs).1]

theorem releasePass_rests : s.Rests (s.releasePass i) := by
  unfold State.releasePass
  split
  · dsimp only
    have freed := (setJob_rests (s := s) (i := i) (j := (s.job i).afterPass) rfl).trans
      (freeBlocks_rests ((s.job i).passRecords.chain.take (s.job i).passRecords.freeable))
    split
    · exact freed.trans walk_rests
    · exact freed
  · exact rests_refl s

/-- A job that a settling does not complete: its intake is open, or its confirm cursor stands on a record that it keeps (R67, R91). -/
def Job.stays (j : Job) : Prop := j.intakeOpen = true ∨
  j.cursorMove j.confirm = none ∧ j.records ≠ [] ∧ (j.confirm.copy ≠ j.copies ∨ j.confirm.pos < j.records.length)

/-- A job whose intake is closed and whose confirm cursor is not at the end keeps a record through a release pass (R42). -/
theorem releasePass_keeps (hr : (s.job i).records ≠ [])
    (hc : (s.job i).confirm.copy ≠ (s.job i).copies ∨ (s.job i).confirm.pos < (s.job i).records.length) :
    ((s.releasePass i).job i).completed = false := by
  unfold State.releasePass
  split
  · rename_i passed
    have final : (s.job i).confirm.copy = (s.job i).copies := by
      unfold Job.hasPassed at passed
      rw [Bool.and_eq_true] at passed
      exact beq_iff_eq.mp passed.1
    have short := hc.resolve_left fun h => h final
    have left : ∀ g p q, ((s.job i).afterPass.atCredit g p q).completed = false := fun g p q => by
      have records : ((s.job i).afterPass.atCredit g p q).records = (s.job i).records.drop (s.job i).confirm.pos := rfl
      have some_left : (s.job i).records.drop (s.job i).confirm.pos ≠ [] := by
        rw [Ne, List.drop_eq_nil_iff]
        omega
      exact completed_eq_false (by rw [records]; exact some_left) (.inr (by rw [records]; exact List.length_pos_iff.mpr some_left))
    dsimp only
    rw [← Job.afterPass]
    split
    · obtain ⟨g, p, q, h⟩ := job_walk (s := (s.setJob i (s.job i).afterPass).freeBlocks
        ((s.job i).passRecords.chain.take (s.job i).passRecords.freeable)) i
      rw [h, job_freeBlocks, State.job_setJob_self]
      exact left g p q
    · rw [job_freeBlocks, State.job_setJob_self]
      exact left (s.job i).granted (s.job i).promised (s.job i).promisedShared
  · exact completed_eq_false hr hc

/-- The settling of a job's cursors, both at its confirm cursor, where that cannot move (R89 to R91). -/
theorem settled_of_rewound {j : Job} (hc : j.cursorMove j.confirm = none) :
    ({ j with send := j.confirm } : Job).settleSend.settleConfirm = { j with send := j.confirm } := by
  obtain ⟨c, moves, kept⟩ := settleCursors_of_still (j := { j with send := j.confirm }) hc
  rw [moves, kept hc]

/-- A job that does not complete, with both cursors at its confirm cursor, is settled (R112). -/
theorem settle_rests (h : (s.job i).stays) : s.Rests ((s.modJob i fun j => { j with send := j.confirm }).settle i) := by
  obtain ⟨j, hj⟩ : ∃ j, ({ s.job i with send := (s.job i).confirm } : Job) = j := ⟨_, rfl⟩
  have moved : (s.modJob i fun j => { j with send := j.confirm }).modJob i (fun j => j.settleSend.settleConfirm) =
      s.setJob i j.settleSend.settleConfirm := by
    rw [State.modJob, State.modJob, State.job_setJob_self, setJob_setJob, hj]
  have rests : s.Rests ((s.setJob i j.settleSend.settleConfirm).releasePass i) :=
    (setJob_rests (by rw [← hj]; rfl)).trans releasePass_rests
  have alive : (((s.setJob i j.settleSend.settleConfirm).releasePass i).job i).completed = false := by
    rcases h with h | ⟨hm, hr, hc⟩
    · refine completed_of_open ?_
      rw [releasePass_leaves.2.2, State.job_setJob_self, ← hj]
      exact h
    · have still : j.settleSend.settleConfirm = j := by rw [← hj]; exact settled_of_rewound hm
      refine releasePass_keeps ?_ ?_
      · rw [State.job_setJob_self, still, ← hj]
        exact hr
      · rw [State.job_setJob_self, still, ← hj]
        exact hc
  unfold State.settle
  rw [moved, State.testCompletion, alive, Bool.false_and, if_neg (by decide)]
  exact rests

/-- A rewinding where the confirm cursor stands still and has passed nothing (R112). -/
theorem settle_rewound (h : (s.job i).stays) (hm : (s.job i).cursorMove (s.job i).confirm = none)
    (hp : (s.job i).confirm.copy ≠ (s.job i).copies ∨ (s.job i).confirm.pos = 0) :
    (s.modJob i fun j => { j with send := j.confirm }).settle i = s.setJob i { s.job i with send := (s.job i).confirm } := by
  have alive : (s.job i).completed = false := by
    rcases h with h | ⟨-, hr, hc⟩
    · exact completed_of_open h
    · exact completed_eq_false hr hc
  have kept : (s.job i).hasPassed = false := by
    unfold Job.hasPassed
    rcases hp with hp | hp
    · rw [beq_eq_false_iff_ne.mpr hp, Bool.false_and]
    · rw [hp]
      exact Bool.and_false _
  unfold State.settle
  rw [State.modJob, State.modJob, State.job_setJob_self, setJob_setJob, settled_of_rewound hm,
    releasePass_of_not_passed (by rw [State.job_setJob_self]; exact kept), State.testCompletion, State.job_setJob_self,
    show ({ s.job i with send := (s.job i).confirm } : Job).completed = false from alive, Bool.false_and, if_neg (by decide)]

/-- A lane that retains the offer `x`, or none. -/
def Lane.retaining (r : Lane) (x : Option Retained) : Lane := { r with retained := x }

/-- The rewinding of a job that does not complete: its settling, and what its lane then retains (R112). -/
theorem rewind_rests (l : LaneNo) (h : (s.job i).stays) : ∃ u kept, s.rewind l i = u.setLane l ((u.lane l).retaining kept) ∧
    s.Rests u ∧ ((s.job i).cursorMove (s.job i).confirm = none →
      ((s.job i).confirm.copy ≠ (s.job i).copies ∨ (s.job i).confirm.pos = 0) →
      u = s.setJob i { s.job i with send := (s.job i).confirm }) :=
  ⟨(s.modJob i fun j => { j with send := j.confirm }).settle i, _, rfl, settle_rests h, fun hm hp => settle_rewound h hm hp⟩

end

/-! ## The end of an event -/

/-- What the end of an event leaves of the state `w` before it, with the completions of `done` (R164, R165). -/
structure State.EndsIn (w t : State) (done : List Completion) : Prop where
  tables : t.jobs = w.jobs ∧ t.lanes = w.lanes ∧ t.accounts = w.accounts ∧ t.pools = w.pools ∧ t.mem = w.mem ∧ t.sent = w.sent ∧
    t.alerts = w.alerts ∧ t.sharedFree = w.sharedFree
  results : ∀ c ∈ done, (t.entry c.ptr).cond = .complete c.result c.value1 c.value2
  notices : w.notices <+: t.notices

/-- An event ends with its completions, or with none, where no job can be dispatched and no funds rise visits one. -/
theorem finish_endsIn {w : State} {done : List Completion} (hp : ∀ p, w.idle p) (hr : ∀ a k, (w.job k).fundsHeld a = false)
    (hd : w.todo.done = done) (hx : w.todo.reset = false) (hn : (done.map fun c => ringPlace c.ptr).Nodup)
    (hg : w.queue.resetTaken = false ∨ done = []) : w.EndsIn w.finish done := by
  rcases hg with hg | hg
  · have ends := finish_concludes w (fun p _ => hp p) (fun a _ k => hr a k) hx hg (by rw [hd]; exact hn)
    rw [hd] at ends
    obtain ⟨jobs, lanes, accounts, pools, mem, sent, alerts⟩ := ends.kept
    obtain ⟨ns, h, -⟩ := ends.notices
    refine ⟨⟨jobs, lanes, accounts, pools, mem, sent, alerts, (congrArg State.sharedFree ends.tables).trans rfl⟩, ends.results, ?_⟩
    rw [h]
    exact List.prefix_append ..
  · have ends : w.finish = w.settled := finish_quiet w (fun p _ => hp p) (fun a _ k => hr a k) (hd.trans hg) hx
    rw [ends, hg]
    exact ⟨⟨rfl, rfl, rfl, rfl, rfl, rfl, rfl, rfl⟩, fun c hc => (by cases hc), List.prefix_rfl⟩

/-! ## The record of an alert -/

section
variable {s t : State} {e : AlertEvent}

theorem relayInto_alert (k : Fin 32) (x : AlertRecord) : ∃ b, (s.relayInto k x).alerts[k] = some { x with relayed := b } := by
  unfold State.relayInto
  split
  · exact ⟨false, Vector.getElem_set_self ..⟩
  · exact ⟨s.noticeRoom, Vector.getElem_set_self ..⟩

/-- An event whose key no record has fills a free one (R153). -/
theorem raised_of_free (hn : s.findAlert e = none) (hf : ∃ k : Fin 32, s.alerts[k] = none) :
    ∃ (k : Fin 32) (b : Bool), (s.raiseAlert e).alerts[k] = some { e.record s.tick with relayed := b } := by
  obtain ⟨k, hk⟩ : ∃ k, s.freeAlert = some k := by
    obtain ⟨k, hk⟩ := hf
    refine Option.isSome_iff_exists.mp ?_
    unfold State.freeAlert
    rw [List.find?_isSome]
    exact ⟨k, List.mem_finRange k, by rw [hk]; rfl⟩
  obtain ⟨b, h⟩ := relayInto_alert (s := s) k (e.record s.tick)
  refine ⟨k, b, ?_⟩
  unfold State.raiseAlert
  rw [hn, hk]
  exact h

/-- An event coalesces into the record with its key (R153). -/
theorem raised_of_found {k : Fin 32} {x : AlertRecord} (hk : s.findAlert e = some k) (hx : s.alerts[k] = some x) :
    ∃ b, (s.raiseAlert e).alerts[k] = some { x.coalesce e s.tick with relayed := b } := by
  unfold State.raiseAlert
  rw [hk]
  dsimp only
  rw [hx]
  exact relayInto_alert k _

/-- The record with an event's key. -/
theorem found_has_key {k : Fin 32} (hk : s.findAlert e = some k) : ∃ x, s.alerts[k] = some x ∧ x.hasKey e = true := by
  have key := List.find?_some hk
  cases hx : s.alerts[k] with
  | none =>
    rw [hx] at key
    cases key
  | some x =>
    rw [hx] at key
    exact ⟨x, rfl, key⟩

/-- With a free record in the log, an event has a record afterwards, which names it (R153). -/
theorem raised_names (hf : ∃ k : Fin 32, s.alerts[k] = none) : ∃ (k : Fin 32) (x : AlertRecord), (s.raiseAlert e).alerts[k] = some x ∧
    x.kind = e.kind ∧ x.lane = e.lane ∧ x.slot = e.slot ∧ x.account = e.account ∧ x.copy = e.copy ∧ x.sheet = e.sheet ∧ x.last = s.tick := by
  cases hk : s.findAlert e with
  | none =>
    obtain ⟨k, b, h⟩ := raised_of_free hk hf
    exact ⟨k, _, h, rfl, rfl, rfl, rfl, rfl, rfl, rfl⟩
  | some k =>
    obtain ⟨x, hx, key⟩ := found_has_key hk
    obtain ⟨b, h⟩ := raised_of_found hk hx
    obtain ⟨kind, lane, slot⟩ := (hasKey_iff x e).mp key
    exact ⟨k, _, h, kind, lane, slot, rfl, rfl, rfl, rfl⟩

/-- An event changes of a state but the alert log and the notice queue, to which it adds at most one item. -/
theorem raiseAlert_adds_one : s.notices <+: (s.raiseAlert e).notices ∧ (s.raiseAlert e).notices.length ≤ s.notices.length + 1 := by
  rcases raiseAlert_noticesFrom s e with h | ⟨n, h, -⟩
  · rw [h.1]
    exact ⟨List.prefix_rfl, Nat.le_succ _⟩
  · rw [h]
    refine ⟨notices_grow_notice n, ?_⟩
    unfold State.notice
    split
    · simp
    · exact Nat.le_succ _

end

/-! ## A lane that has given up its work -/

/-- In `v` lane `l` has the record `r`, the accounts are `accs`, and besides the intake part of its records the job of slot `i` is `k`;
the rest of what the end of an event reads is as in `s`, between two events (R109 to R113, R122). -/
structure State.GivesUp (s v : State) (l : LaneNo) (i : Slot) (r : Lane) (k : Job) (accs : Vector Account 1024) : Prop where
  lanes : v.lanes = s.lanes.set l r
  kept : v.accounts = accs ∧ v.mem = s.mem ∧ v.sent = s.sent ∧ v.queue = s.queue ∧ v.station = s.station
  todo : v.todo.done = [] ∧ v.todo.requeued = [] ∧ v.todo.reset = false
  pools : ∀ p, (v.pool p).ready = (s.pool p).ready ∧ (v.pool p).classes = (s.pool p).classes
  job : (v.job i).standing = k.standing
  others : ∀ m, m ≠ i → (v.job m).standing = (s.job m).standing

section
variable {s v : State} {l : LaneNo} {i : Slot} {r : Lane} {k : Job} {accs : Vector Account 1024}

theorem atSettle_givesUp {ps : Vector Pool 8} {free : List Nat} {as : List AccountNo} (h : s.FreesInto ps) :
    s.GivesUp ((s.begin.withPools ps).atSettle l i accs r k free as) l i r k accs := by
  refine ⟨rfl, ⟨rfl, rfl, rfl, rfl, rfl⟩, ⟨rfl, rfl, rfl⟩, fun p => ?_, congrArg Job.standing job_atSettle, fun m hm => ?_⟩
  · obtain ⟨f, hf⟩ := h p
    have same : (State.atSettle (s.begin.withPools ps) l i accs r k free as).pool p = { s.pool p with free := f } := hf
    rw [same]
    exact ⟨rfl, rfl⟩
  · exact congrArg Job.standing ((State.job_setJob ..).trans (if_neg (Ne.symm hm)))

namespace State.GivesUp

theorem lane (h : s.GivesUp v l i r k accs) : v.lane l = r := by
  show v.lanes[l] = r
  rw [h.lanes]
  exact Vector.getElem_set_self ..

theorem modLane (h : s.GivesUp v l i r k accs) (f : Lane → Lane) : s.GivesUp (v.modLane l f) l i (f r) k accs := by
  refine ⟨?_, h.kept, h.todo, h.pools, h.job, h.others⟩
  rw [State.modLane, h.lane]
  show v.lanes.set l (f r) = _
  rw [h.lanes]
  exact Vector.set_set ..

theorem raiseAlert (h : s.GivesUp v l i r k accs) (e : AlertEvent) : s.GivesUp (v.raiseAlert e) l i r k accs := by
  rw [raiseAlert_frame]
  exact ⟨h.lanes, h.kept, h.todo, h.pools, h.job, h.others⟩

theorem rests {t : State} (h : s.GivesUp v l i r k accs) (ht : v.Rests t) : s.GivesUp t l i r k accs := by
  obtain ⟨tlanes, taccounts, -, tmem, tsent, tqueue, -, tstation⟩ := of_outside ht.outside
  refine ⟨tlanes.trans h.lanes, ?_, by rw [ht.todo]; exact h.todo, fun p => ?_, (ht.jobs i).trans h.job, fun m hm => (ht.jobs m).trans (h.others m hm)⟩
  · rw [taccounts, tmem, tsent, tqueue, tstation]
    exact h.kept
  · rw [(ht.pools p).1, (ht.pools p).2]
    exact h.pools p

end State.GivesUp

/-- The job of the lane is rewound where it is PRINTING or HOLDING (R112). -/
theorem State.GivesUp.rewindBound (h : s.GivesUp v l i r k accs) (hj : r.job = some i) (hs : (v.job i).state = .cancelling ∨ (v.job i).stays) :
    ∃ kept, s.GivesUp (v.rewindBound l) l i (r.retaining kept) k accs ∧ (v.rewindBound l).alerts = v.alerts ∧
      (v.rewindBound l).tick = v.tick ∧ v.notices <+: (v.rewindBound l).notices := by
  have eq : v.rewindBound l = if (v.job i).state = .printing || (v.job i).state = .holding then v.rewind l i else v := by
    unfold State.rewindBound
    rw [h.lane, hj]
  rw [eq]
  split
  · rename_i rewound
    have stays := hs.resolve_left fun c => by
      rw [c] at rewound
      cases rewound
    obtain ⟨u, kept, eq, rests, -⟩ := rewind_rests l stays
    obtain ⟨-, -, ualerts, -, -, -, utick, -⟩ := of_outside rests.outside
    rw [eq]
    exact ⟨kept, (h.rests rests).modLane fun x => x.retaining kept, ualerts, utick, rests.notices⟩
  · exact ⟨r.retained, h, rfl, rfl, List.prefix_rfl⟩

end

section
variable {s v : State} {l : LaneNo} {i : Slot} {r : Lane} {k : Job} {accs : Vector Account 1024}

/-- The rewinding of a job whose confirm cursor stands still and has passed nothing (R112). -/
theorem rewindBound_still (hj : (v.lane l).job = some i) (hs : (v.job i).state = .printing ∨ (v.job i).state = .holding) (hk : (v.job i).stays)
    (hm : (v.job i).cursorMove (v.job i).confirm = none)
    (hp : (v.job i).confirm.copy ≠ (v.job i).copies ∨ (v.job i).confirm.pos = 0) :
    (v.rewindBound l).job i = { v.job i with send := (v.job i).confirm } ∧ (v.rewindBound l).notices = v.notices ∧
      (v.rewindBound l).sharedFree = v.sharedFree := by
  have rewound : ((v.job i).state = .printing || (v.job i).state = .holding) = true := by
    rcases hs with h | h
    · rw [h]
      rfl
    · rw [h]
      rfl
  obtain ⟨u, kept, eq, -, still⟩ := rewind_rests l hk
  have rewinds : v.rewindBound l = v.rewind l i := by
    unfold State.rewindBound
    rw [hj]
    exact if_pos rewound
  rw [rewinds, eq, still hm hp]
  exact ⟨State.job_setJob_self .., rfl, rfl⟩

end

/-! ## The job of such a lane leaves it -/

/-- `w` is as `s`, between two events, where the job of lane `l` has left it, so that the lane has the record `r` and its pool no ready
lane more: for what the end of an event reads and leaves (R56, R83). -/
structure State.LeftBy (s w : State) (l : LaneNo) (r : Lane) (accs : Vector Account 1024) (done : List Completion) : Prop where
  lanes : w.lanes = s.lanes.set l r
  kept : w.accounts = accs ∧ w.mem = s.mem ∧ w.sent = s.sent ∧ w.queue = s.queue ∧ w.station = s.station
  todo : w.todo.done = done ∧ w.todo.reset = false
  ready : ∀ p, (w.pool p).ready = (s.pool p).ready
  funds : (∀ m, (s.job m).reasons.funds = false) → ∀ m, (w.job m).reasons.funds = false

section
variable {s v : State} {l : LaneNo} {i : Slot} {r : Lane} {k : Job} {accs : Vector Account 1024}

theorem reasons_of_standing {j j' : Job} (h : j.standing = j'.standing) : j.reasons = j'.reasons := by
  have same := congrArg Job.reasons h
  exact same

theorem readies_of_not_bound (hb : r.state ≠ .bound) : r.readies = false := by
  unfold Lane.readies
  rw [decide_eq_false hb, Bool.false_and]

theorem leftBy_of_departs {w : State} {n : Notice} {done : List Completion} (h : s.GivesUp v l i r k accs) (d : v.Departs w l i n done)
    (hb : r.state ≠ .bound) (hf : (w.job i).reasons.funds = false) : s.LeftBy w l r.left accs done := by
  refine ⟨?_, ?_, ⟨?_, ?_⟩, fun p => ?_, fun funds m => ?_⟩
  · rw [d.lanes, h.lane, h.lanes]
    exact Vector.set_set ..
  · obtain ⟨waccounts, wmem, wsent, wqueue, -, wstation⟩ := d.kept
    rw [waccounts, wmem, wsent, wqueue, wstation]
    exact h.kept
  · rw [d.done, h.todo.1]
    rfl
  · exact ((congrArg Todo.reset d.todo).trans rfl).trans h.todo.2.2
  · have pools : (v.vacatesLane l).pools = v.pools := pools_vacatesLane_of_not (by rw [h.lane]; exact readies_of_not_bound hb)
    refine (d.pools p).1.trans ?_
    show (v.vacatesLane l).pools[p].ready = _
    rw [pools]
    exact (h.pools p).1
  · by_cases hm : m = i
    · rw [hm]
      exact hf
    · rw [reasons_of_standing (d.standing m hm), reasons_of_standing (h.others m hm)]
      exact funds m

/-- The completions of the directives of a HOLDING job that enters HELD as it leaves its lane (R50, R83). -/
def Job.heldDone (k : Job) (r : Lane) : List Completion :=
  (k.pendingHold.map fun q => (⟨q, .done, val32 (reasonsCode k.reasons), 0⟩ : Completion)).toList ++ r.setDone

/-- The completions of the directives of a CANCELLING job that is released from its lane (R61, R83). -/
def Job.cancelDone (k : Job) (r : Lane) : List Completion :=
  r.setDone ++ (k.pendingCancel.map fun q => (⟨q, .done, 0, 0⟩ : Completion)).toList ++
    (k.pendingHold.map fun q => (⟨q, .state, 0, 0⟩ : Completion)).toList

/-- A HOLDING job of a lane that has given up its work becomes HELD (R65, R114). -/
theorem enterHeld_leftBy (h : s.GivesUp v l i r k accs) (hb : r.state ≠ .bound) (hl : k.lane = some l) (hf : k.reasons.funds = false) :
    s.LeftBy (v.enterHeld i) l r.left accs (k.heldDone r) ∧ v.relays (v.enterHeld i) ∧
      (v.enterHeld i).job i = { v.job i with state := .held, pendingHold := none, lane := none } ∧
      (v.notice (.held i k.tag k.reasons)).notices <+: (v.enterHeld i).notices := by
  have same {β : Type} (f : Job → β) (hs : ∀ j : Job, f j.standing = f j) : f (v.job i) = f k := by rw [← hs (v.job i), h.job, hs]
  obtain ⟨departs, held⟩ := enterHeld_departs (s := v) (i := i) (l := l) ((same Job.lane fun _ => rfl).trans hl)
  rw [same Job.pendingHold fun _ => rfl, same Job.reasons fun _ => rfl, same Job.tag fun _ => rfl, h.lane] at departs
  exact ⟨leftBy_of_departs h departs hb (by rw [held]; exact (congrArg Reasons.funds (same Job.reasons fun _ => rfl)).trans hf),
    departs.alerts, held, departs.notices⟩

/-- A CANCELLING job of a lane that has given up its work is released as cancelled (R65, R114). -/
theorem releaseJob_leftBy (h : s.GivesUp v l i r k accs) (hb : r.state ≠ .bound) (hl : k.lane = some l) (hc : k.state = .cancelling) :
    s.LeftBy (v.releaseJob i true) l r.left accs (k.cancelDone r) ∧ v.relays (v.releaseJob i true) ∧ (v.releaseJob i true).job i = Job.vacant ∧
      (v.notice (.cancelled i k.tag k.totals)).notices <+: (v.releaseJob i true).notices := by
  have same {β : Type} (f : Job → β) (hs : ∀ j : Job, f j.standing = f j) : f (v.job i) = f k := by rw [← hs (v.job i), h.job, hs]
  obtain ⟨departs, vacant⟩ := releaseJob_departs (s := v) (i := i) (l := l) ((same Job.lane fun _ => rfl).trans hl)
    (by rw [same Job.state fun _ => rfl, hc]; decide) true
  have farewell : (v.job i).farewell i true = .cancelled i k.tag k.totals := by
    rw [← same Job.tag fun _ => rfl, ← same Job.totals fun _ => rfl]
    rfl
  rw [same Job.pendingHold fun _ => rfl, same Job.pendingCancel fun _ => rfl, h.lane, farewell] at departs
  exact ⟨leftBy_of_departs h departs hb (by rw [vacant]; rfl), departs.alerts, vacant, departs.notices⟩

/-- A PRINTING job of a lane that has given up its work is QUEUED again at the front of its class (R51, R65). -/
theorem requeue_leftBy (h : s.GivesUp v l i r k accs) (hb : r.state ≠ .bound) (hl : k.lane = some l) (hf : k.reasons.funds = false) :
    s.LeftBy ((v.leaveLane i).requeue i) l r.left accs r.setDone ∧ v.relays ((v.leaveLane i).requeue i) ∧
      ((v.leaveLane i).requeue i).job i = { v.job i with state := .queued, lane := none } ∧
      (((v.leaveLane i).requeue i).pool k.pool).classes[k.prio] = i :: (s.pool k.pool).classes[k.prio] := by
  have same {β : Type} (f : Job → β) (hs : ∀ j : Job, f j.standing = f j) : f (v.job i) = f k := by rw [← hs (v.job i), h.job, hs]
  obtain ⟨alerts, ns, drops, left, relays, -, -⟩ := leaveLane_eq (s := v) (i := i) (l := l) ((same Job.lane fun _ => rfl).trans hl)
  have pools : (v.vacatesLane l).pools = v.pools := pools_vacatesLane_of_not (by rw [h.lane]; exact readies_of_not_bound hb)
  obtain ⟨w, hw⟩ : ∃ w, v.leaveLane i = w := ⟨_, rfl⟩
  have wjob : w.job i = { v.job i with lane := none } := by rw [← hw, left]; exact State.job_setJob_self ..
  have wjobs : ∀ m, m ≠ i → w.job m = v.job m := fun m hm => by rw [← hw, left]; exact (State.job_setJob ..).trans (if_neg (Ne.symm hm))
  have wpool : ∀ p, w.pool p = v.pool p := fun p => by
    rw [← hw, left]
    show (v.vacatesLane l).pools[p] = _
    rw [pools]
    rfl
  have wtodo : w.todo = { (v.vacatesLane l).todo with done := v.todo.done ++ (v.lane l).setDone } := by rw [← hw, left]
  have wlanes : w.lanes = v.lanes.set l (v.lane l).left := by rw [← hw, left]; rfl
  have wkept : w.accounts = v.accounts ∧ w.mem = v.mem ∧ w.sent = v.sent ∧ w.queue = v.queue ∧ w.station = v.station := by
    rw [← hw, left]
    exact ⟨rfl, rfl, rfl, rfl, rfl⟩
  have walerts : v.relays w := hw ▸ relays
  clear left relays
  rw [hw]
  have prio : ({ v.job i with lane := none } : Job).prio = k.prio := same Job.prio fun _ => rfl
  have pool : ({ v.job i with lane := none } : Job).pool = k.pool := same Job.pool fun _ => rfl
  have requeued := requeue_of_first (s := w) (i := i) (by rw [wtodo]; exact h.todo.2.1)
  rw [wjob, prio, pool, wpool] at requeued
  have job : ((w.requeue i).job i) = { v.job i with state := .queued, lane := none } := by
    rw [requeued]
    exact State.job_setJob_self ..
  have pools' : ∀ p, (w.requeue i).pool p = if k.pool = p then (v.pool k.pool).behind k.prio i else v.pool p := fun p => by
    rw [requeued, State.pool_noteDispatch, State.pool_noteRequeued, State.pool_setPool]
    split
    · rfl
    · exact wpool p
  refine ⟨⟨?_, ?_, ⟨?_, ?_⟩, fun p => ?_, fun funds m => ?_⟩, ?_, job, ?_⟩
  · rw [requeued]
    show w.lanes = _
    rw [wlanes, h.lane, h.lanes]
    exact Vector.set_set ..
  · rw [requeued]
    show w.accounts = _ ∧ w.mem = _ ∧ w.sent = _ ∧ w.queue = _ ∧ w.station = _
    obtain ⟨waccounts, wmem, wsent, wqueue, wstation⟩ := wkept
    rw [waccounts, wmem, wsent, wqueue, wstation]
    exact h.kept
  · rw [requeued]
    show w.todo.done = _
    rw [wtodo]
    show v.todo.done ++ _ = _
    rw [h.todo.1, h.lane]
    rfl
  · rw [requeued]
    show w.todo.reset = _
    rw [wtodo]
    exact h.todo.2.2
  · rw [pools' p]
    split
    · rename_i e
      rw [← e]
      exact (h.pools k.pool).1
    · exact (h.pools p).1
  · by_cases hm : m = i
    · rw [hm, job]
      exact (congrArg Reasons.funds (same Job.reasons fun _ => rfl)).trans hf
    · have other : (w.requeue i).job m = v.job m := by
        rw [requeued]
        exact ((State.job_setJob ..).trans (if_neg (Ne.symm hm))).trans (wjobs m hm)
      rw [other, reasons_of_standing (h.others m hm)]
      exact funds m
  · rw [requeued]
    exact walerts
  · rw [pools', if_pos rfl]
    show ((v.pool k.pool).classes.set k.prio (i :: (v.pool k.pool).classes[k.prio]))[k.prio] = _
    rw [(h.pools k.pool).2]
    exact Vector.getElem_set_self ..

end

end Sys2Proof.Machine
end

section
/-! PROOF. JAM (R113, R114): settles O55. -/

namespace Sys2Proof.Machine

/-- A lane as it hears a JAM (R84, R113). -/
def Lane.jamStart (r : Lane) : Lane :=
  { r with silence := some (r.current.silence * 1000), state := .jammed, answer := none, reoffer := none, abort := false }

/-- A lane's record of a jam, with the escalation timer that it starts (R113, R115). -/
def Lane.jamsAt (r : Lane) (location : BitVec 4) (job : Option (Slot × AccountNo)) : Lane :=
  ({ r with jams := bump r.jams, lastJam := some ⟨location, job⟩ } : Lane).startEscalation

/-- The jam in the lane's record and in the alert log (R113). -/
def State.jamEnds (s : State) (l : LaneNo) (location : BitVec 4) (job : Option (Slot × AccountNo)) (spoiled : Option InFlight) : State :=
  ((s.modLane l fun r => { r with jams := bump r.jams, lastJam := some ⟨location, job⟩ }).raiseAlert
    (laneAlert .jam l job (spoiled.map (·.copy)) (spoiled.map (·.sheet)) 0)).modLane l Lane.startEscalation

section
variable {s t u v : State} {l : LaneNo} {i : Slot} {r : Lane} {k : Job} {accs : Vector Account 1024} {location : BitVec 4}
  {spoiled : Option InFlight}

/-- The log of `t` holds the JAM of lane `l`, of which `e` was the first sheet-copy spoiled, if it had a free record in `s` (R113). -/
def State.tellsJam (s t : State) (l : LaneNo) (i : Slot) (e : Option InFlight) : Prop :=
  (∃ k : Fin 32, s.alerts[k] = none) → ∃ (k : Fin 32) (x : AlertRecord), t.alerts[k] = some x ∧ x.kind = .jam ∧ x.lane = some l ∧
    x.slot = some i ∧ x.account = some (s.job i).account ∧ x.copy = e.map (·.copy) ∧ x.sheet = e.map (·.sheet) ∧ x.last = s.tick

theorem tellsJam_relays {e : Option InFlight} (h : s.tellsJam v l i e) (hr : v.relays t) : s.tellsJam t l i e := fun free => by
  obtain ⟨k, x, hx, named⟩ := h free
  obtain ⟨b, hb⟩ := hr.2 k x hx
  exact ⟨k, _, hb, named⟩

/-- What follows the settlement of a jam (R112, R113). -/
theorem jam_givesUp (hu : s.GivesUp u l i r k accs) (ha : u.alerts = s.alerts) (ht : u.tick = s.tick) (hj : r.job = some i)
    (hs : (u.job i).state = .cancelling ∨ (u.job i).stays) : ∃ kept,
    s.GivesUp ((u.rewindBound l).jamEnds l location (some (i, (s.job i).account)) spoiled) l i
      ((r.retaining kept).jamsAt location (some (i, (s.job i).account))) k accs ∧
    s.tellsJam ((u.rewindBound l).jamEnds l location (some (i, (s.job i).account)) spoiled) l i spoiled := by
  obtain ⟨kept, gives, alerts, tick, -⟩ := hu.rewindBound hj hs
  obtain ⟨w, hw⟩ : ∃ w, (u.rewindBound l).modLane l
    (fun r => { r with jams := bump r.jams, lastJam := some ⟨location, some (i, (s.job i).account)⟩ }) = w := ⟨_, rfl⟩
  have jams := gives.modLane fun r => { r with jams := bump r.jams, lastJam := some ⟨location, some (i, (s.job i).account)⟩ }
  have walerts : w.alerts = s.alerts := by rw [← hw]; exact alerts.trans ha
  have wtick : w.tick = s.tick := by rw [← hw]; exact tick.trans ht
  unfold State.jamEnds
  rw [hw] at jams ⊢
  refine ⟨kept, (jams.raiseAlert _).modLane Lane.startEscalation, fun free => ?_⟩
  rw [← walerts] at free
  obtain ⟨m, x, hx, kind, lane, slot, account, copy, sheet, last⟩ := raised_names (s := w)
    (e := laneAlert .jam l (some (i, (s.job i).account)) (spoiled.map (·.copy)) (spoiled.map (·.sheet)) 0) free
  exact ⟨m, x, hx, kind, lane, slot, account, copy, sheet, last.trans wtick⟩

theorem jamEnds_keeps (job : Option (Slot × AccountNo)) : (∀ m, (u.jamEnds l location job spoiled).job m = u.job m) ∧
    (u.jamEnds l location job spoiled).sharedFree = u.sharedFree ∧
    (u.jamEnds l location job spoiled).notices.length ≤ u.notices.length + 1 := by
  unfold State.jamEnds
  obtain ⟨w, hw⟩ : ∃ w, u.modLane l (fun r => { r with jams := bump r.jams, lastJam := some ⟨location, job⟩ }) = w := ⟨_, rfl⟩
  have same : w.jobs = u.jobs ∧ w.sharedFree = u.sharedFree ∧ w.notices = u.notices := by rw [← hw]; exact ⟨rfl, rfl, rfl⟩
  obtain ⟨jobs, free, notices⟩ := same
  rw [hw]
  have grows := (raiseAlert_adds_one (s := w)
    (e := laneAlert .jam l job (spoiled.map (·.copy)) (spoiled.map (·.sheet)) 0)).2
  rw [notices] at grows
  refine ⟨fun m => ?_, ?_, grows⟩
  · rw [State.job_modLane, job_raiseAlert]
    exact congrArg (fun js : Vector Job 256 => js[m]) jobs
  · rw [raiseAlert_frame]
    exact free

/-- The event of a JAM (R113, R114). -/
theorem exec_jam {q : Option Word16} (hs : s.resetLow = false) (hst : (s.lane l).state = .bound ∨ (s.lane l).state = .mediaWait)
    (hj : (s.lane l).job = some i) : exec (.jam l q location) s =
    .next ((((((s.begin.atSettle l i s.accounts (s.lane l).jamStart (s.job i) s.sharedFree []).dropOffer l).settleAt l q).rewindBound l).jamEnds
      l location (some (i, (s.job i).account)) (firstSpoiled (s.lane l).inflight q)).afterJam l).finish := by
  have up : (s.lane l).state ≠ .down ∧ (s.lane l).state ≠ .training := by
    rcases hst with h | h
    · rw [h]
      decide
    · rw [h]
      decide
  rw [exec_taken (exec_jam_eq s l q location) hs up.1 (delivers_iff.mpr hst), heard_of_trained up.2, atSettle_start (i := i)]
  unfold State.takeJam State.jamSettle
  rw [modLane_atSettle, lane_atSettle]
  have job : (s.begin.atSettle l i s.accounts { s.lane l with silence := some ((s.lane l).current.silence * 1000) } (s.job i) s.sharedFree
      []).boundJob l = some (i, (s.job i).account) := by
    unfold State.boundJob
    rw [lane_atSettle]
    dsimp only
    rw [hj, Option.map_some, job_atSettle]
  rw [job]
  rfl

end

/-! ## The lane's record after a jam -/

/-- The record `x` of a lane with what a jam leaves of the record `r` of before: `m` sheets spoiled, and those of the records `recs`
confirmed (R104, R109, R113, R115). -/
def Lane.asJammed (r x : Lane) (recs : List SheetRecord) (m : Nat) (location : BitVec 4) (job : Slot × AccountNo) : Lane := { x with
  state := .jammed, carrier := r.carrier, cap := r.cap, flags := r.flags, seq := r.seq, offer := none, abort := false
  inflight := [], hail := r.hail, silence := some (r.current.silence * 1000), answer := none, reoffer := none
  escalation := if r.current.escalation = 0 then r.escalation else some (r.current.escalation * 60000)
  crcErrors := r.crcErrors, ignored := r.ignored, sheetsOut := min (r.sheetsOut + recs.length) 4294967295
  colourSides := min (r.colourSides + (recs.map SheetRecord.colour).sum) 4294967295
  monoSides := min (r.monoSides + (recs.map SheetRecord.mono).sum) 4294967295
  sheetsSpoiled := min (r.sheetsSpoiled + m) 4294967295
  jams := min (r.jams + 1) 4294967295, lastJam := some ⟨location, some job⟩ }

/-- The record of a lane after the settlement of a jam, with what it retains then (R111 to R113). -/
def Lane.jammedWith (r : Lane) (rest : List InFlight) (recs : List SheetRecord) (kept : Option Retained) (location : BitVec 4)
    (job : Slot × AccountNo) : Lane :=
  (((r.jamStart.withdraws.printed rest recs).spoils rest.length).retaining kept).jamsAt location (some job)

section
variable {r : Lane} {rest : List InFlight} {recs : List SheetRecord} {kept : Option Retained} {location : BitVec 4} {job : Slot × AccountNo}

theorem jammedWith_eq : r.jammedWith rest recs kept location job = { r with
    state := .jammed, offer := none, abort := false, inflight := [], silence := some (r.current.silence * 1000), answer := none, reoffer := none
    timeouts := if r.offer = none then r.timeouts else 0, retained := kept
    escalation := if r.current.escalation = 0 then r.escalation else some (r.current.escalation * 60000)
    sheetsOut := min (r.sheetsOut + recs.length) 4294967295
    colourSides := min (r.colourSides + (recs.map SheetRecord.colour).sum) 4294967295
    monoSides := min (r.monoSides + (recs.map SheetRecord.mono).sum) 4294967295
    sheetsSpoiled := min (r.sheetsSpoiled + rest.length) 4294967295
    jams := min (r.jams + 1) 4294967295, lastJam := some ⟨location, some job⟩ } := by
  have withdrawn : r.jamStart.withdraws = { r with
      silence := some (r.current.silence * 1000), state := .jammed, answer := none, reoffer := none, abort := false, offer := none
      timeouts := if r.offer = none then r.timeouts else 0 } := by
    unfold Lane.withdraws
    rw [show (if r.jamStart.offer = none then r.jamStart.answer else none) = none from ite_self none]
    rfl
  unfold Lane.jammedWith
  rw [withdrawn]
  unfold Lane.jamsAt Lane.startEscalation
  by_cases h : r.current.escalation = 0
  · rw [if_pos h]
    exact if_pos h
  · rw [if_neg h]
    exact if_neg h

theorem jammedWith_asJammed : r.jammedWith rest recs kept location job =
    r.asJammed (r.jammedWith rest recs kept location job) recs rest.length location job := by
  rw [jammedWith_eq]
  rfl

theorem left_jammedWith : (r.jammedWith rest recs kept location job).left = { r.jammedWith rest recs kept location job with
    job := none, reoffer := none, retained := none, pendingSet := none, current := r.newSet } := by
  rw [jammedWith_eq]
  rfl

theorem left_jammedWith_asJammed : (r.jammedWith rest recs kept location job).left =
    r.asJammed (r.jammedWith rest recs kept location job).left recs rest.length location job := by
  rw [left_jammedWith, jammedWith_eq]
  rfl

theorem jammedWith_keeps : (r.jammedWith rest recs kept location job).state = .jammed ∧
    (r.jammedWith rest recs kept location job).job = r.job ∧ (r.jammedWith rest recs kept location job).current = r.current ∧
    (r.jammedWith rest recs kept location job).pendingSet = r.pendingSet := by
  rw [jammedWith_eq]
  exact ⟨rfl, rfl, rfl, rfl⟩

/-- A LANE-SET held at a lane that is not BOUND completes with the lane's state as the job leaves (R83). -/
theorem setDone_of_not_bound (hb : r.state ≠ .bound) : r.setDone =
    (r.pendingSet.map fun x => (⟨x.2, .done, val32 (laneStateCode r.state), 1⟩ : Completion)).toList := by
  unfold Lane.setDone Lane.left
  rw [if_neg hb]

end

/-! ## The event's end -/

section
variable {s v w : State} {l : LaneNo} {i : Slot} {r : Lane} {k : Job} {accs : Vector Account 1024}

/-- An event in which a job has left its lane, with no lane ready and no job that holds FUNDS, ends with its completions. -/
theorem finish_leftBy {done : List Completion} (h : s.LeftBy w l r accs done) (hr : s.noLaneReady) (hf : ∀ m, (s.job m).reasons.funds = false)
    (hn : (done.map fun c => ringPlace c.ptr).Nodup) (hg : s.queue.resetTaken = false ∨ done = []) : w.EndsIn w.finish done :=
  finish_endsIn (fun p => .inl ((h.ready p).trans (hr p))) (fun _ m => fundsHeld_eq_false fun _ => h.funds hf m) h.todo.1 h.todo.2 hn
    (hg.imp (fun g => (congrArg DirectiveQueue.resetTaken h.kept.2.2.2.1).trans g) id)

/-- The completions of directives of a job and its lane that stand at different places of the queue (R83). -/
theorem nodup_heldDone (h : ∀ set p q, r.pendingSet = some (set, p) → k.pendingHold = some q → ringPlace p ≠ ringPlace q) :
    ((k.heldDone r).map fun c => ringPlace c.ptr).Nodup := by
  unfold Job.heldDone Lane.setDone
  cases hp : r.pendingSet with
  | none => cases k.pendingHold <;> simp
  | some x =>
    cases hh : k.pendingHold with
    | none => simp
    | some q => simpa using (h x.1 x.2 q hp hh).symm

theorem nodup_cancelDone (hk : k.pendingHold = none)
    (h : ∀ set p q, r.pendingSet = some (set, p) → k.pendingCancel = some q → ringPlace p ≠ ringPlace q) :
    ((k.cancelDone r).map fun c => ringPlace c.ptr).Nodup := by
  unfold Job.cancelDone Lane.setDone
  rw [hk]
  cases hp : r.pendingSet with
  | none => cases k.pendingCancel <;> simp
  | some x =>
    cases hc : k.pendingCancel with
    | none => simp
    | some q => simpa using h x.1 x.2 q hp hc

end

section
variable {s v : State} {l : LaneNo} {i : Slot} {r : Lane} {k : Job} {accs : Vector Account 1024} {e : Option InFlight}

/-- What a JAM leaves in every case: the record `x` of its lane, the accounts, and the JAM in the log (R113). -/
structure State.JamsTo (s t : State) (l : LaneNo) (i : Slot) (x : Lane) (accs : Vector Account 1024) (e : Option InFlight) : Prop where
  lanes : t.lanes = s.lanes.set l x
  kept : t.accounts = accs ∧ t.mem = s.mem ∧ t.sent = s.sent
  tells : s.tellsJam t l i e

theorem tellsJam_of_alerts {t : State} (h : s.tellsJam v l i e) (ha : t.alerts = v.alerts) : s.tellsJam t l i e := by
  unfold State.tellsJam
  rw [ha]
  exact h

theorem jamsTo_of_leftBy {w t : State} {x : Lane} {done : List Completion} (h : s.LeftBy w l x accs done) (ends : w.EndsIn t done)
    (tells : s.tellsJam w l i e) : s.JamsTo t l i x accs e := by
  obtain ⟨-, tlanes, taccounts, -, tmem, tsent, talerts, -⟩ := ends.tables
  exact ⟨tlanes.trans h.lanes, ⟨taccounts.trans h.kept.1, tmem.trans h.kept.2.1, tsent.trans h.kept.2.2.1⟩,
    tellsJam_of_alerts tells talerts⟩

/-- A PRINTING job stays bound to its jammed lane (R114). -/
theorem jam_prints (h : s.GivesUp v l i r k accs) (hj : r.job = some i) (hk : k.state = .printing) (tells : s.tellsJam v l i e)
    (hr : s.noLaneReady) (hf : ∀ m, (s.job m).reasons.funds = false) (hkf : k.reasons.funds = false) :
    s.JamsTo (v.afterJam l).finish l i r accs e ∧ (v.afterJam l).finish.jobs = v.jobs ∧ (v.afterJam l).finish.sharedFree = v.sharedFree := by
  have state : (v.job i).state = .printing := (congrArg Job.state h.job).trans hk
  have stays : v.afterJam l = v := by
    unfold State.afterJam
    rw [h.lane, hj]
    dsimp only
    rw [state]
  have funds : ∀ m, (v.job m).reasons.funds = false := fun m => by
    by_cases hm : m = i
    · rw [hm, reasons_of_standing h.job]
      exact hkf
    · rw [reasons_of_standing (h.others m hm)]
      exact hf m
  have ends : v.EndsIn v.finish [] := finish_endsIn (fun p => .inl ((h.pools p).1.trans (hr p))) (fun _ m => fundsHeld_eq_false fun _ => funds m)
    h.todo.1 h.todo.2.2 List.nodup_nil (.inr rfl)
  obtain ⟨tjobs, tlanes, taccounts, -, tmem, tsent, talerts, tfree⟩ := ends.tables
  rw [stays]
  exact ⟨⟨tlanes.trans h.lanes, ⟨taccounts.trans h.kept.1, tmem.trans h.kept.2.1, tsent.trans h.kept.2.2.1⟩, tellsJam_of_alerts tells talerts⟩,
    tjobs, tfree⟩

/-- A HOLDING job of a jammed lane becomes HELD (R114). -/
theorem jam_holds (h : s.GivesUp v l i r k accs) (hb : r.state ≠ .bound) (hj : r.job = some i) (hk : k.state = .holding) (hl : k.lane = some l)
    (tells : s.tellsJam v l i e) (hr : s.noLaneReady) (hf : ∀ m, (s.job m).reasons.funds = false) (hkf : k.reasons.funds = false)
    (hg : s.queue.resetTaken = false)
    (hn : ∀ set p q, r.pendingSet = some (set, p) → k.pendingHold = some q → ringPlace p ≠ ringPlace q) :
    s.JamsTo (v.afterJam l).finish l i r.left accs e ∧
      (v.afterJam l).finish.job i = { v.job i with state := .held, pendingHold := none, lane := none } ∧
      (∀ c ∈ k.heldDone r, ((v.afterJam l).finish.entry c.ptr).cond = .complete c.result c.value1 c.value2) ∧
      (v.notice (.held i k.tag k.reasons)).notices <+: (v.afterJam l).finish.notices := by
  have held : v.afterJam l = v.enterHeld i := by
    unfold State.afterJam
    rw [h.lane, hj]
    dsimp only
    rw [show (v.job i).state = .holding from (congrArg Job.state h.job).trans hk]
  obtain ⟨left, relays, job, grows⟩ := enterHeld_leftBy h hb hl hkf
  rw [held]
  have ends := finish_leftBy left hr hf (nodup_heldDone hn) (.inl hg)
  exact ⟨jamsTo_of_leftBy left ends (tellsJam_relays tells relays), (congrArg (fun js : Vector Job 256 => js[i]) ends.tables.1).trans job, ends.results,
    grows.trans ends.notices⟩

/-- A CANCELLING job of a jammed lane is released as cancelled (R114). -/
theorem jam_cancels (h : s.GivesUp v l i r k accs) (hb : r.state ≠ .bound) (hj : r.job = some i) (hk : k.state = .cancelling)
    (hl : k.lane = some l) (tells : s.tellsJam v l i e) (hr : s.noLaneReady) (hf : ∀ m, (s.job m).reasons.funds = false)
    (hg : s.queue.resetTaken = false) (hh : k.pendingHold = none)
    (hn : ∀ set p q, r.pendingSet = some (set, p) → k.pendingCancel = some q → ringPlace p ≠ ringPlace q) :
    s.JamsTo (v.afterJam l).finish l i r.left accs e ∧ (v.afterJam l).finish.job i = Job.vacant ∧
      (∀ c ∈ k.cancelDone r, ((v.afterJam l).finish.entry c.ptr).cond = .complete c.result c.value1 c.value2) ∧
      (v.notice (.cancelled i k.tag k.totals)).notices <+: (v.afterJam l).finish.notices := by
  have released : v.afterJam l = v.releaseJob i true := by
    unfold State.afterJam
    rw [h.lane, hj]
    dsimp only
    rw [show (v.job i).state = .cancelling from (congrArg Job.state h.job).trans hk]
  obtain ⟨left, relays, job, grows⟩ := releaseJob_leftBy h hb hl hk
  rw [released]
  have ends := finish_leftBy left hr hf (nodup_cancelDone hh hn) (.inl hg)
  exact ⟨jamsTo_of_leftBy left ends (tellsJam_relays tells relays), (congrArg (fun js : Vector Job 256 => js[i]) ends.tables.1).trans job, ends.results,
    grows.trans ends.notices⟩

/-- A notice queued where the notice queue has room is in it. -/
theorem mem_notice (n : Notice) (h : s.notices.length < 128) : n ∈ (s.notice n).notices := by
  unfold State.notice
  rw [if_pos (by simpa [State.noticeRoom] using h)]
  simp

end

/-! ## The settlement of a jam -/

section
variable {s : State} {l : LaneNo} {i : Slot} {location : BitVec 4}

/-- The state in which a jam's settlement starts (R113). -/
def State.atJam (s : State) (l : LaneNo) (i : Slot) : State :=
  s.begin.atSettle l i s.accounts (s.lane l).jamStart (s.job i) s.sharedFree []

/-- A JAM whose last-out no entry carries (R111). -/
theorem jam_absent {q : Option Word16} (hj : (s.lane l).job = some i) (hr : (s.lane l).metersInRange) (hs : (s.job i).totalsInRange)
    (hq : ∀ x, q = some x → ∀ e ∈ (s.lane l).inflight, e.seq ≠ x) : ∃ low as',
      ((s.atJam l i).dropOffer l).settleAt l q = (s.begin.withPools s.pools).atSettle l i low
        (((s.lane l).jamStart.withdraws.printed (s.lane l).inflight []).spoils (s.lane l).inflight.length)
        ((s.job i).spoils (s.lane l).inflight.length) s.sharedFree as' ∧
      LoweredBy s.accounts low (fun a => offeredBy a (s.lane l).offer + heldBy a (s.lane l).inflight) := by
  obtain ⟨low, as', settles, lowered, -⟩ := settleAt_of_absent (s := s.begin) (l := l) (i := i) (accs := s.accounts) (r := (s.lane l).jamStart)
    (j := s.job i) (free := s.sharedFree) hj hr.2.2.2.2.2.1 hs.2.1 hq
  refine ⟨low, as', ?_, lowered⟩
  rw [show (s.lane l).jamStart.withdraws.printed (s.lane l).inflight [] = (s.lane l).jamStart.withdraws from
    printed_none (r := (s.lane l).jamStart.withdraws) hr]
  exact settles

end

section
variable {s : State} {l : LaneNo} {i : Slot} {location : BitVec 4}

/-- A job whose rewinding moves nothing but its send cursor: its confirm cursor stands still and has passed nothing (R112). -/
def Job.still (j : Job) : Prop := j.cursorMove j.confirm = none ∧ (j.confirm.copy ≠ j.copies ∨ j.confirm.pos = 0)

/-- A JAM up to what becomes of the job (R111 to R113). -/
theorem jam_settled {q : Option Word16} {ps : Vector Pool 8} {low : Vector Account 1024} {recs : List SheetRecord} {rest : List InFlight}
    {k : Job} {free : List Nat} {as : List AccountNo} (hs : s.resetLow = false)
    (hst : (s.lane l).state = .bound ∨ (s.lane l).state = .mediaWait) (hj : (s.lane l).job = some i)
    (settles : ((s.atJam l i).dropOffer l).settleAt l q = (s.begin.withPools ps).atSettle l i low
      (((s.lane l).jamStart.withdraws.printed rest recs).spoils rest.length) k free as)
    (frees : s.FreesInto ps) (hk : k.state = .cancelling ∨ k.stays) (he : firstSpoiled (s.lane l).inflight q = rest.head?) :
    ∃ v kept, exec (.jam l q location) s = .next (v.afterJam l).finish ∧
      s.GivesUp v l i ((s.lane l).jammedWith rest recs kept location (i, (s.job i).account)) k low ∧ s.tellsJam v l i rest.head? ∧
      (k.state = .printing ∨ k.state = .holding → k.stays → k.still →
        v.job i = { k with send := k.confirm } ∧ v.sharedFree = free ∧ v.notices.length ≤ s.notices.length + 1) ∧
      (k.state = .cancelling → v.notices.length ≤ s.notices.length + 1) := by
  obtain ⟨u, hu⟩ : ∃ u, (s.begin.withPools ps).atSettle l i low
    (((s.lane l).jamStart.withdraws.printed rest recs).spoils rest.length) k free as = u := ⟨_, rfl⟩
  have gives : s.GivesUp u l i (((s.lane l).jamStart.withdraws.printed rest recs).spoils rest.length) k low := by
    rw [← hu]
    exact atSettle_givesUp frees
  have job : u.job i = k := by rw [← hu, job_atSettle]
  have fields : u.alerts = s.alerts ∧ u.tick = s.tick ∧ u.sharedFree = free ∧ u.notices = s.notices := by
    rw [← hu]
    exact ⟨rfl, rfl, rfl, rfl⟩
  obtain ⟨alerts, tick, sharedFree, notices⟩ := fields
  have laneJob : (((s.lane l).jamStart.withdraws.printed rest recs).spoils rest.length).job = some i := hj
  obtain ⟨kept, ends, tells⟩ := jam_givesUp (location := location) (spoiled := rest.head?) gives alerts tick laneJob (by rw [job]; exact hk)
  obtain ⟨jobs, sameFree, grows⟩ := jamEnds_keeps (u := u.rewindBound l) (l := l) (location := location) (spoiled := rest.head?)
    (some (i, (s.job i).account))
  refine ⟨_, kept, ?_, ends, tells, fun hp hk hstill => ?_, fun hc => ?_⟩
  · rw [exec_jam hs hst hj, he]
    rw [show (((s.begin.atSettle l i s.accounts (s.lane l).jamStart (s.job i) s.sharedFree []).dropOffer l).settleAt l q) = u from
      settles.trans hu]
  · obtain ⟨rjob, rnotices, rfree⟩ := rewindBound_still (v := u) (l := l) (i := i) (by rw [gives.lane]; exact laneJob) (by rw [job]; exact hp)
      (by rw [job]; exact hk) (by rw [job]; exact hstill.1) (by rw [job]; exact hstill.2)
    rw [jobs i, rjob, sameFree, rfree, job]
    rw [rnotices, notices] at grows
    exact ⟨rfl, sharedFree, grows⟩
  · have kept : u.rewindBound l = u := by
      unfold State.rewindBound
      rw [gives.lane, laneJob]
      dsimp only
      rw [job, hc]
      rfl
    rw [kept, notices] at grows
    rw [kept]
    exact grows

/-- The first sheet-copy that a JAM spoils (R113). -/
theorem firstSpoiled_of_absent {es : List InFlight} {q : Option Word16} (h : ∀ x, q = some x → ∀ e ∈ es, e.seq ≠ x) :
    firstSpoiled es q = es.head? := by
  unfold firstSpoiled
  rw [confirmedBy_of_absent h, List.drop_zero]

theorem firstSpoiled_of_held {es rest : List InFlight} {last : InFlight} (hl : es.getLast? = some last)
    (hd : ∀ e ∈ es.dropLast, e.seq ≠ last.seq) : firstSpoiled (es ++ rest) (some last.seq) = rest.head? := by
  unfold firstSpoiled
  rw [confirmedBy_append hl hd, List.drop_left]

/-- A last-out that no entry carries is as none (R111). -/
theorem exec_jam_absent {q : Word16} (hs : s.resetLow = false) (hst : (s.lane l).state = .bound ∨ (s.lane l).state = .mediaWait)
    (hj : (s.lane l).job = some i) (hq : ∀ e ∈ (s.lane l).inflight, e.seq ≠ q) :
    exec (.jam l (some q) location) s = exec (.jam l none location) s := by
  have absent : ∀ x, some q = some x → ∀ e ∈ (s.lane l).inflight, e.seq ≠ x := fun x hx => by cases hx; exact hq
  have neither : ∀ x, none = some x → ∀ e ∈ (s.lane l).inflight, e.seq ≠ x := fun x hx => by cases hx
  obtain ⟨low, as', drops, -⟩ := dropOffer_atSettle (s := s.begin) (l := l) (i := i) (accs := s.accounts) (r := (s.lane l).jamStart) (j := s.job i)
    (free := s.sharedFree) (as := [])
  have same : (((s.atJam l i).dropOffer l).settleAt l (some q)) = (((s.atJam l i).dropOffer l).settleAt l none) := by
    unfold State.atJam State.settleAt
    rw [drops, lane_atSettle, show (s.lane l).jamStart.withdraws.inflight = (s.lane l).inflight from rfl, confirmedBy_of_absent absent,
      confirmedBy_of_absent neither]
  rw [exec_jam hs hst hj, exec_jam hs hst hj, firstSpoiled_of_absent absent, firstSpoiled_of_absent neither, ← State.atJam, same]

end

/-- The cursor at the head of the list that is left stands as the one behind the records that have left it did (R90). -/
theorem cursorMove_past {j k : Job} {front others : List SheetRecord} {c : Nat} (hj : j.records = front ++ others) (hk : k.records = others)
    (ho : others ≠ []) (h : j.cursorMove ⟨c, front.length⟩ = none) : k.cursorMove ⟨c, 0⟩ = none := by
  obtain ⟨x, rest, rfl⟩ := List.exists_cons_of_ne_nil ho
  unfold Job.cursorMove at h ⊢
  dsimp only at h ⊢
  rw [hj, List.getElem?_append_right (Nat.le_refl _), Nat.sub_self, List.getElem?_cons_zero] at h
  rw [hk, List.getElem?_cons_zero]
  by_cases passable : x.cond.passable = true
  · simp [passable] at h
  · exact if_neg passable

section
variable {s : State} {l : LaneNo} {i : Slot} {location : BitVec 4} {es : List (InFlight × SheetRecord)} {last : InFlight} {rest : List InFlight}

/-- A JAM at a last-out of a copy that is not the final one, whose PRINTING job stays bound (R104, R111 to R114). -/
theorem jam_front (hs : s.resetLow = false) (hst : (s.lane l).state = .bound ∨ (s.lane l).state = .mediaWait) (hj : (s.lane l).job = some i)
    (hr : s.noLaneReady) (hf : ∀ k, (s.job k).reasons.funds = false) (hm : (s.lane l).metersInRange) (ht : (s.job i).totalsInRange)
    (hp : (s.job i).state = .printing) (hi : (s.lane l).inflight = es.map (·.1) ++ rest) (hlast : (es.map (·.1)).getLast? = some last)
    (hseq : ∀ e ∈ (es.map (·.1)).dropLast, e.seq ≠ last.seq) (hrec : ∀ e ∈ es, (s.job i).recordOf e.1.sheet = some e.2)
    (hcopy : (s.job i).confirm.copy ≠ (s.job i).copies)
    (hmoves : ∀ d, d < es.length → (s.job i).cursorMove { (s.job i).confirm with pos := (s.job i).confirm.pos + d + 1 } = none) :
    ∃ t low kept, exec (.jam l (some last.seq) location) s = .next t ∧
      s.JamsTo t l i ((s.lane l).jammedWith rest (es.map (·.2)) kept location (i, (s.job i).account)) low rest.head? ∧
      LoweredBy (accountsAfter s.accounts (es.map (·.1))) low (fun a => offeredBy a (s.lane l).offer + heldBy a rest) ∧
      t.job i = (((s.job i).counts es.length (chargesOf s.accounts (es.map (·.1)))).movesOn es.length
        { (s.job i).confirm with pos := (s.job i).confirm.pos + es.length }).spoils rest.length := by
  obtain ⟨low, c, as', settles, lowered⟩ := settleAt_front (s := s.begin) (l := l) (i := i) (accs := s.accounts) (r := (s.lane l).jamStart)
    (j := s.job i) (free := s.sharedFree) hj hm.2.2.2.2.2.1 ht.2.1 hi hlast hseq hrec hcopy hmoves
  obtain ⟨e, some_held⟩ : ∃ e, e ∈ es := List.exists_mem_of_ne_nil es fun h => by
    rw [h] at hlast
    cases hlast
  have count : es.length - 1 + 1 = es.length := Nat.succ_pred_eq_of_pos (List.length_pos_of_mem some_held)
  have stands := hmoves (es.length - 1) (by omega)
  rw [Nat.add_assoc, count] at stands
  obtain ⟨k, hk⟩ : ∃ k, (((s.job i).counts es.length (chargesOf s.accounts (es.map (·.1)))).movesOn es.length c).spoils rest.length = k := ⟨_, rfl⟩
  have fields : k.records = (s.job i).records ∧ k.confirm = { (s.job i).confirm with pos := (s.job i).confirm.pos + es.length } ∧
      k.copies = (s.job i).copies ∧ k.state = (s.job i).state ∧ k.reasons = (s.job i).reasons ∧ k.cursorMove = (s.job i).cursorMove := by
    rw [← hk]
    exact ⟨rfl, rfl, rfl, rfl, rfl, rfl⟩
  obtain ⟨krecords, kconfirm, kcopies, kstate, kreasons, kmove⟩ := fields
  rw [← kmove, ← kconfirm] at stands
  have copy : k.confirm.copy ≠ k.copies := by
    rw [kconfirm, kcopies]
    exact hcopy
  have stays : k.stays := .inr ⟨stands, by rw [krecords]; exact records_of_recordOf (hrec e some_held), .inl copy⟩
  rw [hk] at settles
  obtain ⟨v, kept, run, gives, tells, still, -⟩ := jam_settled (location := location) hs hst hj (ps := s.pools) settles (State.FreesInto.refl s)
    (.inr stays) (by rw [hi]; exact firstSpoiled_of_held hlast hseq)
  obtain ⟨job, -, -⟩ := still (.inl (kstate.trans hp)) stays ⟨stands, .inl copy⟩
  obtain ⟨jams, jobs, -⟩ := jam_prints gives (jammedWith_keeps.2.1.trans hj) (kstate.trans hp) tells hr hf (by rw [kreasons]; exact hf i)
  refine ⟨_, low, kept, run, jams, lowered, (congrArg (fun js : Vector Job 256 => js[i]) jobs).trans ?_⟩
  rw [show v.jobs[i] = v.job i from rfl, job, kconfirm, ← hk]
  rfl

/-- A JAM at a last-out of the final copy, whose PRINTING job stays bound (R42 to R44, R104, R111 to R114). -/
theorem jam_final {others : List SheetRecord} (hs : s.resetLow = false) (hst : (s.lane l).state = .bound ∨ (s.lane l).state = .mediaWait)
    (hj : (s.lane l).job = some i) (hr : s.noLaneReady) (hf : ∀ k, (s.job k).reasons.funds = false) (hm : (s.lane l).metersInRange)
    (ht : (s.job i).totalsInRange) (hp : (s.job i).state = .printing) (hi : (s.lane l).inflight = es.map (·.1) ++ rest)
    (hlast : (es.map (·.1)).getLast? = some last) (hseq : ∀ e ∈ (es.map (·.1)).dropLast, e.seq ≠ last.seq)
    (hrec : (s.job i).records = es.map (·.2) ++ others) (hn : ∀ e ∈ es, e.2.number = e.1.sheet) (ho : others ≠ [])
    (hcopy : (s.job i).confirm = ⟨(s.job i).copies, 0⟩) (hw : s.waitList = []) (hres : ∀ p, (s.pool p).reserved = false)
    (hmoves : ∀ d, d < es.length → (s.job i).cursorMove { (s.job i).confirm with pos := (s.job i).confirm.pos + d + 1 } = none) :
    ∃ t low kept, exec (.jam l (some last.seq) location) s = .next t ∧
      s.JamsTo t l i ((s.lane l).jammedWith rest (es.map (·.2)) kept location (i, (s.job i).account)) low rest.head? ∧
      LoweredBy (accountsAfter s.accounts (es.map (·.1))) low (fun a => offeredBy a (s.lane l).offer + heldBy a rest) ∧
      t.sharedFree = s.sharedFree ++ (s.job i).freedBy (es.map (·.2.received)).sum ∧
      t.job i = (((s.job i).counts es.length (chargesOf s.accounts (es.map (·.1)))).passesOn others (es.map (·.2.received)).sum
        (s.job i).confirm).spoils rest.length := by
  obtain ⟨low, c, ps, free', as', settles, lowered, frees, plain⟩ := settleAt_final (s := s.begin) (l := l) (i := i) (accs := s.accounts)
    (r := (s.lane l).jamStart) (j := s.job i) (free := s.sharedFree) hj hm.2.2.2.2.2.1 ht.2.1 hi hlast hseq hrec hn hcopy (.inr ho) hmoves hw
  have count : es.length - 1 + 1 = es.length := Nat.succ_pred_eq_of_pos (List.length_pos_iff.mpr fun h => by
    rw [h] at hlast
    cases hlast)
  have behind := hmoves (es.length - 1) (by omega)
  rw [Nat.add_assoc, count, hcopy, Nat.zero_add] at behind
  obtain ⟨k, hk⟩ : ∃ k, (((s.job i).counts es.length (chargesOf s.accounts (es.map (·.1)))).passesOn others (es.map (·.2.received)).sum c).spoils
    rest.length = k := ⟨_, rfl⟩
  have fields : k.records = others ∧ k.confirm = (s.job i).confirm ∧ k.copies = (s.job i).copies ∧ k.state = (s.job i).state ∧
      k.reasons = (s.job i).reasons := by
    rw [← hk]
    exact ⟨rfl, rfl, rfl, rfl, rfl⟩
  obtain ⟨krecords, kconfirm, kcopies, kstate, kreasons⟩ := fields
  have stands : k.cursorMove k.confirm = none := by
    rw [kconfirm, hcopy]
    exact cursorMove_past hrec krecords ho (by rw [List.length_map]; exact behind)
  have pos : k.confirm.pos = 0 := by rw [kconfirm, hcopy]
  have stays : k.stays := .inr ⟨stands, by rw [krecords]; exact ho, .inr (by rw [pos, krecords]; exact List.length_pos_iff.mpr ho)⟩
  rw [hk] at settles
  obtain ⟨v, kept, run, gives, tells, still, -⟩ := jam_settled (location := location) hs hst hj settles frees (.inr stays)
    (by rw [hi]; exact firstSpoiled_of_held hlast hseq)
  obtain ⟨job, free, -⟩ := still (.inl (kstate.trans hp)) stays ⟨stands, .inr pos⟩
  obtain ⟨jams, jobs, sameFree⟩ := jam_prints gives (jammedWith_keeps.2.1.trans hj) (kstate.trans hp) tells hr hf (by rw [kreasons]; exact hf i)
  refine ⟨_, low, kept, run, jams, lowered, sameFree.trans (free.trans (plain hres).2), (congrArg (fun js : Vector Job 256 => js[i]) jobs).trans ?_⟩
  rw [show v.jobs[i] = v.job i from rfl, job, kconfirm, ← hk]
  rfl

end

/-- Settles O55. -/
theorem jamSettlesWhatIsInFlight : Obligations.JamSettlesWhatIsInFlight := by
  intro s l i location hs hst hj hl hr hf hm ht r j new sides colour mono debited charges jammed kept stays
  have jams : ∀ (t : State) (x : Lane) (low : Vector Account 1024) (entries : List (InFlight × SheetRecord)) (rest : List InFlight),
      s.JamsTo t l i x low rest.head? → x = r.asJammed x (entries.map (·.2)) rest.length location (i, j.account) →
      LoweredBy (accountsAfter s.accounts (entries.map (·.1))) low (fun a => offeredBy a r.offer + heldBy a rest) →
      jammed t entries rest := by
    intro t x low entries rest h hx lowered
    have lane : t.lane l = x := (congrArg (fun v : Vector Lane 16 => v[l]) h.lanes).trans (Vector.getElem_set_self ..)
    refine ⟨?_, fun k hk => ?_, fun a => ?_, h.kept.2.1, h.kept.2.2, h.tells⟩
    · rw [lane]
      refine hx.trans ?_
      unfold Lane.asJammed
      rw [List.length_map, List.map_map, List.map_map]
      rfl
    · have other : t.lane k = (s.lanes.set l x)[k] := congrArg (fun v : Vector Lane 16 => v[k]) h.lanes
      exact other.trans (Vector.getElem_set_ne l.2 k.2 fun e => hk (Fin.ext e.symm))
    · refine (congrArg (fun v : Vector Account 1024 => v[a]) h.kept.1).trans ((lowered a).trans ?_)
      dsimp only
      rw [Nat.add_comm (offeredBy _ _)]
      exact congrArg (fun v : Vector Account 1024 => v[a].lowered (heldBy a rest + offeredBy a r.offer))
        (foldl_debited (s := s) (fun e : InFlight × SheetRecord => e.1) entries).symm
  have keeps : ∀ (t : State) (low : Vector Account 1024) (rest : List InFlight) (recs : List SheetRecord) (x : Option Retained),
      s.JamsTo t l i (r.jammedWith rest recs x location (i, j.account)) low rest.head? → kept t := by
    intro t low rest recs x h
    have lane : t.lane l = r.jammedWith rest recs x location (i, j.account) :=
      (congrArg (fun v : Vector Lane 16 => v[l]) h.lanes).trans (Vector.getElem_set_self ..)
    obtain ⟨-, job, current, pendingSet⟩ := jammedWith_keeps (r := r) (rest := rest) (recs := recs) (kept := x) (location := location)
      (job := (i, j.account))
    unfold kept
    rw [lane]
    exact ⟨job.trans hj, current, pendingSet⟩
  have charged : ∀ entries, charges entries = chargesOf s.accounts (entries.map (·.1)) := fun entries =>
    (foldl_charged (s := s) (fun e : InFlight × SheetRecord => e.1) entries 0).trans (Nat.zero_add _)
  obtain ⟨low, as', settles, lowered⟩ := jam_absent (s := s) (l := l) (i := i) (q := none) hj hm ht fun x hx => by cases hx
  have spoiled := firstSpoiled_of_absent (es := r.inflight) (q := none) fun x hx => by cases hx
  have absent := fun hk => jam_settled (location := location) hs hst hj settles (State.FreesInto.refl s) hk spoiled
  refine ⟨fun q hq => exec_jam_absent hs hst hj hq, fun hp hk hpos => ?printing,
    fun entries last rest hp hi hlast hseq hmoves => ?out, fun hg hn => ?leaving⟩
  case printing =>
    obtain ⟨v, x, run, gives, tells, still, -⟩ := absent (.inr hk)
    obtain ⟨ends, jobs, -⟩ := jam_prints gives (jammedWith_keeps.2.1.trans hj) hp tells hr hf (hf i)
    have job : (v.afterJam l).finish.job i = v.job i := congrArg (fun js : Vector Job 256 => js[i]) jobs
    have same {β : Type} (f : Job → β) (hs : ∀ j : Job, f j.standing = f j) :
        f ((v.afterJam l).finish.job i) = f (j.spoils r.inflight.length) := by rw [job, ← hs (v.job i), gives.job, hs]
    refine ⟨_, run, jams _ _ low [] _ ends jammedWith_asJammed lowered, keeps _ _ _ _ _ ends, (same Job.state fun _ => rfl).trans hp,
      (same Job.lane fun _ => rfl).trans hl, same Job.spoiled fun _ => rfl, same Job.confirmed fun _ => rfl, same Job.charge fun _ => rfl,
      fun hm => ?_⟩
    obtain ⟨moved, -, -⟩ := still (.inl hp) hk ⟨hm, hpos⟩
    exact job.trans moved
  case out =>
    intro settled
    refine ⟨fun hcopy hrec => ?front, fun others hcopy hrec ho hn hw hres => ?final⟩
    case front =>
      intro confirm
      obtain ⟨t, low, x, run, ends, lowered, job⟩ := jam_front (location := location) hs hst hj hr hf hm ht hp hi hlast hseq hrec hcopy hmoves
      rw [← charged] at job
      exact ⟨t, run, jams _ _ low entries _ ends jammedWith_asJammed lowered, keeps _ _ _ _ _ ends, job⟩
    case final =>
      intro passed freed
      obtain ⟨t, low, x, run, ends, lowered, free, job⟩ := jam_final (location := location) hs hst hj hr hf hm ht hp hi hlast hseq hrec hn ho hcopy hw
        hres hmoves
      rw [← charged] at job
      exact ⟨t, run, jams _ _ low entries _ ends jammedWith_asJammed lowered, keeps _ _ _ _ _ ends, free, job⟩
  case leaving =>
    intro leaves
    have left : ∀ (t : State) (low : Vector Account 1024) (x : Option Retained),
        s.JamsTo t l i (r.jammedWith r.inflight [] x location (i, j.account)).left low r.inflight.head? →
        (∀ c ∈ (r.jammedWith r.inflight [] x location (i, j.account)).setDone, (t.entry c.ptr).cond = .complete c.result c.value1 c.value2) →
        leaves t := by
      intro t low x h done
      obtain ⟨state, -, -, pendingSet⟩ := jammedWith_keeps (r := r) (rest := r.inflight) (recs := []) (kept := x) (location := location)
        (job := (i, j.account))
      have lane : t.lane l = (r.jammedWith r.inflight [] x location (i, j.account)).left :=
        (congrArg (fun v : Vector Lane 16 => v[l]) h.lanes).trans (Vector.getElem_set_self ..)
      unfold leaves
      rw [lane, left_jammedWith]
      refine ⟨rfl, rfl, rfl, rfl, fun set p hset => ?_⟩
      rw [setDone_of_not_bound (by rw [state]; decide), state, pendingSet, hset] at done
      exact done _ (List.mem_singleton_self _)
    refine ⟨fun hh hk hpos => ?holding, fun q hc hh hcancel => ?cancelling⟩
    case holding =>
      obtain ⟨v, x, run, gives, tells, still, -⟩ := absent (.inr hk)
      obtain ⟨state, job, -, pendingSet⟩ := jammedWith_keeps (r := r) (rest := r.inflight) (recs := []) (kept := x) (location := location)
        (job := (i, j.account))
      obtain ⟨ends, held, done, told⟩ := jam_holds gives (by rw [state]; decide) (job.trans hj) hh hl tells hr hf (hf i) hg
        (fun set p q hset hq => hn set p q (pendingSet.symm.trans hset) (.inl hq))
      have same {β : Type} (f : Job → β) (hs : ∀ j : Job, f j.standing = f j) : f (v.job i) = f (j.spoils r.inflight.length) := by
        rw [← hs (v.job i), gives.job, hs]
      refine ⟨_, run, jams _ _ low [] _ ends left_jammedWith_asJammed lowered,
        left _ _ _ ends fun c hc => done c (List.mem_append_right _ hc), ?_⟩
      rw [held]
      refine ⟨rfl, rfl, rfl, same Job.reasons fun _ => rfl, same Job.spoiled fun _ => rfl, fun q hq => ?_, fun hm room => ?_⟩
      · exact done ⟨q, .done, val32 (reasonsCode j.reasons), 0⟩ (List.mem_append_left _ (by
          rw [show (j.spoils r.inflight.length).pendingHold = some q from hq]
          exact List.mem_singleton_self _))
      · obtain ⟨-, -, few⟩ := still (.inr hh) hk ⟨hm, hpos⟩
        exact told.subset (mem_notice _ (by omega))
    case cancelling =>
      obtain ⟨v, x, run, gives, tells, -, few⟩ := absent (.inl hc)
      obtain ⟨state, job, -, pendingSet⟩ := jammedWith_keeps (r := r) (rest := r.inflight) (recs := []) (kept := x) (location := location)
        (job := (i, j.account))
      obtain ⟨ends, vacant, done, told⟩ := jam_cancels gives (by rw [state]; decide) (job.trans hj) hc hl tells hr hf hg hh
        (fun set p q hset hq => hn set p q (pendingSet.symm.trans hset) (.inr hq))
      refine ⟨_, run, jams _ _ low [] _ ends left_jammedWith_asJammed lowered,
        left _ _ _ ends fun c hc => done c (List.mem_append_left _ (List.mem_append_left _ hc)), vacant, ?_, fun room => ?_⟩
      · exact done ⟨q, .done, 0, 0⟩ (List.mem_append_left _ (List.mem_append_right _ (by
          rw [show (j.spoils r.inflight.length).pendingCancel = some q from hcancel]
          exact List.mem_singleton_self _)))
      · have := few hc
        exact told.subset (mem_notice _ (by omega))

end Sys2Proof.Machine
end

section
/-! PROOF. Lane loss (R65, R78, R84 to R87, R122): settles O59. -/

namespace Sys2Proof.Machine

/-! ## The four ways to lose a lane -/

section
variable {s : State} {l : LaneNo} {i : Slot} {r : Lane}

/-- The start of a lane loss at the carrier level `c` (R87). -/
def State.atLoss (s : State) (l : LaneNo) (c : Bool) : State := s.begin.setLane l { s.lane l with carrier := c }

theorem atLoss_carrier : s.atLoss l (s.lane l).carrier = s.begin := setLane_lane s.begin l

theorem loseCarrier_of_bound (h : (s.lane l).state = .bound ∨ (s.lane l).state = .mediaWait ∨ (s.lane l).state = .jammed) :
    s.loseCarrier l = s.laneLoss l := by
  unfold State.loseCarrier
  rcases h with h | h | h
  · rw [h]
  · rw [h]
  · rw [h]

theorem fallSilent_of_bound (h : (s.lane l).state = .bound ∨ (s.lane l).state = .mediaWait ∨ (s.lane l).state = .jammed) :
    s.fallSilent l = s.laneLoss l := by
  unfold State.fallSilent
  rcases h with h | h | h
  · rw [h]
  · rw [h]
  · rw [h]

/-- Each of the four ways to lose a bound lane is a lane loss (R78, R84 to R87). -/
theorem exec_loses {f : Instr} (hs : s.resetLow = false)
    (hst : (s.lane l).state = .bound ∨ (s.lane l).state = .mediaWait ∨ (s.lane l).state = .jammed)
    (hf : f = .carrierLost l ∨ f = .silenceTimerExpiry l ∧ (s.lane l).silence ≠ none ∨
      f = .answerTimeout l ∧ (s.lane l).answer ≠ none ∧ (s.lane l).offer ≠ none ∧ (s.lane l).abort = false ∧ 2 ≤ (s.lane l).timeouts ∨
      f = .abortTimeout l ∧ (s.lane l).answer ≠ none ∧ (s.lane l).abort = true) :
    ∃ c, exec f s = .next ((s.atLoss l c).laneLoss l).finish ∧
      (f = .carrierLost l ∧ c = false ∨ f ≠ .carrierLost l ∧ c = (s.lane l).carrier) := by
  rcases hf with rfl | ⟨rfl, hsil⟩ | ⟨rfl, hans, hoffer, habort, htime⟩ | ⟨rfl, hans, habort⟩
  · refine ⟨false, ?_, .inl ⟨rfl, rfl⟩⟩
    rw [exec_carrierLost hs, loseCarrier_of_bound (by rw [State.lane_setLane_self]; exact hst)]
    rfl
  · refine ⟨(s.lane l).carrier, ?_, .inr ⟨(fun h => by cases h), rfl⟩⟩
    rw [exec_expired (exec_silenceTimerExpiry_eq s l) hs (Option.isSome_iff_ne_none.mpr hsil), fallSilent_of_bound (s := s.begin) hst, atLoss_carrier]
  · refine ⟨(s.lane l).carrier, ?_, .inr ⟨(fun h => by cases h), rfl⟩⟩
    have runs : ((s.lane l).answer.isSome && (s.lane l).offer.isSome && !(s.lane l).abort) = true := by
      rw [Option.isSome_iff_ne_none.mpr hans, Option.isSome_iff_ne_none.mpr hoffer, habort]
      rfl
    have third : ¬(s.begin.lane l).timeouts + 1 < 3 := by
      show ¬(s.lane l).timeouts + 1 < 3
      omega
    rw [exec_expired (exec_answerTimeout_eq s l) hs runs, if_neg third, atLoss_carrier]
  · refine ⟨(s.lane l).carrier, ?_, .inr ⟨(fun h => by cases h), rfl⟩⟩
    have runs : ((s.lane l).answer.isSome && (s.lane l).abort) = true := by
      rw [Option.isSome_iff_ne_none.mpr hans, habort]
      rfl
    rw [exec_expired (exec_abortTimeout_eq s l) hs runs, atLoss_carrier]

end

/-! ## The lane's record and its alert -/

/-- The record of a lane that has lost its work, at the carrier level `c` and with what it retains then (R87, R109, R110, R122). -/
def Lane.lostWith (r : Lane) (c : Bool) (kept : Option Retained) : Lane :=
  ({ (({ r with carrier := c } : Lane).stopTimers.withdraws.spoils r.inflight.length) with
    state := .down, abort := false, timeouts := 0 } : Lane).retaining kept

/-- The record of a lost lane that its job has left (R83, R87). -/
def Lane.lost (r : Lane) (c : Bool) : Lane := { r with
  state := .down, carrier := c, job := none, current := r.newSet, pendingSet := none, offer := none, retained := none, timeouts := 0
  abort := false, inflight := [], hail := none, silence := none, answer := none, reoffer := none, escalation := none
  sheetsSpoiled := min (r.sheetsSpoiled + r.inflight.length) 4294967295 }

section
variable {s t v w : State} {l : LaneNo} {i : Slot} {r : Lane} {c : Bool} {kept : Option Retained}

theorem lostWith_keeps : (r.lostWith c kept).state = .down ∧ (r.lostWith c kept).job = r.job ∧
    (r.lostWith c kept).pendingSet = r.pendingSet := ⟨rfl, rfl, rfl⟩

theorem left_lostWith : (r.lostWith c kept).left = r.lost c := by
  have same : ({ r with carrier := c } : Lane).stopTimers.withdraws = { r with
      carrier := c, hail := none, silence := none, answer := none, reoffer := none, escalation := none, offer := none
      timeouts := ({ r with carrier := c } : Lane).stopTimers.withdraws.timeouts } := by
    unfold Lane.withdraws
    rw [show (if ({ r with carrier := c } : Lane).stopTimers.offer = none then ({ r with carrier := c } : Lane).stopTimers.answer else none) = none
      from ite_self none]
    rfl
  unfold Lane.lostWith
  rw [same]
  rfl

/-- The log of `t` tells of the loss of lane `l` with the entries `es` (R122, R153): in a free record of `s`, or in the record that `s` has
of such a loss. -/
structure State.tellsLoss (s t : State) (l : LaneNo) (i : Slot) (es : List InFlight) : Prop where
  new : (∀ (k : Fin 32) x, s.alerts[k] = some x → ¬(x.kind = .laneLost ∧ x.lane = some l ∧ x.slot = some i)) →
    (∃ k : Fin 32, s.alerts[k] = none) → ∃ (k : Fin 32) (x : AlertRecord), t.alerts[k] = some x ∧
      x = ⟨.laneLost, some l, some i, some (s.job i).account, es.head?.map (·.copy), es.head?.map (·.sheet), s.tick, s.tick, 1, es.length,
        x.relayed⟩
  known : ∀ (k : Fin 32) x, s.alertsDistinct → s.alerts[k] = some x → x.kind = .laneLost ∧ x.lane = some l ∧ x.slot = some i →
    ∃ relayed, t.alerts[k] = some ⟨.laneLost, some l, some i, some (s.job i).account, es.head?.map (·.copy), es.head?.map (·.sheet),
      x.first, s.tick, min (x.count + 1) 255, min (x.lost + es.length) 65535, relayed⟩

theorem tellsLoss_relays {es : List InFlight} (h : s.tellsLoss v l i es) (hr : v.relays t) : s.tellsLoss t l i es := by
  refine ⟨fun hn hf => ?_, fun k x hd hx named => ?_⟩
  · obtain ⟨k, x, hx, hrec⟩ := h.new hn hf
    obtain ⟨b, hb⟩ := hr.2 k x hx
    refine ⟨k, _, hb, ?_⟩
    rw [hrec]
  · obtain ⟨b, hb⟩ := h.known k x hd hx named
    obtain ⟨b', hb'⟩ := hr.2 k _ hb
    exact ⟨b', hb'⟩

theorem tellsLoss_of_alerts {es : List InFlight} (h : s.tellsLoss v l i es) (ha : t.alerts = v.alerts) : s.tellsLoss t l i es := by
  refine tellsLoss_relays h ?_
  unfold State.relays
  rw [ha]
  exact relays_refl v

/-- The LANE-LOST event of a lane with a job bound (R122). -/
def lossAlert (l : LaneNo) (i : Slot) (a : AccountNo) (es : List InFlight) : AlertEvent :=
  laneAlert .laneLost l (some (i, a)) (es.head?.map (·.copy)) (es.head?.map (·.sheet)) es.length

/-- LANE-LOST as the log takes it (R122, R153). -/
theorem raised_tellsLoss {es : List InFlight} (ha : w.alerts = s.alerts) (ht : w.tick = s.tick) :
    s.tellsLoss (w.raiseAlert (lossAlert l i (s.job i).account es)) l i es := by
  refine ⟨fun hn hf => ?_, fun k x hd hx named => ?_⟩
  · obtain ⟨k, b, h⟩ := raised_of_free (s := w) (e := lossAlert l i (s.job i).account es)
      ((findAlert_eq_none_iff w _).mpr fun k x hx => hn k x (by rw [← ha]; exact hx)) (by rw [ha]; exact hf)
    exact ⟨k, _, h, by rw [ht]; rfl⟩
  · obtain ⟨b, h⟩ := relayInto_alert (s := w) k (x.coalesce (lossAlert l i (s.job i).account es) w.tick)
    refine ⟨b, ?_⟩
    rw [raiseAlert_of_key (s := w) (r := x) (i := k) (by unfold State.alertsDistinct; rw [ha]; exact hd) (by rw [ha]; exact hx)
      ((hasKey_iff x _).mpr named), h]
    obtain ⟨kind, lane, slot⟩ := named
    unfold AlertRecord.coalesce
    rw [← kind, ← lane, ← slot, ht]
    rfl

end

/-! ## The work that a lane gives up -/

section
variable {s : State} {l : LaneNo} {i : Slot} {c : Bool}

/-- A lane loss up to what becomes of the job (R109, R110, R112, R122). -/
theorem loseWork_givesUp (hj : (s.lane l).job = some i) (hr : (s.lane l).metersInRange) (ht : (s.job i).totalsInRange)
    (hk : (s.job i).state = .cancelling ∨ (s.job i).stays) : ∃ v low kept, (s.atLoss l c).loseWork l = v ∧
      s.GivesUp v l i ((s.lane l).lostWith c kept) ((s.job i).spoils (s.lane l).inflight.length) low ∧
      LoweredBy s.accounts low (fun a => (s.lane l).heldOf a) ∧ s.tellsLoss v l i (s.lane l).inflight ∧
      ((s.job i).state = .printing ∨ (s.job i).state = .holding → (s.job i).stays → (s.job i).still →
        v.job i = { (s.job i).spoils (s.lane l).inflight.length with send := (s.job i).confirm } ∧ v.notices.length ≤ s.notices.length + 1) ∧
      ((s.job i).state = .cancelling → v.notices.length ≤ s.notices.length + 1) := by
  obtain ⟨low, as1, drops, lowered, -⟩ := dropOffer_atSettle (s := s.begin) (l := l) (i := i) (accs := s.accounts)
    (r := ({ s.lane l with carrier := c } : Lane).stopTimers) (j := s.job i) (free := s.sharedFree) (as := [])
  obtain ⟨low', as2, spoils, lowered', -⟩ := spoilMany_atSettle (s := s.begin) (l := l) (i := i) (accs := s.accounts)
    (r := ({ s.lane l with carrier := c } : Lane).stopTimers.withdraws) (j := s.job i) (free := s.sharedFree) (as := as1) hj
    hr.2.2.2.2.2.1 ht.2.1 (es := (s.lane l).inflight) rfl lowered
  obtain ⟨k, hk'⟩ : ∃ k, (s.job i).spoils (s.lane l).inflight.length = k := ⟨_, rfl⟩
  have kfields : k.confirm = (s.job i).confirm ∧ k.state = (s.job i).state ∧ (k.stays ↔ (s.job i).stays) ∧ (k.still ↔ (s.job i).still) := by
    rw [← hk']
    exact ⟨rfl, rfl, Iff.rfl, Iff.rfl⟩
  obtain ⟨kconfirm, kstate, kstays, kstill⟩ := kfields
  rw [hk'] at spoils ⊢
  obtain ⟨w, hw⟩ : ∃ w, s.begin.atSettle l i low' (({ s.lane l with carrier := c } : Lane).stopTimers.withdraws.spoils
    (s.lane l).inflight.length) k s.sharedFree as2 = w := ⟨_, rfl⟩
  rw [hw] at spoils
  have gives : s.GivesUp w l i (({ s.lane l with carrier := c } : Lane).stopTimers.withdraws.spoils (s.lane l).inflight.length) k low' := by
    rw [← hw]
    exact atSettle_givesUp (ps := s.pools) (State.FreesInto.refl s)
  have wjob : w.job i = k := by rw [← hw, job_atSettle]
  have wfields : w.alerts = s.alerts ∧ w.tick = s.tick ∧ w.notices = s.notices := by
    rw [← hw]
    exact ⟨rfl, rfl, rfl⟩
  obtain ⟨walerts, wtick, wnotices⟩ := wfields
  have start : ((s.atLoss l c).modLane l Lane.stopTimers) =
      s.begin.atSettle l i s.accounts ({ s.lane l with carrier := c } : Lane).stopTimers (s.job i) s.sharedFree [] := by
    unfold State.atLoss State.modLane
    rw [State.lane_setLane_self, setLane_setLane, atSettle_start (i := i)]
  have event : (s.atLoss l c).lostAlert l ((s.atLoss l c).lane l).inflight = lossAlert l i (s.job i).account (s.lane l).inflight := by
    unfold State.lostAlert State.boundJob State.atLoss
    rw [State.lane_setLane_self]
    dsimp only
    rw [hj, Option.map_some]
    rfl
  have settled : (((s.atLoss l c).modLane l Lane.stopTimers).dropOffer l).spoilAll l = w := by
    rw [start, drops, State.spoilAll, lane_atSettle]
    exact spoils
  obtain ⟨u, hu⟩ : ∃ u, (w.raiseAlert (lossAlert l i (s.job i).account (s.lane l).inflight)).modLane l
    (fun r => { r with state := .down, abort := false, timeouts := 0 }) = u := ⟨_, rfl⟩
  have loses : (s.atLoss l c).loseWork l = u.rewindBound l := by
    unfold State.loseWork
    rw [event, settled]
    dsimp only
    rw [hu]
  have ugives := (gives.raiseAlert (lossAlert l i (s.job i).account (s.lane l).inflight)).modLane
    fun r => { r with state := .down, abort := false, timeouts := 0 }
  have tells : s.tellsLoss u l i (s.lane l).inflight := by
    rw [← hu]
    exact tellsLoss_of_alerts (v := w.raiseAlert _) (raised_tellsLoss walerts wtick) rfl
  have ujob : u.job i = k := by rw [← hu, State.job_modLane, job_raiseAlert, wjob]
  have unotices : u.notices.length ≤ s.notices.length + 1 := by
    rw [← hu, ← wnotices]
    exact raiseAlert_adds_one.2
  rw [hu] at ugives
  obtain ⟨kept, rewound, alerts, -, -⟩ := ugives.rewindBound (show _ = some i from hj) (by rw [ujob, kstate, kstays]; exact hk)
  refine ⟨u.rewindBound l, low', kept, loses, rewound, fun a => ?_, tellsLoss_of_alerts tells alerts, fun hp hs hst => ?_, fun hc => ?_⟩
  · refine (lowered' a).trans (congrArg s.accounts[a].lowered ?_)
    exact Nat.add_comm (offeredBy a (s.lane l).offer) (heldBy a (s.lane l).inflight)
  · obtain ⟨rjob, rnotices, -⟩ := rewindBound_still (v := u) (l := l) (i := i) (by rw [ugives.lane]; exact hj)
      (by rw [ujob, kstate]; exact hp) (by rw [ujob, kstays]; exact hs) (by rw [ujob]; exact (kstill.mpr hst).1)
      (by rw [ujob]; exact (kstill.mpr hst).2)
    rw [rjob, ujob, rnotices, kconfirm]
    exact ⟨rfl, unotices⟩
  · have none_rewound : u.rewindBound l = u := by
      unfold State.rewindBound
      rw [ugives.lane]
      rw [show (({ s.lane l with carrier := c } : Lane).stopTimers.withdraws.spoils (s.lane l).inflight.length).job = some i from hj]
      dsimp only
      rw [ujob, kstate, hc]
      rfl
    rw [none_rewound]
    exact unotices

end

/-! ## Training after a loss -/

section
variable {s w : State} {l : LaneNo} {x : Lane} {accs : Vector Account 1024} {done : List Completion}

/-- A lost lane whose carrier is present trains again (R74, R78, R87). -/
def Lane.retrained (x : Lane) : Lane := if x.carrier = true then x.training else x

/-- The end of a lane loss, with no lane ready and no job that holds FUNDS (R65, R87). -/
structure State.LostTo (s w t : State) (l : LaneNo) (x : Lane) (accs : Vector Account 1024) (done : List Completion) : Prop where
  lanes : t.lanes = s.lanes.set l x.retrained
  kept : t.accounts = accs ∧ t.mem = s.mem ∧ t.jobs = w.jobs ∧ t.pools = w.pools ∧ t.alerts = w.alerts
  sent : t.sent = if x.carrier = true then s.sent ++ [Sent.link l (LinkFrame.hail l s.station).bytes] else s.sent
  results : ∀ c ∈ done, (t.entry c.ptr).cond = .complete c.result c.value1 c.value2
  notices : w.notices <+: t.notices

theorem finish_retrain (h : s.LeftBy w l x accs done) (hr : s.noLaneReady) (hf : ∀ m, (s.job m).reasons.funds = false)
    (hn : (done.map fun c => ringPlace c.ptr).Nodup) (hg : s.queue.resetTaken = false ∨ done = []) :
    s.LostTo w (w.retrain l).finish l x accs done := by
  have lane : w.lane l = x := (congrArg (fun v : Vector Lane 16 => v[l]) h.lanes).trans (Vector.getElem_set_self ..)
  obtain ⟨waccounts, wmem, wsent, wqueue, wstation⟩ := h.kept
  obtain ⟨y, hy⟩ : ∃ y, w.retrain l = y := ⟨_, rfl⟩
  have same : y.lanes = s.lanes.set l x.retrained ∧ (y.sent = if x.carrier = true then s.sent ++
      [Sent.link l (LinkFrame.hail l s.station).bytes] else s.sent) ∧ y.accounts = accs ∧ y.mem = s.mem ∧ y.jobs = w.jobs ∧ y.pools = w.pools ∧
      y.alerts = w.alerts ∧ y.queue = s.queue ∧ y.todo = w.todo ∧ y.notices = w.notices := by
    rw [← hy]
    unfold State.retrain Lane.retrained
    rw [lane]
    by_cases hc : x.carrier = true
    · have trains := enterTraining_setLane (s := w) (l := l) x
      have none_changed : w.setLane l x = w := by
        rw [← lane]
        exact setLane_lane w l
      rw [none_changed] at trains
      rw [if_pos hc, if_pos hc, if_pos hc, trains]
      refine ⟨?_, ?_, waccounts, wmem, rfl, rfl, rfl, wqueue, rfl, rfl⟩
      · show w.lanes.set l x.training = _
        rw [h.lanes]
        exact Vector.set_set ..
      · show w.sent ++ _ = _
        rw [wsent, wstation]
    · rw [if_neg hc, if_neg hc, if_neg hc]
      exact ⟨h.lanes, wsent, waccounts, wmem, rfl, rfl, rfl, wqueue, rfl, rfl⟩
  obtain ⟨ylanes, ysent, yaccounts, ymem, yjobs, ypools, yalerts, yqueue, ytodo, ynotices⟩ := same
  have ready : ∀ p, y.idle p := fun p => .inl (((congrArg (fun v : Vector Pool 8 => v[p].ready) ypools).trans (h.ready p)).trans (hr p))
  have funds : ∀ a m, (y.job m).fundsHeld a = false := fun a m => fundsHeld_eq_false fun _ =>
    (congrArg (fun v : Vector Job 256 => v[m].reasons.funds) yjobs).trans (h.funds hf m)
  have ends : y.EndsIn y.finish done := finish_endsIn ready funds (by rw [ytodo]; exact h.todo.1) (by rw [ytodo]; exact h.todo.2) hn
    (by rw [yqueue]; exact hg)
  obtain ⟨tjobs, tlanes, taccounts, tpools, tmem, tsent, talerts, -⟩ := ends.tables
  rw [hy]
  exact ⟨tlanes.trans ylanes, ⟨taccounts.trans yaccounts, tmem.trans ymem, tjobs.trans yjobs, tpools.trans ypools, talerts.trans yalerts⟩,
    tsent.trans ysent, ends.results, ynotices ▸ ends.notices⟩

end

section
variable {s v : State} {l : LaneNo} {i : Slot} {r : Lane} {k : Job}

theorem loseJob_of (hl : (v.lane l).job = some i) : ((v.job i).state = .printing → v.loseJob l = (v.leaveLane i).requeue i) ∧
    ((v.job i).state = .holding → v.loseJob l = v.enterHeld i) ∧ ((v.job i).state = .cancelling → v.loseJob l = v.releaseJob i true) := by
  unfold State.loseJob State.moveOnLost
  rw [hl]
  refine ⟨fun h => ?_, fun h => ?_, fun h => ?_⟩
  · dsimp only
    rw [h]
  · dsimp only
    rw [h]
  · dsimp only
    rw [h]

/-- The completion of a LANE-SET that a lost lane holds (R83). -/
theorem setDone_lostWith {c : Bool} {kept : Option Retained} : (r.lostWith c kept).setDone =
    (r.pendingSet.map fun x => (⟨x.2, .done, 0, 1⟩ : Completion)).toList := by
  obtain ⟨state, -, pendingSet⟩ := lostWith_keeps (r := r) (c := c) (kept := kept)
  rw [setDone_of_not_bound (by rw [state]; decide), state, pendingSet]
  rfl

theorem nodup_setDone : (r.setDone.map fun c => ringPlace c.ptr).Nodup := by
  unfold Lane.setDone
  cases r.pendingSet with
  | none => exact List.nodup_nil
  | some x => exact List.nodup_singleton _

end

/-- Settles O59. -/
theorem laneLossGivesUpTheWork : Obligations.LaneLossGivesUpTheWork := by
  intro s l i f hs hst hj hl hr hf hm ht hcause r j n trains hg hn named lost spoiled stays still
  obtain ⟨c, run, level⟩ := exec_loses hs hst hcause
  have trains_iff : trains ↔ c = true := by
    rcases level with ⟨hf, hc⟩ | ⟨hf, hc⟩
    · exact ⟨fun h => absurd hf h.1, fun h => by rw [hc] at h; cases h⟩
    · exact ⟨fun h => hc.trans h.2, fun h => ⟨hf, hc.symm.trans h⟩⟩
  have carrier : (if f = .carrierLost l then false else r.carrier) = c := by
    rcases level with ⟨hf, hc⟩ | ⟨hf, hc⟩
    · rw [if_pos hf, hc]
    · rw [if_neg hf, hc]
  have loses : ∀ (w t : State) (low : Vector Account 1024) (done : List Completion), s.LostTo w t l (r.lost c) low done →
      LoweredBy s.accounts low (fun a => r.heldOf a) → s.tellsLoss w l i r.inflight →
      (∀ x ∈ (r.pendingSet.map fun x => (⟨x.2, .done, 0, 1⟩ : Completion)).toList, x ∈ done) → lost t := by
    intro w t low done h lowered tells holds
    have told := tellsLoss_of_alerts tells h.kept.2.2.2.2
    have lane : t.lane l = (r.lost c).retrained := (congrArg (fun v : Vector Lane 16 => v[l]) h.lanes).trans (Vector.getElem_set_self ..)
    refine ⟨?_, fun k hk => ?_, ?_, h.kept.2.1, fun a => ?_, fun set p hset => ?_, told.new, told.known⟩
    · rw [lane, carrier]
      unfold Lane.retrained
      by_cases hc : c = true
      · rw [if_pos (show (r.lost c).carrier = true from hc), if_pos (trains_iff.mpr hc), if_pos (trains_iff.mpr hc), if_pos (trains_iff.mpr hc)]
        rfl
      · have idle : ¬trains := fun h => hc (trains_iff.mp h)
        rw [if_neg (show ¬(r.lost c).carrier = true from hc), if_neg idle, if_neg idle, if_neg idle]
        rfl
    · have other : t.lane k = (s.lanes.set l (r.lost c).retrained)[k] := congrArg (fun v : Vector Lane 16 => v[k]) h.lanes
      exact other.trans (Vector.getElem_set_ne l.2 k.2 fun e => hk (Fin.ext e.symm))
    · by_cases hc : c = true
      · rw [if_pos (trains_iff.mpr hc), h.sent]
        exact if_pos hc
      · rw [if_neg fun h => hc (trains_iff.mp h), h.sent]
        exact if_neg hc
    · exact (congrArg (fun v : Vector Account 1024 => v[a]) h.kept.1).trans (lowered a)
    · exact h.results _ (holds _ (by rw [hset]; exact List.mem_singleton_self _))
  have ran : ∀ v w, (s.atLoss l c).loseWork l = v → v.loseJob l = w → exec f s = .next (w.retrain l).finish := fun v w hv hw => by
    rw [run, State.laneLoss, hv, hw]
  refine ⟨fun hp hk => ?printing, fun hh hk => ?holding, fun q hc hh hcancel => ?cancelling⟩
  case printing =>
    obtain ⟨v, low, kept, eq, gives, lowered, tells, exactly, -⟩ := loseWork_givesUp (c := c) hj hm ht (.inr hk)
    have moves := (loseJob_of (by rw [gives.lane]; exact hj)).1 ((congrArg Job.state gives.job).trans hp)
    obtain ⟨left, relays, job, front⟩ := requeue_leftBy gives (by rw [lostWith_keeps.1]; decide) hl (hf i)
    have same {β : Type} (f : Job → β) (hs : ∀ j : Job, f j.standing = f j) : f (v.job i) = f (j.spoils n) := by
      rw [← hs (v.job i), gives.job, hs]
    rw [left_lostWith] at left
    obtain ⟨w, hw⟩ : ∃ w, (v.leaveLane i).requeue i = w := ⟨_, rfl⟩
    rw [hw] at left relays job front moves
    have ends := finish_retrain left hr hf nodup_setDone (hg.imp id fun h => by
      rw [setDone_lostWith, show (s.lane l).pendingSet = none from h.1]
      rfl)
    have tjob : (w.retrain l).finish.job i = w.job i := congrArg (fun v : Vector Job 256 => v[i]) ends.kept.2.2.1
    have tpool : (w.retrain l).finish.pool j.pool = w.pool j.pool := congrArg (fun v : Vector Pool 8 => v[j.pool]) ends.kept.2.2.2.1
    refine ⟨_, ran v w eq moves, loses w _ low _ ends lowered (tellsLoss_relays tells relays) (fun x hx => ?_), ?_⟩
    · rw [setDone_lostWith]
      exact hx
    · rw [tjob, tpool, job]
      refine ⟨rfl, rfl, same Job.spoiled fun _ => rfl, front, fun hstill => ?_⟩
      rw [(exactly (.inl hp) hk hstill).1]
      rfl
  case holding =>
    obtain ⟨v, low, kept, eq, gives, lowered, tells, exactly, -⟩ := loseWork_givesUp (c := c) hj hm ht (.inr hk)
    have moves := (loseJob_of (by rw [gives.lane]; exact hj)).2.1 ((congrArg Job.state gives.job).trans hh)
    obtain ⟨left, relays, job, told⟩ := enterHeld_leftBy gives (by rw [lostWith_keeps.1]; decide) hl (hf i)
    have same {β : Type} (f : Job → β) (hs : ∀ j : Job, f j.standing = f j) : f (v.job i) = f (j.spoils n) := by
      rw [← hs (v.job i), gives.job, hs]
    rw [left_lostWith] at left
    obtain ⟨w, hw⟩ : ∃ w, v.enterHeld i = w := ⟨_, rfl⟩
    rw [hw] at left relays job told moves
    have ends := finish_retrain left hr hf (nodup_heldDone fun set p q hset hq => hn set p q hset (.inl hq)) (hg.imp id fun h => by
      unfold Job.heldDone
      rw [setDone_lostWith, show (s.lane l).pendingSet = none from h.1,
        show ((s.job i).spoils (s.lane l).inflight.length).pendingHold = none from h.2.1]
      rfl)
    have tjob : (w.retrain l).finish.job i = w.job i := congrArg (fun v : Vector Job 256 => v[i]) ends.kept.2.2.1
    refine ⟨_, ran v w eq moves, loses w _ low _ ends lowered (tellsLoss_relays tells relays) (fun x hx => ?_), ?_⟩
    · refine List.mem_append_right _ ?_
      rw [setDone_lostWith]
      exact hx
    · rw [tjob, job]
      refine ⟨rfl, rfl, same Job.spoiled fun _ => rfl, fun q hq => ?_, fun hstill => ?_⟩
      · exact ends.results ⟨q, .done, val32 (reasonsCode j.reasons), 0⟩ (List.mem_append_left _ (by
          rw [show ((s.job i).spoils (s.lane l).inflight.length).pendingHold = some q from hq]
          exact List.mem_singleton_self _))
      · obtain ⟨moved, few⟩ := exactly (.inr hh) hk hstill
        refine ⟨by rw [moved]; rfl, fun room => ends.notices.subset (told.subset (mem_notice _ (by omega)))⟩
  case cancelling =>
    obtain ⟨v, low, kept, eq, gives, lowered, tells, -, few⟩ := loseWork_givesUp (c := c) hj hm ht (.inl hc)
    have moves := (loseJob_of (by rw [gives.lane]; exact hj)).2.2 ((congrArg Job.state gives.job).trans hc)
    obtain ⟨left, relays, vacant, told⟩ := releaseJob_leftBy gives (by rw [lostWith_keeps.1]; decide) hl hc
    rw [left_lostWith] at left
    obtain ⟨w, hw⟩ : ∃ w, v.releaseJob i true = w := ⟨_, rfl⟩
    rw [hw] at left relays vacant told moves
    have going : s.queue.resetTaken = false := hg.resolve_right fun h => by
      rw [h.2.2] at hcancel
      cases hcancel
    have ends := finish_retrain left hr hf (nodup_cancelDone hh fun set p q hset hq => hn set p q hset (.inr hq)) (.inl going)
    have tjob : (w.retrain l).finish.job i = w.job i := congrArg (fun v : Vector Job 256 => v[i]) ends.kept.2.2.1
    refine ⟨_, ran v w eq moves, loses w _ low _ ends lowered (tellsLoss_relays tells relays) (fun x hx => ?_), tjob.trans vacant, ?_, fun room => ?_⟩
    · refine List.mem_append_left _ (List.mem_append_left _ ?_)
      rw [setDone_lostWith]
      exact hx
    · exact ends.results ⟨q, .done, 0, 0⟩ (List.mem_append_left _ (List.mem_append_right _ (by
        rw [show ((s.job i).spoils (s.lane l).inflight.length).pendingCancel = some q from hcancel]
        exact List.mem_singleton_self _)))
    · have := few hc
      exact ends.notices.subset (told.subset (mem_notice _ (by omega)))

end Sys2Proof.Machine
end

section
/-! PROOF. Funds rises (R148) that release the FUNDS holds of an account (R51, R141, R142): settles O19. -/

namespace Sys2Proof.Machine

/-! ## One job -/

/-- A job that a funds rise of account `a` visits (R148). -/
def Job.lifted (j : Job) (a : AccountNo) : Job :=
  if j.fundsHeld a = true then { j with
    reasons := j.reasons.afterRise
    state := if j.reasons.afterRise.isEmpty = true then
      match j.state with
      | .held => .queued
      | .holding => .printing
      | x => x
      else j.state }
  else j

/-- Whether a funds rise of account `a` requeues a job (R148). -/
def Job.requeuedBy (j : Job) (a : AccountNo) : Bool := j.fundsHeld a && j.reasons.afterRise.isEmpty && j.state == .held

/-- A slot joins the front of a class behind the requeued slots that stand there, which are all lower (R51). -/
theorem insertRequeued_behind {requeued front back : List Slot} {i : Slot} (hf : ∀ k ∈ front, k ∈ requeued ∧ k < i)
    (hb : ∀ k ∈ back, k ∉ requeued) : insertRequeued requeued i (front ++ back) = front ++ i :: back := by
  induction front with
  | nil =>
    cases back with
    | nil => rfl
    | cons k back =>
      show (if requeued.contains k && decide (k < i) then _ else _) = _
      rw [List.contains_eq_mem, decide_eq_false (hb k List.mem_cons_self), Bool.false_and, if_neg (by decide)]
      rfl
  | cons k front ih =>
    obtain ⟨mem, lt⟩ := hf k List.mem_cons_self
    show (if requeued.contains k && decide (k < i) then k :: insertRequeued requeued i (front ++ back) else _) = _
    rw [List.contains_eq_mem, decide_eq_true mem, decide_eq_true lt, Bool.and_self, if_pos rfl, ih fun m hm => hf m (List.mem_cons_of_mem k hm)]
    rfl

section
variable {s t : State} {a : AccountNo} {i : Slot}

theorem lifted_of_not_held {j : Job} (h : j.fundsHeld a = false) : j.lifted a = j := if_neg (by rw [h]; decide)

theorem requeuedBy_of_not_held {j : Job} (h : j.fundsHeld a = false) : j.requeuedBy a = false := by
  unfold Job.requeuedBy
  rw [h]
  rfl

/-- The visit of a funds rise to one job (R148). -/
theorem liftFunds_eq : s.liftFunds a i = if (s.job i).requeuedBy a = true then (s.setJob i ((s.job i).lifted a)).joinFront i
    else s.setJob i ((s.job i).lifted a) := by
  unfold State.liftFunds
  by_cases held : (s.job i).fundsHeld a = true
  · rw [if_pos held]
    by_cases free : (s.job i).reasons.afterRise.isEmpty = true
    · have lifted : (s.job i).lifted a = { s.job i with
          reasons := (s.job i).reasons.afterRise
          state := match (s.job i).state with
            | .held => .queued
            | .holding => .printing
            | x => x } := by
        unfold Job.lifted
        rw [if_pos held, if_pos free]
      dsimp only
      rw [if_pos free, lifted]
      unfold Job.requeuedBy
      rw [held, free, Bool.and_self, Bool.true_and]
      cases state : (s.job i).state with
      | held =>
        rw [if_pos (by decide), State.requeue, modJob_modJob]
        rfl
      | holding =>
        rw [if_neg (by decide), modJob_modJob]
        rfl
      | _ =>
        rw [if_neg (by decide)]
        exact congrArg (fun x => s.setJob i { s.job i with reasons := (s.job i).reasons.afterRise, state := x }) state
    · have lifted : (s.job i).lifted a = { s.job i with reasons := (s.job i).reasons.afterRise } := by
        unfold Job.lifted
        rw [if_pos held, if_neg free]
      dsimp only
      rw [if_neg free, lifted]
      unfold Job.requeuedBy
      rw [Bool.eq_false_iff.mpr free, Bool.and_false, Bool.false_and]
      rfl
  · rw [if_neg held, lifted_of_not_held (Bool.eq_false_iff.mpr held), requeuedBy_of_not_held (Bool.eq_false_iff.mpr held)]
    exact (setJob_job s i).symm

/-! ## The jobs of an account -/

/-- A pool record with a slot requeued in a class (R51). -/
def Pool.rejoined (p : Pool) (c : Fin 4) (requeued : List Slot) (i : Slot) : Pool :=
  { p with classes := p.classes.set c (insertRequeued requeued i p.classes[c]) }

theorem joinFront_eq : s.joinFront i = ((s.setPool (s.job i).pool
    ((s.pool (s.job i).pool).rejoined (s.job i).prio s.todo.requeued i)).noteRequeued i).noteDispatch (s.job i).pool := rfl

/-- `t` is `s` after the visit of a funds rise of account `a` to the jobs of the slots `visited`, in that order (R51, R148). -/
structure State.Lifts (s t : State) (a : AccountNo) (visited : List Slot) : Prop where
  frame : t = { s with jobs := t.jobs, pools := t.pools, todo := t.todo }
  todo : t.todo = { s.todo with pools := t.todo.pools, requeued := visited.filter fun k => (s.job k).requeuedBy a }
  jobs : ∀ k, t.job k = if k ∈ visited then (s.job k).lifted a else s.job k
  pools : ∀ p, t.pool p = { s.pool p with classes := (t.pool p).classes }
  classes : ∀ (p : PoolNo) (c : Fin 4), (∀ k ∈ (s.pool p).classes[c], (s.job k).state ≠ .held) → (t.pool p).classes[c] =
    (visited.filter fun k => (s.job k).requeuedBy a && decide ((s.job k).pool = p ∧ (s.job k).prio = c)) ++ (s.pool p).classes[c]

theorem lifts_none (h : s.todo.requeued = []) : s.Lifts s a [] := by
  refine ⟨rfl, ?_, fun k => rfl, fun p => rfl, fun p c _ => rfl⟩
  show s.todo = { s.todo with requeued := [] }
  rw [← h]

theorem requeuedBy_state {j : Job} (h : j.requeuedBy a = true) : j.state = .held := by
  unfold Job.requeuedBy at h
  rw [Bool.and_eq_true] at h
  exact beq_iff_eq.mp h.2

theorem lifted_keeps (j : Job) (a : AccountNo) : (j.lifted a).pool = j.pool ∧ (j.lifted a).prio = j.prio := by
  unfold Job.lifted
  split
  · exact ⟨rfl, rfl⟩
  · exact ⟨rfl, rfl⟩

/-- The visit to one more job, of a slot above those visited (R51, R148). -/
theorem Lifts.visit {visited : List Slot} (h : s.Lifts t a visited) (hi : ∀ k ∈ visited, k < i) :
    s.Lifts (t.liftFunds a i) a (visited ++ [i]) := by
  have fresh : i ∉ visited := fun m => (hi i m).ne rfl
  have job : t.job i = s.job i := (h.jobs i).trans (if_neg fresh)
  obtain ⟨pool, prio⟩ := lifted_keeps (s.job i) a
  have jobs : ∀ k, (t.setJob i ((s.job i).lifted a)).job k = if k ∈ visited ++ [i] then (s.job k).lifted a else s.job k := fun k => by
    rw [State.job_setJob]
    by_cases hk : i = k
    · subst hk
      rw [if_pos rfl, if_pos (by simp)]
    · rw [if_neg hk, h.jobs]
      simp [Ne.symm hk]
  rw [liftFunds_eq, job]
  by_cases requeued : (s.job i).requeuedBy a = true
  · rw [if_pos requeued]
    have joined : (t.setJob i ((s.job i).lifted a)).joinFront i = (((t.setJob i ((s.job i).lifted a)).setPool (s.job i).pool
        ((t.pool (s.job i).pool).rejoined (s.job i).prio t.todo.requeued i)).noteRequeued i).noteDispatch (s.job i).pool := by
      rw [joinFront_eq, State.job_setJob_self, pool, prio]
      rfl
    rw [joined]
    have poolOf : ∀ p, ((((t.setJob i ((s.job i).lifted a)).setPool (s.job i).pool
        ((t.pool (s.job i).pool).rejoined (s.job i).prio t.todo.requeued i)).noteRequeued i).noteDispatch (s.job i).pool).pool p =
          if (s.job i).pool = p then (t.pool (s.job i).pool).rejoined (s.job i).prio t.todo.requeued i else t.pool p := fun p => by
      rw [State.pool_noteDispatch, State.pool_noteRequeued, State.pool_setPool]
      rfl
    refine ⟨?_, ?_, jobs, fun p => ?_, fun p c old => ?_⟩
    · exact (congrArg (fun x : State => ((x.setJob i ((s.job i).lifted a)).setPool (s.job i).pool
        ((t.pool (s.job i).pool).rejoined (s.job i).prio t.todo.requeued i)).noteRequeued i |>.noteDispatch (s.job i).pool) h.frame).trans rfl
    · rw [List.filter_append, List.filter_singleton, requeued]
      show ({ t.todo with requeued := t.todo.requeued ++ [i], pools := t.todo.pools ++ [(s.job i).pool] } : Todo) = _
      rw [h.todo]
      rfl
    · rw [poolOf p]
      split
      · rename_i e
        subst e
        unfold Pool.rejoined
        rw [h.pools]
      · exact h.pools p
    · rw [poolOf p, List.filter_append, List.append_assoc]
      by_cases hp : (s.job i).pool = p
      · subst hp
        rw [if_pos rfl]
        show ((t.pool (s.job i).pool).classes.set (s.job i).prio (insertRequeued t.todo.requeued i
          (t.pool (s.job i).pool).classes[(s.job i).prio]))[c] = _
        rw [Fin.getElem_fin, Vector.getElem_set]
        by_cases hc : (s.job i).prio = c
        · subst hc
          rw [if_pos rfl, h.classes _ _ old, h.todo]
          rw [insertRequeued_behind]
          · simp [requeued]
          · intro k hk
            rw [List.mem_filter, Bool.and_eq_true] at hk
            exact ⟨List.mem_filter.mpr ⟨hk.1, hk.2.1⟩, hi k hk.1⟩
          · intro k hk mem
            exact old k hk (requeuedBy_state (List.mem_filter.mp mem).2)
        · rw [if_neg fun e => hc (Fin.ext e)]
          show (t.pool (s.job i).pool).classes[c] = _
          rw [h.classes _ _ old]
          simp [hc]
      · rw [if_neg hp, h.classes _ _ old]
        simp [hp]
  · rw [if_neg requeued]
    refine ⟨?_, ?_, jobs, h.pools, fun p c old => ?_⟩
    · exact (congrArg (fun x : State => x.setJob i ((s.job i).lifted a)) h.frame).trans rfl
    · rw [List.filter_append, List.filter_singleton, Bool.eq_false_iff.mpr requeued, cond_false, List.append_nil]
      exact h.todo
    · rw [show (t.setJob i ((s.job i).lifted a)).pool p = t.pool p from rfl, h.classes p c old, List.filter_append]
      simp [requeued]

end

/-! ## The event of a funds rise -/

section
variable {s t : State} {a : AccountNo}

/-- The visits of a funds rise to the jobs, in ascending slot order (R148). -/
theorem lifts_foldl (h : s.todo.requeued = []) (slots : List Slot) (hs : slots.Pairwise (· < ·)) :
    s.Lifts (slots.foldl (fun t i => State.liftFunds t a i) s) a slots := by
  induction slots using List.reverseRecOn with
  | nil => exact lifts_none h
  | append_singleton slots i ih =>
    rw [List.foldl_concat]
    obtain ⟨before, -, below⟩ := List.pairwise_append.mp hs
    exact Lifts.visit (ih before) fun k hk => below k hk i (List.mem_singleton_self i)

theorem lifted_lane (j : Job) (a : AccountNo) : (j.lifted a).lane = j.lane := by
  unfold Job.lifted
  split
  · rfl
  · rfl

/-- Every job that a funds rise of account `a` returns from HOLDING has a stopped lane, or one with its offer outstanding. -/
def State.stoppedFor (s : State) (a : AccountNo) : Prop := ∀ i, (s.job i).fundsHeld a = true → (s.job i).state = .holding →
  ∃ l, (s.job i).lane = some l ∧ ((s.lane l).state ≠ .bound ∨ (s.lane l).offer ≠ none)

/-- A funds rise, where the lanes of the jobs that it returns to PRINTING offer nothing (R148). -/
theorem fundsRise_lifts (h : s.todo.requeued = []) (hs : s.stoppedFor a) : s.Lifts (s.fundsRise a) a (List.finRange 256) := by
  have lifts := lifts_foldl (s := s) (a := a) h (List.finRange 256) (List.sortedLT_finRange 256).pairwise
  unfold State.fundsRise
  dsimp only
  obtain ⟨u, hu⟩ : ∃ u, (List.finRange 256).foldl (fun t i => State.liftFunds t a i) s = u := ⟨_, rfl⟩
  rw [hu] at lifts ⊢
  have lanes : ∀ l, u.lane l = s.lane l := fun l => by
    rw [lifts.frame]
    rfl
  have none_offered : ∀ k ∈ s.returnedBy a, u.offerBound k = u := fun k hk => by
    have returned := (List.mem_filter.mp hk).2
    rw [Bool.and_eq_true, Bool.and_eq_true, beq_iff_eq] at returned
    obtain ⟨l, hl, stops⟩ := hs k returned.1.1 returned.1.2
    have lane : (u.job k).lane = some l := by rw [lifts.jobs, if_pos (List.mem_finRange k), lifted_lane, hl]
    have idle : u.offerable l = none := offerable_eq_none fun m rec can => by
      have bound := can.bound
      have offer := can.offer
      rw [lanes] at bound offer
      exact stops.elim (· bound) (· offer)
    unfold State.offerBound
    rw [lane]
    exact offerStep_of_none _ _ idle
  have stays : ∀ slots : List Slot, (∀ k ∈ slots, u.offerBound k = u) → slots.foldl State.offerBound u = u := fun slots => by
    induction slots with
    | nil => exact fun _ => rfl
    | cons k slots ih =>
      intro hk
      rw [List.foldl_cons, hk k List.mem_cons_self]
      exact ih fun m hm => hk m (List.mem_cons_of_mem k hm)
  rw [stays _ none_offered]
  exact lifts

/-- The state once a funds rise has lifted its holds, with nothing but completions left to carry out (R148). -/
def State.lifted (s : State) (a : AccountNo) : State :=
  { s.fundsRise a with todo := { (s.fundsRise a).todo with pools := [], risen := [] } }

/-- An event whose one consequence is a funds rise ends as that leaves it, where no lane is ready (R148). -/
theorem finish_of_rise (hp : s.todo.pools = []) (hq : s.todo.requeued = []) (hr : s.todo.risen = [a]) (hs : s.stoppedFor a)
    (hl : s.noLaneReady) : s.finish = (s.lifted a).finish := by
  have lifts := fundsRise_lifts hq hs
  have quiet : ∀ x : State, (∀ p, (x.pool p).ready = []) → x.dispatchNoted = { x with todo := { x.todo with pools := [] } } :=
    fun x hx => dispatchNoted_idle x fun p _ => .inl (hx p)
  have ready : ∀ p, ((s.fundsRise a).pool p).ready = [] := fun p => by
    rw [lifts.pools p]
    exact hl p
  have start : s.dispatchNoted = s := by
    rw [quiet s hl]
    exact congrArg (fun ps => ({ s with todo := { s.todo with pools := ps } } : State)) hp.symm
  have rises : s.risesNoted = { s.fundsRise a with todo := { (s.fundsRise a).todo with risen := [] } } := by
    unfold State.risesNoted
    rw [hr]
    rfl
  have before : s.dispatchNoted.risesNoted.dispatchNoted = s.lifted a := by
    rw [start, rises]
    exact quiet _ ready
  have after : (s.lifted a).dispatchNoted.risesNoted.dispatchNoted = s.lifted a :=
    before_completions (s.lifted a) (fun _ h => by cases h) (fun _ h => by cases h)
  unfold State.finish
  rw [before, after]

/-- A directive that raises the headroom of an account, and by that releases its FUNDS holds (R141, R142, R148). -/
theorem takeDirective_rises {c : Instr} {w : Bool} {f : QueuePtr → State → State} {after : Account} {r : Result} {v1 v2 : Word32}
    (h : s.takeable c = true)
    (hf : f s.queue.take (s.taken w) = (({ s.taken w with accounts := s.accounts.set a after } : State).noteRise a).answer s.queue.take
      (r, v1, v2)) (hs : s.stoppedFor a) (hl : s.noLaneReady) :
    ∃ t, takeDirective c w s f = .next t ∧ Concludes { s.taken w with accounts := s.accounts.set a after, jobs := t.jobs, pools := t.pools } t
        [⟨s.queue.take, r, v1, v2⟩] ∧
      (∀ i, t.job i = (s.job i).lifted a) ∧ (∀ p, t.pool p = { s.pool p with classes := (t.pool p).classes }) ∧
      ∀ (p : PoolNo) (k : Fin 4), (∀ i ∈ (s.pool p).classes[k], (s.job i).state ≠ .held) → (t.pool p).classes[k] =
        ((List.finRange 256).filter fun i => (s.job i).requeuedBy a && decide ((s.job i).pool = p ∧ (s.job i).prio = k)) ++
          (s.pool p).classes[k] := by
  obtain ⟨q, hq⟩ := exists_taken_eq s w
  have going : (s.taken w).queue.resetTaken = false := (taken_going s w).trans (takeable_going h)
  obtain ⟨b, hb⟩ : ∃ b, ({ s.taken w with accounts := s.accounts.set a after } : State) = b := ⟨_, rfl⟩
  rw [hb] at hf
  have btodo : b.todo = Todo.nothing := by rw [← hb, hq]; rfl
  obtain ⟨x, hx⟩ : ∃ x, (b.noteRise a).answer s.queue.take (r, v1, v2) = x := ⟨_, rfl⟩
  have xeq : x = { b with todo := { Todo.nothing with risen := [a], done := [⟨s.queue.take, r, v1, v2⟩] } } := by
    rw [← hx]
    unfold State.noteRise
    rw [btodo, if_neg (by simp [Todo.nothing])]
    rfl
  have xjob : ∀ i, x.job i = s.job i := fun i => by rw [xeq, ← hb, hq]; rfl
  have xlane : ∀ l, x.lane l = s.lane l := fun l => by rw [xeq, ← hb, hq]; rfl
  have xpool : ∀ p, x.pool p = s.pool p := fun p => by rw [xeq, ← hb, hq]; rfl
  have xtodo : x.todo = { Todo.nothing with risen := [a], done := [⟨s.queue.take, r, v1, v2⟩] } := by rw [xeq]
  have xgoing : x.queue.resetTaken = false := by rw [xeq, ← hb]; exact going
  have xstops : x.stoppedFor a := fun i held holding => by
    rw [xjob] at held holding ⊢
    obtain ⟨l, hlane, stops⟩ := hs i held holding
    exact ⟨l, hlane, by rw [xlane]; exact stops⟩
  have requeued : x.todo.requeued = [] := by rw [xtodo]; rfl
  have lifts := fundsRise_lifts requeued xstops
  have run : takeDirective c w s f = .next (x.lifted a).finish := by
    unfold takeDirective
    rw [if_pos h, hf, hx, finish_of_rise (by rw [xtodo]; rfl) requeued (by rw [xtodo]) xstops fun p => by rw [xpool]; exact hl p]
  have done : (x.lifted a).todo.done = [⟨s.queue.take, r, v1, v2⟩] := by
    show (x.fundsRise a).todo.done = _
    rw [lifts.todo, xtodo]
  have ends := finish_concludes (x.lifted a) (fun _ h => by cases h) (fun _ h => by cases h)
    (by show (x.fundsRise a).todo.reset = false; rw [lifts.todo, xtodo]; rfl)
    (by show (x.fundsRise a).queue.resetTaken = false; rw [lifts.frame]; exact xgoing) (by rw [done]; exact List.nodup_singleton _)
  rw [done] at ends
  obtain ⟨jobs, -, -, pools, -⟩ := ends.kept
  generalize (x.lifted a).finish = t at *
  have tpool : ∀ p, t.pool p = (x.fundsRise a).pool p := fun p => congrArg (fun v : Vector Pool 8 => v[p]) pools
  refine ⟨t, run, ends.of_todo ?_, fun i => ?_, fun p => ?_, fun p k old => ?_⟩
  · rw [jobs, pools]
    show _ = ({ x.fundsRise a with todo := (s.taken w).todo } : State)
    rw [lifts.frame, xeq, ← hb]
    rfl
  · refine (congrArg (fun v : Vector Job 256 => v[i]) jobs).trans ((lifts.jobs i).trans ?_)
    rw [if_pos (List.mem_finRange i), xjob]
  · rw [tpool, ← xpool]
    exact lifts.pools p
  · have classes := lifts.classes p k fun i hi => by
      rw [xpool] at hi
      rw [xjob]
      exact old i hi
    rw [tpool, classes, xpool]
    simp only [xjob]

end

/-! ## The two directives -/

section
variable {s : State} {a : AccountNo}

/-- A raised headroom of an OPEN account is a funds rise (R148). -/
theorem noteHeadroom_of_rise {b : State} {after : Account} {before : Int} (ho : after.isOpen = true) (h : before < after.headroom)
    (hb : b.account a = after) : b.noteHeadroom a before = b.noteRise a := by
  unfold State.noteHeadroom
  rw [hb, ho, decide_eq_true h]
  rfl

/-- What a directive that raises the headroom of account `a` leaves, in the state `t` after it (R51, R148). -/
structure State.RisesTo (s t : State) (a : AccountNo) (wide : Bool) (after : Account) (v1 v2 : Word32) : Prop where
  concludes : Concludes { s.taken wide with accounts := s.accounts.set a after, jobs := t.jobs, pools := t.pools } t
    [⟨s.queue.take, .done, v1, v2⟩]
  jobs : ∀ i, t.job i = (s.job i).lifted a
  pools : ∀ p, t.pool p = { s.pool p with classes := (t.pool p).classes }
  classes : ∀ (p : PoolNo) (k : Fin 4), (∀ i ∈ (s.pool p).classes[k], (s.job i).state ≠ .held) → (t.pool p).classes[k] =
    ((List.finRange 256).filter fun i => (s.job i).requeuedBy a && decide ((s.job i).pool = p ∧ (s.job i).prio = k)) ++ (s.pool p).classes[k]

theorem takeDirective_risesTo {c : Instr} {w : Bool} {f : QueuePtr → State → State} {g : Account → Account} {v1 v2 : Word32}
    (h : s.takeable c = true)
    (hf : f s.queue.take (s.taken w) = (((s.taken w).modAccount a g).noteHeadroom a (s.account a).headroom).answer s.queue.take (.done, v1, v2))
    (ho : (g (s.account a)).isOpen = true) (hr : (s.account a).headroom < (g (s.account a)).headroom) (hs : s.stoppedFor a)
    (hl : s.noLaneReady) : ∃ t, takeDirective c w s f = .next t ∧ s.RisesTo t a w (g (s.account a)) v1 v2 := by
  have changed : (s.taken w).modAccount a g = { s.taken w with accounts := s.accounts.set a (g (s.account a)) } := by
    rw [State.modAccount, State.setAccount, taken_accounts, taken_account]
  rw [noteHeadroom_of_rise ho hr (by rw [State.account_modAccount_self, taken_account]), changed] at hf
  obtain ⟨t, run, concludes, jobs, pools, classes⟩ := takeDirective_rises h hf hs hl
  exact ⟨t, run, concludes, jobs, pools, classes⟩

/-- An ACCOUNT-SWAP that raises the balance (R142, R148). -/
theorem exec_accountSwap_of_rise {account expected new : Word32} (h : s.takeable (.accountSwap account expected new) = true)
    (hi : account.toNat = a) (hold : balanceInRange (wideOperand s.high1 expected) = true)
    (hnew : balanceInRange (wideOperand s.high2 new) = true) (ho : (s.account a).isOpen = true)
    (hb : (s.account a).balance = wideOperand s.high1 expected) (hr : (s.account a).balance < wideOperand s.high2 new)
    (hs : s.stoppedFor a) (hl : s.noLaneReady) : ∃ t, exec (.accountSwap account expected new) s = .next t ∧
      s.RisesTo t a true { s.account a with balance := wideOperand s.high2 new } (lowWord (s.account a).balance)
        (highWord (s.account a).balance) := by
  show ∃ t, execAccountSwap account expected new s = .next t ∧ _
  unfold execAccountSwap
  refine takeDirective_risesTo (g := fun r => { r with balance := wideOperand s.high2 new }) h ?_ ho ?_ hs hl
  · rw [toIndex_of_eq a hi]
    dsimp only
    rw [hold, hnew, taken_account, ho]
    exact if_pos hb
  · unfold Account.headroom
    dsimp only
    omega

/-- An ACCOUNT-LIMIT that raises the limit (R141, R148). -/
theorem exec_accountLimit_of_rise {account limit : Word32} (h : s.takeable (.accountLimit account limit) = true) (hi : account.toNat = a)
    (ho : (s.account a).isOpen = true) (hr : (s.account a).limit < clampLimit limit) (hs : s.stoppedFor a) (hl : s.noLaneReady) :
    ∃ t, exec (.accountLimit account limit) s = .next t ∧
      s.RisesTo t a false { s.account a with limit := clampLimit limit } (val32 (clampLimit limit)) (val32 (s.account a).limit) := by
  show ∃ t, execAccountLimit account limit s = .next t ∧ _
  unfold execAccountLimit
  refine takeDirective_risesTo (g := fun r => { r with limit := clampLimit limit }) h ?_ ho ?_ hs hl
  · rw [toIndex_of_eq a hi]
    dsimp only
    rw [taken_account, ho]
    rfl
  · unfold Account.headroom
    dsimp only
    omega

/-! ## The record of a job that a funds rise visits -/

variable {j : Job}

theorem fundsHeld_iff (h : j.state ≠ .free) : j.fundsHeld a = true ↔ j.account = a ∧ j.reasons.funds = true := by
  unfold Job.fundsHeld
  rw [Bool.and_eq_true, Bool.and_eq_true, bne_iff_ne, beq_iff_eq]
  exact ⟨fun ⟨⟨_, ha⟩, hf⟩ => ⟨ha, hf⟩, fun ⟨ha, hf⟩ => ⟨⟨h, ha⟩, hf⟩⟩

theorem afterRise_isEmpty_iff (r : Reasons) : r.afterRise.isEmpty = true ↔ r.operator = false ∧ r.refused = false := by
  unfold Reasons.isEmpty Reasons.afterRise
  simp

/-- A visited job with another hold reason keeps its state (R148). -/
theorem lifted_of_kept (hf : j.fundsHeld a = true) (hr : ¬(j.reasons.operator = false ∧ j.reasons.refused = false)) :
    j.lifted a = { j with reasons := { j.reasons with funds := false } } := by
  unfold Job.lifted
  rw [if_pos hf, if_neg (fun h => hr ((afterRise_isEmpty_iff _).mp h))]
  rfl

/-- A visited job with no other hold reason is QUEUED or PRINTING again (R148). -/
theorem lifted_of_freed (hf : j.fundsHeld a = true) (ho : j.reasons.operator = false) (hr : j.reasons.refused = false)
    (hs : j.state = .held ∨ j.state = .holding) :
    j.lifted a = { j with reasons := ⟨false, false, false⟩, state := if j.state = .held then .queued else .printing } := by
  have none_left : j.reasons.afterRise = ⟨false, false, false⟩ := by
    unfold Reasons.afterRise
    rw [ho, hr]
  unfold Job.lifted
  rw [if_pos hf, if_pos ((afterRise_isEmpty_iff _).mpr ⟨ho, hr⟩), none_left]
  rcases hs with h | h
  · rw [h]
    rfl
  · rw [h]
    rfl

end

/-- The two words of a wide figure (R142, R166). -/
theorem lowWord_wide (high low : Word32) : lowWord (high ++ low).toInt = low := by
  unfold lowWord
  rw [BitVec.ofInt_toInt]
  refine BitVec.eq_of_toNat_eq ?_
  rw [BitVec.extractLsb'_toNat, append_toNat, Nat.shiftRight_zero, BitVec.toNat_ofNat]
  omega

theorem highWord_wide (high low : Word32) : highWord (high ++ low).toInt = high := by
  unfold highWord
  rw [BitVec.ofInt_toInt]
  refine BitVec.eq_of_toNat_eq ?_
  rw [BitVec.extractLsb'_toNat, append_toNat, Nat.shiftRight_eq_div_pow, BitVec.toNat_ofNat]
  omega

/-- Settles O19. -/
theorem fundsRiseReleasesEveryFundsHold : Obligations.FundsRiseReleasesEveryFundsHold := by
  intro s a ho hl hheld held freed rises
  have alive : ∀ i, held i → (s.job i).state = .held ∨ (s.job i).state = .holding := fun i h =>
    (hheld i h.1 h.2).imp id fun ⟨_, holding, _⟩ => holding
  have funds : ∀ i, held i ↔ (s.job i).fundsHeld a = true := fun i => by
    by_cases hfree : (s.job i).state = .free
    · refine ⟨fun h => ?_, fun h => ?_⟩
      · rcases alive i h with h | h
        · rw [hfree] at h
          cases h
        · rw [hfree] at h
          cases h
      · unfold Job.fundsHeld at h
        rw [hfree] at h
        cases h
    · exact (fundsHeld_iff hfree).symm
  have stops : s.stoppedFor a := fun i h holding => by
    obtain ⟨account, reason⟩ := (funds i).mpr h
    rcases hheld i account reason with h | ⟨l, -, lane, stops⟩
    · rw [holding] at h
      cases h
    · exact ⟨l, lane, stops⟩
  have requeues : ∀ i, (s.job i).requeuedBy a = true ↔ freed i ∧ (s.job i).state = .held := fun i => by
    unfold Job.requeuedBy
    rw [Bool.and_eq_true, Bool.and_eq_true, beq_iff_eq, ← funds, afterRise_isEmpty_iff]
  have rises_of : ∀ f wide after v1 v2, (∃ t, exec f s = .next t ∧ s.RisesTo t a wide after v1 v2) → rises f wide after v1 v2 := by
    rintro f wide after v1 v2 ⟨t, run, h⟩
    refine ⟨t, run, h.concludes, fun i hi => ?_, fun i hi hn => ?_, fun i hi => ?_, h.pools, fun p c old => ?_⟩
    · rw [h.jobs]
      exact lifted_of_not_held (Bool.eq_false_iff.mpr fun hf => hi ((funds i).mpr hf))
    · rw [h.jobs]
      exact lifted_of_kept ((funds i).mp hi) fun hr => hn ⟨hi, hr⟩
    · rw [h.jobs]
      exact lifted_of_freed ((funds i).mp hi.1) hi.2.1 hi.2.2 (alive i hi.1)
    · rw [h.classes p c old]
      refine congrArg (· ++ _) (List.filter_congr fun i _ => ?_)
      rw [Bool.eq_iff_iff, Bool.and_eq_true, requeues, decide_eq_true_iff, decide_eq_true_iff, and_assoc]
  refine ⟨fun expected new high1 high2 h hext => ?swap, fun limit h => ?limit⟩
  case swap =>
    intro old b hb hlow hlt hhigh
    have wide1 : wideOperand s.high1 expected = old := by
      rw [high1_of_ext (hext.imp_right fun ⟨empty, zero, _⟩ => ⟨empty, zero⟩)]
      rfl
    have wide2 : wideOperand s.high2 new = b := by
      rw [high2_of_ext (hext.imp_right fun ⟨empty, _, zero⟩ => ⟨empty, zero⟩)]
      rfl
    have swaps := exec_accountSwap_of_rise h (by simp only [BitVec.toNat_ofNat]; omega)
      (by rw [wide1]; exact (balanceInRange_iff _).mpr ⟨hlow, hlt.le.trans hhigh⟩)
      (by rw [wide2]; exact (balanceInRange_iff _).mpr ⟨hlow.trans hlt.le, hhigh⟩) ho
      (hb.trans wide1.symm) (by rw [wide2, hb]; exact hlt) stops hl
    rw [wide2, hb, lowWord_wide, highWord_wide] at swaps
    exact rises_of _ _ _ _ _ swaps
  case limit =>
    intro l hlt
    refine rises_of _ _ _ _ _ (exec_accountLimit_of_rise h ?_ ho hlt stops hl)
    simp only [BitVec.toNat_ofNat]
    omega

end Sys2Proof.Machine
end

section
/-! PROOF. Lanes and jobs in pairs (R48, R120): refutes O8. A CANCELLING job closes its intake before its lane sends ABORT, but
`State.lanesMatchJobs` does not say so; with the intake of such a job open and nothing in flight, a CANCEL frame that reaches it releases
it, and its lane is left with the ABORT outstanding and no job. -/

namespace Sys2Proof.Machine

/-- A CANCELLING job whose intake is open. -/
def Job.cancellingOpen : Job := { Job.vacant with state := .cancelling, lane := some 0, intakeOpen := true }

/-- Its lane: BOUND, the ABORT outstanding, nothing offered and nothing in flight. -/
def Lane.abortingIdle : Lane := { Lane.afterReset true with state := .bound, job := some 0, abort := true }

/-- A state with that job in slot 0, bound to that lane 0, and its OPEN account 0; a CANCEL frame of its tag, in sequence, comes next. -/
def State.withStray (s : State) : State :=
  { ((s.setJob 0 Job.cancellingOpen).setLane 0 Lane.abortingIdle).setAccount 0 { Account.afterReset with isOpen := true } with
    pending := [.cancel 0 0] }

theorem withStray_job (s : State) (i : Slot) : s.withStray.job i = if 0 = i then Job.cancellingOpen else s.job i :=
  State.job_setJob (s := s) 0 i _

theorem withStray_lane (s : State) (l : LaneNo) : s.withStray.lane l = if 0 = l then Lane.abortingIdle else s.lane l :=
  State.lane_setLane (s := s.setJob 0 Job.cancellingOpen) 0 l _

theorem withStray_account (s : State) (a : AccountNo) :
    s.withStray.account a = if 0 = a then { Account.afterReset with isOpen := true } else s.account a :=
  State.account_setAccount (s := (s.setJob 0 Job.cancellingOpen).setLane 0 Lane.abortingIdle) 0 a _

theorem withStray_pool (s : State) (p : PoolNo) : s.withStray.pool p = s.pool p := rfl

/-- Everything else is as after reset. -/
def State.strayAbort : State := State.reset.withStray

theorem strayAbort_job (i : Slot) : State.strayAbort.job i = if 0 = i then Job.cancellingOpen else Job.vacant := by
  unfold State.strayAbort State.reset
  rw [withStray_job, startUp_job]

theorem strayAbort_lane (l : LaneNo) : State.strayAbort.lane l = if 0 = l then Lane.abortingIdle else Lane.afterReset true := by
  unfold State.strayAbort State.reset
  rw [withStray_lane, startUp_lane]
  simp

theorem strayAbort_pool (p : PoolNo) : State.strayAbort.pool p = Pool.afterReset := by
  unfold State.strayAbort State.reset
  rw [withStray_pool, startUp_pool]

theorem strayAbort_account (a : AccountNo) : State.strayAbort.account a =
    if 0 = a then { Account.afterReset with isOpen := true } else Account.afterReset := by
  unfold State.strayAbort State.reset
  rw [withStray_account, startUp_account]

theorem strayAbort_holds_nothing (l : LaneNo) : (State.strayAbort.lane l).offer = none ∧ (State.strayAbort.lane l).inflight = [] := by
  rw [strayAbort_lane]
  split <;> exact ⟨rfl, rfl⟩

theorem strayAbort_lane_job (l : LaneNo) : (State.strayAbort.lane l).job = if 0 = l then some 0 else none := by
  rw [strayAbort_lane]
  split <;> rfl

theorem strayAbort_job_lane (i : Slot) : (State.strayAbort.job i).lane = if 0 = i then some 0 else none := by
  rw [strayAbort_job]
  split <;> rfl

theorem strayAbort_job_state (i : Slot) : (State.strayAbort.job i).state = if 0 = i then .cancelling else .free := by
  rw [strayAbort_job]
  split <;> rfl

theorem strayAbort_lane_state (l : LaneNo) : (State.strayAbort.lane l).state = if 0 = l then .bound else .training := by
  rw [strayAbort_lane]
  split <;> rfl

theorem strayAbort_lanesMatchJobs : State.strayAbort.lanesMatchJobs where
  pairs l i := by
    rw [strayAbort_lane_job, strayAbort_job_lane]
    by_cases hl : 0 = l <;> by_cases hi : 0 = i
    · rw [if_pos hl, if_pos hi, hl, hi]
      exact ⟨fun _ => rfl, fun _ => rfl⟩
    · rw [if_pos hl, if_neg hi]
      exact ⟨fun h => absurd (Option.some.inj h) hi, (nomatch ·)⟩
    · rw [if_neg hl, if_pos hi]
      exact ⟨(nomatch ·), fun h => absurd (Option.some.inj h) hl⟩
    · rw [if_neg hl, if_neg hi]
      exact ⟨(nomatch ·), (nomatch ·)⟩
  bound i := by
    rw [strayAbort_job_lane, strayAbort_job_state]
    by_cases hi : 0 = i <;> simp [hi]
  working l hl := by
    rw [strayAbort_lane_job] at hl
    rw [strayAbort_lane_state, if_pos (by_contra fun h => hl (if_neg h))]
    exact .inl rfl
  serving l hl := by
    rw [strayAbort_lane_state] at hl
    rw [strayAbort_lane_job, if_pos (by_contra fun h => by rw [if_neg h] at hl; cases hl)]
    exact Option.some_ne_none _
  empty l _ := strayAbort_holds_nothing l
  depth l := by
    obtain ⟨ho, hi⟩ := strayAbort_holds_nothing l
    rw [ho, hi]
    exact Nat.zero_le _
  holding i hi := by
    rw [strayAbort_job_state] at hi
    split at hi <;> cases hi
  aborting l := by
    rw [strayAbort_lane_job, strayAbort_lane]
    by_cases hl : 0 = l
    · rw [if_pos hl, if_pos hl]
      exact ⟨fun _ => ⟨0, rfl, by rw [strayAbort_job_state, if_pos rfl]⟩, fun _ => rfl⟩
    · rw [if_neg hl, if_neg hl]
      exact ⟨fun h => (Bool.false_ne_true h).elim, fun ⟨_, h, _⟩ => by cases h⟩
  reasons i := by
    rw [strayAbort_job_state]
    split <;> exact ⟨fun h => by simp at h, fun h => by simp at h⟩
  queued p c := by
    rw [strayAbort_pool]
    refine ⟨by simp [Pool.afterReset], fun i => ⟨fun h => by simp [Pool.afterReset] at h, fun h => ?_⟩⟩
    rw [strayAbort_job_state] at h
    split at h <;> cases h.1
  ready p := by
    rw [strayAbort_pool]
    refine ⟨List.nodup_nil, fun l => ⟨fun h => by simp [Pool.afterReset] at h, fun h => ?_⟩⟩
    rw [strayAbort_lane_state] at h
    split at h <;> cases h.1
  opened i hi := by
    have : 0 = i := by_contra fun h => hi (by rw [strayAbort_job_state, if_neg h])
    rw [strayAbort_job, if_pos this]
    exact congrArg Account.isOpen ((strayAbort_account 0).trans (if_pos rfl))
  own l i _ := by
    obtain ⟨ho, hi⟩ := strayAbort_holds_nothing l
    rw [ho, hi]
    exact ⟨fun _ h => (List.not_mem_nil h).elim, fun _ h => by cases h⟩
  pending a := by
    have nothing (l : LaneNo) : (State.strayAbort.lane l).heldOf a = 0 := by
      obtain ⟨ho, hi⟩ := strayAbort_holds_nothing l
      unfold Lane.heldOf
      rw [ho, hi]
      rfl
    rw [List.map_congr_left (g := fun _ => 0) fun l _ => nothing l, strayAbort_account]
    split <;> simp [Account.afterReset]

/-- The CANCEL frame releases the job (R60, R61) and leaves the ABORT outstanding at a lane with no job. -/
theorem strayAbort_steps : ∃ t, step State.strayAbort = .next t ∧ (t.lane 0).abort = true ∧ (t.lane 0).job = none :=
  ⟨_, rfl, by decide +kernel⟩

/-- Refutes O8: nothing in the invariant closes the intake of a CANCELLING job, and a CANCEL frame that reaches one with nothing in flight
releases it from a lane whose ABORT stays outstanding. -/
theorem not_stepKeepsLanesAndJobsMatched : ¬ Obligations.StepKeepsLanesAndJobsMatched := by
  unfold Obligations.StepKeepsLanesAndJobsMatched
  intro h
  obtain ⟨t, ran, outstanding, vacated⟩ := strayAbort_steps
  obtain ⟨i, bound, _⟩ := ((h _ t strayAbort_lanesMatchJobs ran).aborting 0).mp outstanding
  rw [vacated] at bound
  cases bound

end Sys2Proof.Machine
end

section
/-! PROOF. What every operation keeps of the tables of jobs, lanes, pools and free blocks: a predicate of these tables alone that their
elementary updates keep, and the operations that move blocks and credit, is kept by every shared operation. Where `Steady` lets a job or a
lane record change in any way, here a job keeps its blocks, its credit and its totals' ranges, and a lane its meters' ranges. -/

namespace Sys2Proof.Machine

/-! ## The tables and their updates -/

/-- The tables of jobs, lanes, pools and free blocks. -/
def State.books (s : State) : Vector Job 256 × Vector Lane 16 × Vector Pool 8 × List Nat × List Slot :=
  (s.jobs, s.lanes, s.pools, s.sharedFree, s.waitList)

/-- A job's pool, its intake's flag, its blocks and its credit (R31). -/
def Job.credit (j : Job) : PoolNo × Bool × List Nat × Nat × Nat × Nat × Nat × Nat × Nat :=
  (j.pool, j.intakeOpen, j.chain, j.granted, j.promised, j.promisedShared, j.spooled, j.allocated, j.released)

/-- An update of a job record that moves no block and no credit, frees no slot, and keeps the totals in their ranges. -/
structure Job.Keeps (j k : Job) : Prop where
  credit : k.credit = j.credit
  live : k.state = .free → j.state = .free
  totals : j.totalsInRange → k.totalsInRange

/-- A pool's region, its free queue and its allowance (R26, R30). -/
def Pool.region (p : Pool) : Nat × Nat × List Nat × Nat := (p.base, p.limit, p.free, p.allowance)

/-- The spool manager's part of a DATA frame (R34, R35): the blocks allocated, the bytes stored and the record advanced. -/
def State.storesPayload (s : State) (i : Slot) (payload : List Byte) : State :=
  let t := State.allocateMany ((s.job i).blocksFor payload.length) s i
  ({ t with mem := storeBytes (t.job i) t.mem (t.job i).spooled payload }).modJob i fun j =>
    { j with
      spooled := j.spooled + payload.length
      records := modLast (fun r => r.receive payload.length (j.placeOf j.spooled)) j.records }

/-- The state before the walk of a DATA frame (R21): where blocks were allocated, the job has joined the wait list if it is due. -/
def State.takesPayload (s : State) (i : Slot) (payload : List Byte) : State :=
  if 0 < (s.job i).blocksFor payload.length then (s.storesPayload i payload).joinWait i else s.storesPayload i payload

/-- A release's own part (R45, R68): the blocks freed, the wait list and the cache left, and the slot FREE. -/
def State.vacates (s : State) (i : Slot) : State :=
  (((s.freeBlocks (s.job i).chain).leaveWait i).forgetSlot i).setJob i Job.vacant

/-- An accepted OPEN's own part (R4). -/
def State.takesOpen (s : State) (i : Slot) (j : Job) : State := (((s.setJob i j).fillCache j.tag i).joinTail i).joinWait i

/-- A predicate of the books that elementary updates keep, and the operations on blocks and credit. -/
structure Custody (P : State → Prop) : Prop where
  aside : ∀ {s t}, P s → t.books = s.books → P t
  job : ∀ {s}, P s → ∀ i j, (s.job i).Keeps j → P (s.setJob i j)
  lanes : ∀ {s}, P s → ∀ v : Vector Lane 16, (∀ l : LaneNo, (s.lane l).metersInRange → v[l].metersInRange) →
    P { s with lanes := v }
  pool : ∀ {s}, P s → ∀ p r, r.region = (s.pool p).region → P (s.setPool p r)
  walk : ∀ {s}, P s → P s.walk
  releasePass : ∀ {s}, P s → ∀ i, P (s.releasePass i)
  closes : ∀ {s}, P s → ∀ i, P ((s.modJob i fun j => { j with intakeOpen := false }).returnPromise i)
  vacates : ∀ {s}, P s → ∀ i, P (s.vacates i)
  opens : ∀ {s}, P s → ∀ i, (s.job i).state = .free → ∀ tag a p prio copies first last,
    P (s.takesOpen i (Job.opened tag a p prio copies first last))
  stores : ∀ {s}, P s → ∀ i, (s.job i).intakeOpen = true → ∀ payload : List Byte,
    (s.job i).withinCredit payload.length = true → P (s.takesPayload i payload)
  allowance : ∀ {s}, P s → ∀ p n, P (s.setAllowance p n)
  reserve : ∀ {s}, P s → ∀ p base limit, base ≤ 255 → limit ≤ 255 → s.overlaps p base limit = false →
    s.reserveBusy p base limit = false → P (s.rebuild p base limit)
  restart : ∀ {s}, P s → ∀ straps changes, P (s.restart straps changes)

/-! ## What leaves the books as they are -/

section
variable {s t : State} {i : Slot}

@[simp] theorem books_notice (n : Notice) : (s.notice n).books = s.books := by
  unfold State.notice
  split <;> rfl

@[simp] theorem books_raiseAlert (e : AlertEvent) : (s.raiseAlert e).books = s.books :=
  (congrArg State.books (raiseAlert_frame s e)).trans rfl

@[simp] theorem books_relayUnmasked (p : AlertRecord → Bool) : (s.relayUnmasked p).books = s.books :=
  foldl_related (R := fun a b => b.books = a.books) (fun _ => rfl) (fun h h' => h'.trans h)
    (fun t k => (congrArg State.books (relayHeld_frame t p k)).trans rfl) _ s

@[simp] theorem books_noteRise (a : AccountNo) : (s.noteRise a).books = s.books := by
  unfold State.noteRise
  split <;> rfl

@[simp] theorem books_noteHeadroom (a : AccountNo) (b : Int) : (s.noteHeadroom a b).books = s.books := by
  unfold State.noteHeadroom
  split
  · exact books_noteRise a
  · rfl

@[simp] theorem books_lowerPending (a : AccountNo) (e : Nat) : (s.lowerPending a e).books = s.books := books_noteHeadroom ..

@[simp] theorem books_debit (a : AccountNo) (x e : Nat) : (s.debit a x e).books = s.books := books_noteHeadroom ..

@[simp] theorem books_completeOpt (p : Option QueuePtr) (r : Result) (v1 v2 : Word32) : (s.completeOpt p r v1 v2).books = s.books := by
  cases p <;> rfl

@[simp] theorem books_transmitAll (l : LaneNo) (fs : List LinkFrame) : (s.transmitAll l fs).books = s.books :=
  foldl_related (R := fun a b => b.books = a.books) (fun _ => rfl) (fun h h' => h'.trans h) (f := fun t f => t.transmit l f)
    (fun _ _ => rfl) fs s

@[simp] theorem books_noteSendable : (s.noteSendable i).books = s.books := by
  unfold State.noteSendable
  split <;> rfl

/-! ## The end of an event, without its dispatches and rises -/

@[simp] theorem books_retireBy (n : Nat) : (State.retireBy n s).books = s.books := by
  induction n generalizing s with
  | zero => rfl
  | succ n ih =>
    unfold State.retireBy
    split
    · exact ih
    · rfl

@[simp] theorem books_replyFrame (p : QueuePtr) : (s.replyFrame p).books = s.books := by
  unfold State.replyFrame
  split
  · refine (books_retireBy _).trans ?_
    split <;> exact books_notice _
  · rfl

@[simp] theorem books_completeReset (p : QueuePtr) : (s.completeReset p).books = s.books := by
  unfold State.completeReset
  dsimp only
  split
  · split <;> rfl
  · rfl

@[simp] theorem books_finishEntry (p : QueuePtr) (r : Result) (v1 v2 : Word32) : (s.finishEntry p r v1 v2).books = s.books :=
  (books_replyFrame p).trans ((books_completeReset p).trans rfl)

@[simp] theorem books_fenceNotice (p : QueuePtr) : (s.fenceNotice p).books = s.books := by
  unfold State.fenceNotice
  split
  · exact books_notice _
  · rfl

@[simp] theorem books_completeFences (n : Nat) : (State.completeFences n s).books = s.books := by
  induction n generalizing s with
  | zero => rfl
  | succ n ih =>
    unfold State.completeFences
    split
    · exact ih.trans ((books_finishEntry ..).trans (books_fenceNotice _))
    · rfl

@[simp] theorem books_completionsNoted : s.completionsNoted.books = s.books :=
  foldl_related (R := fun a b => b.books = a.books) (fun _ => rfl) (fun h h' => h'.trans h)
    (fun _ _ => (books_completeFences _).trans (books_finishEntry ..)) _ _

@[simp] theorem books_taken (w : Bool) : (s.taken w).books = s.books :=
  (congrArg State.books (taken_frame s w)).trans rfl

@[simp] theorem books_acceptFrame (a : MacAddress) (ds : List Directive) : (s.acceptFrame a ds).books = s.books := by
  have enqueued (size : Nat) (ds : List Directive) : ∀ (t : State) (k : Nat), (State.enqueue size a t ds k).books = t.books := by
    induction ds with
    | nil => exact fun _ _ => rfl
    | cons d rest ih => exact fun t k => ih (t.enqueueOne d k size a) (k + 1)
  unfold State.acceptFrame
  dsimp only
  split
  · exact books_notice _
  · exact enqueued ..

end

variable {P : State → Prop} {s : State} {i : Slot} {l : LaneNo}

namespace Custody

theorem foldl (_ : Custody P) {α : Type} {f : State → α → State} (hf : ∀ t a, P t → P (f t a)) (as : List α) (hs : P s) :
    P (as.foldl f s) := by
  induction as generalizing s with
  | nil => exact hs
  | cons a rest ih => exact ih (hf s a hs)

theorem modJob (h : Custody P) (hs : P s) (i : Slot) (f : Job → Job)
    (hf : (s.job i).Keeps (f (s.job i))) : P (s.modJob i f) := h.job hs i _ hf

theorem setLane (h : Custody P) (hs : P s) (l : LaneNo) (r : Lane) (hr : (s.lane l).metersInRange → r.metersInRange) :
    P (s.setLane l r) := by
  refine h.lanes hs _ fun k hk => ?_
  have entry : (s.lanes.set l r)[k] = if l = k then r else s.lane k := State.lane_setLane (s := s) l k r
  rw [entry]
  split
  · rename_i e
    rw [← e] at hk
    exact hr hk
  · exact hk

theorem modLane (h : Custody P) (hs : P s) (l : LaneNo) (f : Lane → Lane)
    (hf : (s.lane l).metersInRange → (f (s.lane l)).metersInRange) : P (s.modLane l f) := h.setLane hs l _ hf

theorem modPool (h : Custody P) (hs : P s) (p : PoolNo) (f : Pool → Pool)
    (hf : (f (s.pool p)).region = (s.pool p).region) : P (s.modPool p f) := h.pool hs p _ hf

theorem transmit (h : Custody P) (hs : P s) (l : LaneNo) (f : LinkFrame) : P (s.transmit l f) := h.aside hs rfl
theorem notice (h : Custody P) (hs : P s) (n : Notice) : P (s.notice n) := h.aside hs (books_notice n)
theorem noteRequeued (h : Custody P) (hs : P s) (i : Slot) : P (s.noteRequeued i) := h.aside hs rfl
theorem noteDispatch (h : Custody P) (hs : P s) (p : PoolNo) : P (s.noteDispatch p) := h.aside hs rfl

/-! ## The job table -/

theorem leaveQueue (h : Custody P) (hs : P s) (i : Slot) : P (s.leaveQueue i) := h.modPool hs _ _ (by rfl)
theorem leaveReady (h : Custody P) (hs : P s) (l : LaneNo) : P (s.leaveReady l) := h.modPool hs _ _ (by rfl)
theorem joinFront (h : Custody P) (hs : P s) (i : Slot) : P (s.joinFront i) :=
  h.noteDispatch (h.noteRequeued (h.modPool hs _ _ (by rfl)) _) _
theorem requeue (h : Custody P) (hs : P s) (i : Slot) : P (s.requeue i) :=
  h.joinFront (h.modJob hs i (fun j => { j with state := .queued }) ⟨rfl, nofun, id⟩) i

theorem enterIdle (h : Custody P) (hs : P s) (l : LaneNo) : P (s.enterIdle l) := by
  unfold State.enterIdle
  split
  · exact h.noteDispatch (h.modPool (h.modLane hs _ _ (by exact id)) _ _ (by rfl)) _
  · exact h.modLane hs _ _ (by exact id)

theorem unbind (h : Custody P) (hs : P s) (l : LaneNo) : P (s.unbind l) := by
  have idle (t : State) (ht : P t) : P (if (t.lane l).state = .bound then t.enterIdle l else t) := by
    split
    · exact h.enterIdle ht l
    · exact ht
  unfold State.unbind
  dsimp only
  split
  · exact h.aside (idle _ (h.modLane hs _ _ (by exact id))) (books_relayUnmasked _)
  · exact idle _ (h.modLane hs _ _ (by exact id))

theorem leaveLane (h : Custody P) (hs : P s) (i : Slot) : P (s.leaveLane i) := by
  unfold State.leaveLane
  split
  · exact h.unbind (h.modJob hs _ _ (by exact ⟨rfl, id, id⟩)) _
  · exact hs

theorem enterHeld (h : Custody P) (hs : P s) (i : Slot) : P (s.enterHeld i) :=
  h.leaveLane (h.aside (h.modJob hs i (fun j => { j with state := .held, pendingHold := none }) ⟨rfl, nofun, id⟩)
    ((books_completeOpt ..).trans (books_notice _))) i

theorem raiseReason (h : Custody P) (hs : P s) (i : Slot) (r : Reason) : P (s.raiseReason i r) := by
  have added := h.modJob hs i (fun j => { j with reasons := j.reasons.add r }) (by exact ⟨rfl, id, id⟩)
  unfold State.raiseReason
  dsimp only
  split
  · exact h.enterHeld (h.leaveQueue added _) _
  · split
    · exact h.modJob added _ _ ⟨rfl, nofun, id⟩
    · exact h.enterHeld added _
  · exact added
  · exact added
  · exact hs
  · exact hs

theorem settleHolding (h : Custody P) (hs : P s) (i : Slot) : P (s.settleHolding i) := by
  unfold State.settleHolding
  split
  · exact h.enterHeld hs i
  · exact hs

theorem chain_unbind (l : LaneNo) (i : Slot) : ((s.unbind l).job i).chain = (s.job i).chain := by
  have same (t : State) : (if (t.lane l).state = .bound then t.enterIdle l else t).jobs = t.jobs := by
    split
    · unfold State.enterIdle
      split <;> rfl
    · rfl
  have relayed (t : State) (p : AlertRecord → Bool) : (t.relayUnmasked p).jobs = t.jobs :=
    (congrArg State.jobs (relayUnmasked_frame p)).trans rfl
  unfold State.unbind State.job
  dsimp only
  split
  · rw [relayed, State.complete]
    dsimp only
    rw [same]
    rfl
  · rw [same]
    rfl

theorem chain_leaveLane (i : Slot) : ((s.leaveLane i).job i).chain = (s.job i).chain := by
  unfold State.leaveLane
  split
  · rw [chain_unbind, State.job_modJob_self]
  · rfl

theorem releaseJob (h : Custody P) (hs : P s) (i : Slot) (cancelled : Bool) : P (s.releaseJob i cancelled) := by
  obtain ⟨u, hu⟩ : ∃ u : State, (if (s.job i).state = .queued then
      (s.notice (if cancelled then .cancelled i (s.job i).tag (s.job i).totals else .done i (s.job i).tag (s.job i).totals)).leaveQueue i
    else s.notice (if cancelled then .cancelled i (s.job i).tag (s.job i).totals else .done i (s.job i).tag (s.job i).totals)) = u :=
    ⟨_, rfl⟩
  have noticed (n : Notice) : ((s.notice n).job i).chain = (s.job i).chain := congrArg Job.chain (State.job_notice ..)
  have held : P u ∧ (u.job i).chain = (s.job i).chain := by
    rw [← hu]
    split
    · exact ⟨h.leaveQueue (h.aside hs (books_notice _)) i, noticed _⟩
    · exact ⟨h.aside hs (books_notice _), noticed _⟩
  have left : P ((u.leaveLane i).vacates i) := h.vacates (h.leaveLane held.1 i) i
  unfold State.vacates at left
  rw [chain_leaveLane, held.2] at left
  unfold State.releaseJob
  dsimp only
  rw [hu]
  exact h.walk (h.aside left ((books_completeOpt ..).trans (books_completeOpt ..)))

theorem testCompletion (h : Custody P) (hs : P s) (i : Slot) : P (s.testCompletion i) := by
  unfold State.testCompletion
  split
  · exact h.releaseJob hs i false
  · exact hs

theorem settle (h : Custody P) (hs : P s) (i : Slot) : P (s.settle i) :=
  h.testCompletion (h.releasePass (h.modJob hs i (fun j => j.settleSend.settleConfirm) (by exact ⟨rfl, id, id⟩)) i) i

theorem settleBound (h : Custody P) (hs : P s) (i : Slot) : P (s.settleBound i) := by
  unfold State.settleBound
  split
  · exact h.settle hs i
  · exact hs

theorem countDamage (h : Custody P) (hs : P s) (i : Slot) (r : DamageReason) (n : Nat) : P (s.countDamage i r n) :=
  h.aside (h.modJob hs i (fun j => { j with damaged := bump j.damaged })
    ⟨rfl, id, fun ⟨hc, hp, _, hg⟩ => ⟨hc, hp, bump_le _, hg⟩⟩) (books_raiseAlert _)

theorem damageInProgress (h : Custody P) (hs : P s) (i : Slot) (r : DamageReason) : P (s.damageInProgress i r) := by
  unfold State.damageInProgress
  split
  · exact h.settleBound (h.countDamage (h.modJob hs _ _ (by exact ⟨rfl, id, id⟩)) _ _ _) _
  · exact hs

theorem closeIntake (h : Custody P) (hs : P s) (i : Slot) : P (s.closeIntake i) := by
  have closed := h.closes (h.damageInProgress hs i .short) i
  unfold State.closeIntake
  dsimp only
  refine h.aside ?_ books_noteSendable
  split
  · exact h.settle closed i
  · exact h.testCompletion closed i

/-! ## Delivery -/

theorem refuseSheet (h : Custody P) (hs : P s) (l : LaneNo) (i : Slot) (c n : Nat) : P (s.refuseSheet l i c n) :=
  h.settleHolding (h.raiseReason (h.aside (h.modLane hs l (fun r => { r with retained := none }) (by exact id)) (books_raiseAlert _)) _ _) _

theorem sendOffer (h : Custody P) (hs : P s) (l : LaneNo) (i : Slot) (rec : SheetRecord) : P (s.sendOffer l i rec) := by
  unfold State.sendOffer
  dsimp only
  exact h.transmit (h.modLane (s := s.raisePending _ _) (h.aside hs rfl) _ _ (by exact id)) _ _

theorem offerStep (h : Custody P) (hs : P s) (l : LaneNo) : P (s.offerStep l) := by
  unfold State.offerStep
  split
  · split
    · exact h.refuseSheet hs _ _ _ _
    · split
      · exact h.sendOffer hs _ _ _
      · exact h.raiseReason (h.aside hs (books_raiseAlert _)) _ _
  · exact hs

theorem offerBound (h : Custody P) (hs : P s) (i : Slot) : P (s.offerBound i) := by
  unfold State.offerBound
  split
  · exact h.offerStep hs _
  · exact hs

theorem metersInRange_meter {r : Lane} (rec : SheetRecord) (hr : r.metersInRange) : (r.meter rec).metersInRange := by
  obtain ⟨crc, ignored, _, _, _, spoiled, jams⟩ := hr
  exact ⟨crc, ignored, bump_le _, raise32_le _ _, raise32_le _ _, spoiled, jams⟩

theorem totalsInRange_confirmTotals {j : Job} (charge : Nat) (hj : j.totalsInRange) : (j.confirmTotals charge).totalsInRange := by
  obtain ⟨_, spoiled, damaged, _⟩ := hj
  exact ⟨bump_le _, spoiled, damaged, Nat.min_le_right _ _⟩

theorem confirmHead (h : Custody P) (hs : P s) (l : LaneNo) : P (s.confirmHead l) := by
  unfold State.confirmHead
  split
  · refine h.settle (h.modJob (h.modLane (h.aside hs (books_debit ..)) l _ fun hr => ?_) _ _
      ⟨rfl, id, fun hj => totalsInRange_confirmTotals _ hj⟩) _
    split
    · exact metersInRange_meter _ hr
    · exact hr
  · exact hs

theorem confirmMany (h : Custody P) (n : Nat) (hs : P s) (l : LaneNo) : P (State.confirmMany n s l) := by
  induction n generalizing s with
  | zero => exact hs
  | succ n ih => exact ih (h.confirmHead hs l)

theorem spoilHead (h : Custody P) (hs : P s) (l : LaneNo) : P (s.spoilHead l) := by
  unfold State.spoilHead
  split
  · rename_i e rest _
    have spoiled := h.modLane (h.aside hs (books_lowerPending e.account e.estimate)) l
      (fun r => { r with sheetsSpoiled := bump r.sheetsSpoiled, inflight := rest })
      fun ⟨crc, ignored, out, colour, mono, _, jams⟩ => ⟨crc, ignored, out, colour, mono, bump_le _, jams⟩
    dsimp only
    split
    · exact h.modJob spoiled _ _ ⟨rfl, id, fun ⟨hc, _, hd, hg⟩ => ⟨hc, bump_le _, hd, hg⟩⟩
    · exact spoiled
  · exact hs

theorem spoilMany (h : Custody P) (n : Nat) (hs : P s) (l : LaneNo) : P (State.spoilMany n s l) := by
  induction n generalizing s with
  | zero => exact hs
  | succ n ih => exact ih (h.spoilHead hs l)

theorem dropOffer (h : Custody P) (hs : P s) (l : LaneNo) : P (s.dropOffer l) := by
  unfold State.dropOffer
  split
  · exact h.modLane (h.aside hs (books_lowerPending ..)) _ _ (by exact id)
  · exact hs

theorem settleAt (h : Custody P) (hs : P s) (l : LaneNo) (q : Option Word16) : P (s.settleAt l q) :=
  h.spoilMany _ (h.confirmMany _ hs l) l

theorem rewind (h : Custody P) (hs : P s) (l : LaneNo) (i : Slot) : P (s.rewind l i) := by
  have settled := h.settle (h.modJob hs i (fun j => { j with send := j.confirm }) (by exact ⟨rfl, id, id⟩)) i
  have kept (t : State) (ht : P t) (f : Retained → Bool) : P (t.modLane l fun r => { r with retained := r.retained.filter f }) :=
    h.modLane ht _ _ (by exact id)
  exact kept _ settled _

theorem rewindBound (h : Custody P) (hs : P s) (l : LaneNo) : P (s.rewindBound l) := by
  unfold State.rewindBound
  split
  · split
    · exact h.rewind hs _ _
    · exact hs
  · exact hs

theorem sendAbort (h : Custody P) (hs : P s) (l : LaneNo) : P (s.sendAbort l) :=
  h.transmit (h.modLane hs _ _ (by exact id)) _ _

theorem enterTraining (h : Custody P) (hs : P s) (l : LaneNo) : P (s.enterTraining l) :=
  h.transmit (h.modLane hs _ _ (by exact id)) _ _

theorem moveOnLost (h : Custody P) (hs : P s) (i : Slot) : P (s.moveOnLost i) := by
  unfold State.moveOnLost
  split
  · exact h.requeue (h.leaveLane hs _) _
  · exact h.enterHeld hs _
  · exact h.releaseJob hs _ _
  · exact hs

theorem loseWork (h : Custody P) (hs : P s) (l : LaneNo) : P (s.loseWork l) :=
  h.rewindBound (h.modLane (h.aside (h.spoilMany _ (h.dropOffer (h.modLane hs l Lane.stopTimers (by exact id)) l) l) (books_raiseAlert _)) l
    (fun r => { r with state := .down, abort := false, timeouts := 0 }) (by exact id)) l

theorem laneLoss (h : Custody P) (hs : P s) (l : LaneNo) : P (s.laneLoss l) := by
  have moved : P ((s.loseWork l).loseJob l) := by
    unfold State.loseJob
    split
    · exact h.moveOnLost (h.loseWork hs l) _
    · exact h.loseWork hs l
  unfold State.laneLoss State.retrain
  split
  · exact h.enterTraining moved l
  · exact moved

/-! ## The dispatcher, the funds rises, the end of an event -/

theorem bindJob (h : Custody P) (hs : P s) (l : LaneNo) (i : Slot) : P (s.bindJob l i) := by
  have printing := h.modJob (h.leaveReady (h.leaveQueue hs i) l) i (fun j => { j with state := .printing, lane := some l })
    ⟨rfl, nofun, id⟩
  have bound := h.notice (h.modLane printing l (fun r =>
    { r with state := .bound, job := some i, inflight := [], offer := none, retained := none, timeouts := 0 }) (by exact id)) (.dispatched i l)
  exact h.offerStep (h.settle bound i) l

theorem dispatchPool (h : Custody P) (n : Nat) (hs : P s) (p : PoolNo) : P (State.dispatchPool n s p) := by
  induction n generalizing s with
  | zero => exact hs
  | succ n ih =>
    unfold State.dispatchPool
    split
    · exact ih (h.bindJob hs _ _)
    · exact hs

theorem dispatchNoted (h : Custody P) (hs : P s) : P s.dispatchNoted := by
  unfold State.dispatchNoted
  exact h.aside (h.foldl (fun t p ht => h.dispatchPool (s := t) _ ht p) s.todo.pools hs) rfl

theorem liftFunds (h : Custody P) (hs : P s) (a : AccountNo) (i : Slot) : P (s.liftFunds a i) := by
  have lifted := h.modJob hs i (fun j => { j with reasons := j.reasons.afterRise }) (by exact ⟨rfl, id, id⟩)
  unfold State.liftFunds
  split
  · dsimp only
    split
    · split
      · exact h.requeue lifted _
      · exact h.modJob lifted _ _ ⟨rfl, nofun, id⟩
      · exact lifted
    · exact lifted
  · exact hs

theorem risesNoted (h : Custody P) (hs : P s) : P s.risesNoted := by
  have rise (t : State) (a : AccountNo) (ht : P t) : P (t.fundsRise a) :=
    h.foldl (fun u i hu => h.offerBound (s := u) hu i) _ (h.foldl (fun u i hu => h.liftFunds (s := u) hu a i) _ ht)
  unfold State.risesNoted
  exact h.aside (h.foldl rise s.todo.risen hs) rfl

theorem finish (h : Custody P) (hs : P s) : P s.finish := by
  have ended := h.aside (h.dispatchNoted (h.risesNoted (h.dispatchNoted hs))) books_completionsNoted
  unfold State.finish
  dsimp only
  split
  · exact h.restart ended _ _
  · exact h.aside ended rfl

end Custody

end Sys2Proof.Machine
end

section
/-! PROOF. A predicate of the books of jobs, lanes, pools and free blocks that `Custody` describes is kept by every command and by every
step. -/

namespace Sys2Proof.Machine

variable {P : State → Prop} {s : State} {i : Slot} {l : LaneNo}

namespace Custody

/-! ## The shapes of an event -/

theorem event (h : Custody P) (hs : P s) {f : State → State} (hf : ∀ t, P t → P (f t)) :
    ∃ t, Machine.event s f = .next t ∧ P t := by
  refine ⟨_, rfl, ?_⟩
  split
  · exact hs
  · exact h.finish (hf _ (h.aside hs rfl))

theorem takeDirective (h : Custody P) (hs : P s) (c : Instr) (w : Bool) {f : QueuePtr → State → State}
    (hf : ∀ p t, P t → P (f p t)) : ∃ t, Machine.takeDirective c w s f = .next t ∧ P t := by
  refine ⟨_, rfl, ?_⟩
  split
  · exact h.finish (hf _ _ (h.aside hs (books_taken w)))
  · exact hs

/-- A directive whose effect leaves the books as they are. -/
theorem takeAside (h : Custody P) (hs : P s) (c : Instr) (w : Bool) {f : QueuePtr → State → State}
    (hf : ∀ p t, (f p t).books = t.books) : ∃ t, Machine.takeDirective c w s f = .next t ∧ P t :=
  h.takeDirective hs c w fun p t ht => h.aside ht (hf p t)

theorem hear (h : Custody P) (hs : P s) (l : LaneNo) : P (s.hear l) := by
  unfold State.hear
  split
  · exact hs
  · exact h.modLane hs _ _ (by exact id)

theorem receive (h : Custody P) (hs : P s) (l : LaneNo) (g : Lane → Bool) {f : State → State} (hf : ∀ t, P t → P (f t)) :
    ∃ t, Machine.receive l s g f = .next t ∧ P t := by
  refine ⟨_, rfl, ?_⟩
  have heard := h.hear (h.aside hs (t := s.begin) rfl) l
  split
  · exact hs
  · split
    · exact h.finish (hf _ heard)
    · exact h.finish (h.modLane heard l (fun r => { r with ignored := bump r.ignored })
        fun ⟨crc, _, rest⟩ => ⟨crc, bump_le _, rest⟩)

theorem answer (h : Custody P) (hs : P s) (l : LaneNo) (q : Word16) {f : State → Slot → Offer → State}
    (hf : ∀ t i o, P t → P (f t i o)) : ∃ t, Machine.answer l q s f = .next t ∧ P t :=
  h.receive hs l _ fun t ht => by
    split
    · exact hf _ _ _ ht
    · exact ht

theorem expiry (h : Custody P) (hs : P s) (l : LaneNo) (g : Lane → Bool) {f : State → State} (hf : ∀ t, P t → P (f t)) :
    ∃ t, Machine.expiry l s g f = .next t ∧ P t :=
  h.event hs fun t ht => by
    split
    · exact hf _ ht
    · exact ht

theorem carrierEvent (h : Custody P) (hs : P s) (l : LaneNo) (b : Bool) {f : State → State} (hf : ∀ t, P t → P (f t)) :
    ∃ t, Machine.carrierEvent l b s f = .next t ∧ P t := by
  refine ⟨_, rfl, ?_⟩
  split
  · exact h.modLane hs _ _ (by exact id)
  · exact h.finish (hf _ (h.modLane (h.aside hs (t := s.begin) rfl) _ _ (by exact id)))

/-! ## Intake -/

/-- Classification finds a slot whose intake is open (R6, R7). -/
theorem classify (h : Custody P) (hs : P s) (tag : Word16) :
    P (s.classify tag).1 ∧ ∀ i, (s.classify tag).2 = some i → ((s.classify tag).1.job i).intakeOpen = true := by
  unfold State.classify
  split
  · split
    · rename_i ho
      exact ⟨hs, fun i e => by cases e; exact ho⟩
    · exact ⟨h.aside hs rfl, nofun⟩
  · split
    · rename_i i found
      have opened := List.find?_some found
      simp only [Job.isOpenOn, Bool.and_eq_true] at opened
      exact ⟨h.aside hs rfl, fun k e => by cases e; exact opened.1.2⟩
    · exact ⟨h.aside hs rfl, nofun⟩

/-- The sequence check leaves the intake open (R11, R13). -/
theorem sequence (h : Custody P) (hs : P s) (ho : (s.job i).intakeOpen = true) (q : Word16) :
    P (s.sequence i q).1 ∧ (((s.sequence i q).1.job i).intakeOpen = true) := by
  have expects (t : State) (ht : P t) (hi : (t.job i).intakeOpen = true) :
      P (t.modJob i fun j => { j with expected := q + 1 }) ∧ ((t.modJob i fun j => { j with expected := q + 1 }).job i).intakeOpen = true :=
    ⟨h.modJob ht i _ ⟨rfl, id, id⟩, by rw [State.job_modJob_self]; exact hi⟩
  unfold State.sequence
  split
  · exact expects s hs ho
  · split
    · exact ⟨h.aside hs rfl, ho⟩
    · exact expects _ (h.damageInProgress hs i .gap) (damageInProgress_leaves ho .gap).2.2.1

theorem spoolFrame (h : Custody P) (hs : P s) (tag seq : Word16) {f : State → Slot → State}
    (hf : ∀ t i, P t → (t.job i).intakeOpen = true → P (f t i)) : P (s.spoolFrame tag seq f) := by
  obtain ⟨classified, found⟩ := h.classify hs tag
  unfold State.spoolFrame
  split
  · rename_i e
    rw [e] at classified
    exact classified
  · rename_i t i e
    rw [e] at classified found
    obtain ⟨checked, opened⟩ := h.sequence classified (found i rfl) seq
    split
    · rename_i e
      rw [e] at checked opened
      exact hf _ _ checked opened
    · rename_i e
      rw [e] at checked
      exact checked

theorem takeHeader (h : Custody P) (hs : P s) (i : Slot) (n c sd ca cb len : Nat) : P (s.takeHeader i n c sd ca cb len) := by
  unfold State.takeHeader
  dsimp only
  refine h.offerBound (h.settleBound ?_ i) i
  split
  · exact h.aside (h.countDamage (h.modJob hs i _ (by exact ⟨rfl, id, id⟩)) i _ _) rfl
  · exact h.modJob hs _ _ (by exact ⟨rfl, id, id⟩)

theorem sheetHeader (h : Custody P) (hs : P s) (i : Slot) (n c sd ca cb len : Nat) : P (s.sheetHeader i n c sd ca cb len) := by
  have ended := h.damageInProgress hs i .short
  unfold State.sheetHeader
  dsimp only
  split
  · exact h.aside ended rfl
  · split
    · exact h.aside ended (books_raiseAlert _)
    · exact h.takeHeader ended _ _ _ _ _ _ _

theorem takeData_eq (i : Slot) (rec : SheetRecord) (payload : List Byte) : s.takeData i rec payload =
    if rec.received + payload.length = rec.length then
      (((if 0 < (s.job i).blocksFor payload.length then (s.takesPayload i payload).walk
        else s.takesPayload i payload).settleBound i).offerBound i).noteSendable i
    else if 0 < (s.job i).blocksFor payload.length then (s.takesPayload i payload).walk else s.takesPayload i payload := by
  unfold State.takesPayload
  by_cases needs : 0 < (s.job i).blocksFor payload.length
  · rw [if_pos needs, if_pos needs]
    unfold State.takeData
    dsimp only
    rw [if_pos needs]
    rfl
  · rw [if_neg needs, if_neg needs]
    unfold State.takeData
    dsimp only
    rw [if_neg needs]
    rfl

theorem takeData (h : Custody P) (hs : P s) (ho : (s.job i).intakeOpen = true) (rec : SheetRecord) (payload : List Byte)
    (hc : (s.job i).withinCredit payload.length = true) : P (s.takeData i rec payload) := by
  have stored := h.stores hs i ho payload hc
  have walked : P (if 0 < (s.job i).blocksFor payload.length then (s.takesPayload i payload).walk else s.takesPayload i payload) := by
    split
    · exact h.walk stored
    · exact stored
  rw [takeData_eq]
  split
  · exact h.aside (h.offerBound (h.settleBound walked i) i) books_noteSendable
  · exact walked

theorem sheetData (h : Custody P) (hs : P s) (ho : (s.job i).intakeOpen = true) (payload : List Byte) : P (s.sheetData i payload) := by
  unfold State.sheetData
  split
  · exact hs
  · split
    · exact hs
    · split
      · exact h.damageInProgress hs _ _
      · split
        · rename_i hc
          exact h.takeData hs ho _ payload hc
        · exact h.aside (h.damageInProgress hs i .overrun) rfl

theorem cancelJob (h : Custody P) (hs : P s) (i : Slot) (d : Option QueuePtr) : P (s.cancelJob i d) := by
  have closed : P (if (s.job i).intakeOpen then s.closeIntake i else s) := by
    split
    · exact h.closeIntake hs i
    · exact hs
  unfold State.cancelJob
  dsimp only
  generalize (if (s.job i).intakeOpen then s.closeIntake i else s) = t at closed
  split
  · exact h.aside closed (books_completeOpt ..)
  · have superseded := h.modJob (h.aside closed (books_completeOpt (t.job i).pendingHold .superseded 0 0)) i
      (fun j => { j with pendingHold := none }) (by exact ⟨rfl, id, id⟩)
    split
    · have cancelling := h.modJob superseded i (fun j => { j with state := .cancelling, pendingCancel := d }) ⟨rfl, nofun, id⟩
      split
      · exact h.sendAbort cancelling _
      · exact cancelling
    · exact h.releaseJob (h.aside superseded (books_completeOpt ..)) _ _

theorem acceptOpen (h : Custody P) (hs : P s) (hf : (s.job i).state = .free) (tag : Word16) (a : AccountNo) (p : PoolNo) (prio : Byte)
    (copies first last : Word16) : P (s.acceptOpen i (Job.opened tag a p prio copies first last)) :=
  h.walk (h.aside (h.opens hs i hf tag a p prio copies first last) (books_notice _))

/-- OPEN takes the lowest FREE slot (R4). -/
theorem free_of_openTest {tag account : Word16} {pool : Byte} {a : AccountNo} {p : PoolNo}
    (ht : s.openTest tag account pool = .ok (i, a, p)) : (s.job i).state = .free := by
  have found : s.freeSlot = some i := by
    unfold State.openTest at ht
    split at ht
    · cases ht
    · split at ht
      · cases ht
      · rename_i k hk
        split at ht
        · cases ht
        · split at ht
          · cases ht
          · split at ht
            · cases ht
            · cases ht
              exact hk
  exact eq_of_beq (List.find?_some (p := fun i => (s.job i).state == .free) found)

/-! ## Lanes, pools and jobs -/

theorem sendHead (h : Custody P) (hs : P s) : P s.sendHead := by
  unfold State.sendHead
  split
  · exact hs
  · rename_i n rest _
    have sent : P { s with notices := rest, sent := s.sent ++ [.upstream (noticeFrame s.noticeAddr s.station n)] } := h.aside hs rfl
    dsimp only
    split
    · exact h.restart sent _ _
    · exact sent

theorem complete (h : Custody P) (hs : P s) (p : QueuePtr) (r : Result) (v1 v2 : Word32) : P (s.complete p r v1 v2) := h.aside hs rfl

theorem applySet (h : Custody P) (hs : P s) (l : LaneNo) (c : Settings) : P (s.applySet l c) := by
  unfold State.applySet
  dsimp only
  split
  · split
    · exact h.modLane hs _ _ (by exact id)
    · exact h.enterIdle (h.modLane (h.leaveReady hs l) _ _ (by exact id)) l
  · exact h.enterIdle (h.modLane hs _ _ (by exact id)) l
  · exact h.modLane hs _ _ (by exact id)

theorem setNow (h : Custody P) (hs : P s) (l : LaneNo) (c : Settings) (p : QueuePtr) : P (s.setNow l c p) := by
  have dispatched := h.dispatchNoted (h.aside (h.applySet hs l c)
    (books_relayUnmasked (unmaskedOnLane l (s.lane l).current.mask c.mask)))
  exact h.complete dispatched _ _ _ _

theorem holdJob (h : Custody P) (hs : P s) (i : Slot) (p : QueuePtr) : P (s.holdJob i p) := by
  unfold State.holdJob
  split
  · exact h.aside hs rfl
  · have raised := h.raiseReason (h.modJob (h.aside hs (books_completeOpt (s.job i).pendingHold .superseded 0 0)) i
      (fun j => { j with pendingHold := none }) (by exact ⟨rfl, id, id⟩)) i .operator
    dsimp only
    split
    · exact h.modJob raised _ _ (by exact ⟨rfl, id, id⟩)
    · exact h.aside raised rfl

theorem unholdJob (h : Custody P) (hs : P s) (i : Slot) (p : QueuePtr) : P (s.unholdJob i p) := by
  have left (a : Result × Word32 × Word32) : P ((s.modJob i fun j => { j with reasons := (s.job i).reasons.afterRelease }).answer p a) :=
    h.aside (h.modJob hs i (fun j => { j with reasons := (s.job i).reasons.afterRelease }) (by exact ⟨rfl, id, id⟩)) rfl
  unfold State.unholdJob
  dsimp only
  split
  · split
    · exact h.requeue (left _) _
    · exact h.offerBound (h.modJob (h.aside (left _) (books_completeOpt ..)) i
        (fun j => { j with state := .printing, pendingHold := none }) ⟨rfl, nofun, id⟩) _
    · exact left _
  · exact left _

/-! ## Link frames and lane events -/

theorem afterOut (h : Custody P) (hs : P s) (l : LaneNo) : P (s.afterOut l) := by
  unfold State.afterOut
  split
  · exact h.offerStep (h.settleHolding hs _) _
  · exact hs

theorem afterJam (h : Custody P) (hs : P s) (l : LaneNo) : P (s.afterJam l) := by
  unfold State.afterJam
  split
  · split
    · exact h.enterHeld hs _
    · exact h.releaseJob hs _ _
    · exact hs
  · exact hs

theorem jamSettle (h : Custody P) (hs : P s) (l : LaneNo) (q : Option Word16) : P (s.jamSettle l q) :=
  h.rewindBound (h.settleAt (h.dropOffer (h.modLane hs _ _ (by exact id)) l) l q) l

theorem takeJam (h : Custody P) (hs : P s) (l : LaneNo) (q : Option Word16) (location : BitVec 4) : P (s.takeJam l q location) := by
  have jammed := h.modLane (h.jamSettle hs l q) l (fun r => { r with jams := bump r.jams, lastJam := some ⟨location, s.boundJob l⟩ })
    fun ⟨crc, ignored, out, colour, mono, spoiled, _⟩ => ⟨crc, ignored, out, colour, mono, spoiled, bump_le _⟩
  have escalates (r : Lane) : r.startEscalation.metersInRange = r.metersInRange := by
    unfold Lane.startEscalation
    split <;> rfl
  unfold State.takeJam
  dsimp only
  exact h.afterJam (h.modLane (h.aside jammed (books_raiseAlert _)) l Lane.startEscalation fun hr => by rw [escalates]; exact hr) l

theorem takeStopped (h : Custody P) (hs : P s) (l : LaneNo) (q : Option Word16) : P (s.takeStopped l q) := by
  have settled := h.settleAt (h.dropOffer (h.modLane hs l (fun r => { r with answer := none, abort := false }) (by exact id)) l) l q
  unfold State.takeStopped
  dsimp only
  split
  · exact h.releaseJob settled _ _
  · exact settled

theorem takeClear (h : Custody P) (hs : P s) (l : LaneNo) : P (s.takeClear l) := by
  unfold State.takeClear
  dsimp only
  split
  · exact h.offerStep (h.modLane (h.modLane hs _ _ (by exact id)) _ _ (by exact id)) _
  · exact h.enterIdle (h.modLane hs _ _ (by exact id)) _

theorem takeStatus (h : Custody P) (hs : P s) (l : LaneNo) (flags : Conditions) : P (s.takeStatus l flags) :=
  h.foldl (fun _ _ ht => h.aside ht (books_raiseAlert _)) _ (h.modLane hs _ _ (by exact id))

theorem goDown (h : Custody P) (hs : P s) (l : LaneNo) : P (s.goDown l) := h.modLane hs _ _ (by exact id)

theorem loseCarrier (h : Custody P) (hs : P s) (l : LaneNo) : P (s.loseCarrier l) := by
  unfold State.loseCarrier
  split
  case h_1 | h_2 | h_3 => exact h.laneLoss hs l
  case h_4 => exact h.goDown (h.leaveReady hs l) l
  case h_5 | h_6 | h_7 => exact h.goDown hs l

theorem fallSilent (h : Custody P) (hs : P s) (l : LaneNo) : P (s.fallSilent l) := by
  unfold State.fallSilent
  split
  case h_1 | h_2 | h_3 => exact h.laneLoss hs l
  case h_4 => exact h.enterTraining (h.leaveReady hs l) l
  case h_5 => exact h.enterTraining hs l
  case h_6 | h_7 => exact hs

theorem books_repeatOffer (l : LaneNo) : (s.repeatOffer l).books = s.books := by
  unfold State.repeatOffer
  split
  · split <;> rfl
  · rfl

theorem sendChunks (h : Custody P) (hs : P s) (l : LaneNo) (i : Slot) (o : Offer) : P (s.sendChunks l i o) := by
  unfold State.sendChunks
  split
  · exact h.aside hs (books_transmitAll ..)
  · exact hs

end Custody

end Sys2Proof.Machine
end

section
/-! PROOF. Every command and every step keeps a predicate of the books that `Custody` describes. -/

namespace Sys2Proof.Machine.Custody

variable {P : State → Prop} {s : State}

/-! ## The commands by family -/

/-- A spool frame (R1 to R23). -/
theorem exec_spool (h : Custody P) (hs : P s) (c : Instr) (hc : match c with
    | .openJob .. | .sheet .. | .data .. | .close .. | .cancel .. | .upstreamFrameDiscarded => True
    | _ => False) : ∃ t, exec c s = .next t ∧ P t := by
  cases c with
  | openJob =>
    show ∃ t, execOpenJob _ _ _ _ _ _ _ _ = .next t ∧ P t
    refine h.event hs fun t ht => ?_
    split
    · exact h.aside ht (books_notice _)
    · rename_i free
      exact h.acceptOpen ht (free_of_openTest free) _ _ _ _ _ _ _
  | sheet =>
    show ∃ t, execSheet _ _ _ _ _ _ _ _ _ = .next t ∧ P t
    exact h.event hs fun t ht => h.spoolFrame ht _ _ fun u i hu _ => h.sheetHeader hu _ _ _ _ _ _ _
  | data =>
    show ∃ t, execData _ _ _ _ = .next t ∧ P t
    exact h.event hs fun t ht => h.spoolFrame ht _ _ fun u i hu ho => h.sheetData hu ho _
  | close =>
    show ∃ t, execClose _ _ _ = .next t ∧ P t
    exact h.event hs fun t ht => h.spoolFrame ht _ _ fun u i hu _ => h.offerBound (h.closeIntake hu _) _
  | cancel =>
    show ∃ t, execCancel _ _ _ = .next t ∧ P t
    exact h.event hs fun t ht => h.spoolFrame ht _ _ fun u i hu _ => h.cancelJob hu _ _
  | upstreamFrameDiscarded =>
    show ∃ t, execUpstreamFrameDiscarded _ = .next t ∧ P t
    exact h.event hs fun t ht => ht
  | _ => exact hc.elim

/-- A management frame, a sent notice, and the directives of the management unit and the meter unit: only the sending of a RESET's reply
reaches the books (R168). -/
theorem exec_management (h : Custody P) (hs : P s) (c : Instr) (hc : match c with
    | .managementFrame .. | .noticeSend | .extend .. | .fence .. | .reset | .countersRead .. | .rateSet .. | .tierSet .. | .accountOpen ..
    | .accountClose .. | .accountLimit .. | .accountSwap .. | .accountRead .. | .accountRoll .. => True
    | _ => False) : ∃ t, exec c s = .next t ∧ P t := by
  cases c with
  | managementFrame =>
    show ∃ t, execManagementFrame _ _ _ _ _ = .next t ∧ P t
    refine h.event hs fun t ht => ?_
    split
    · exact h.aside ht (books_acceptFrame ..)
    · exact ht
  | noticeSend =>
    show ∃ t, execNoticeSend _ = .next t ∧ P t
    exact h.event hs fun t ht => h.sendHead ht
  | extend =>
    show ∃ t, execExtend _ _ _ = .next t ∧ P t
    exact h.takeAside hs _ _ fun p t => by split <;> rfl
  | fence =>
    show ∃ t, execFence _ _ = .next t ∧ P t
    refine h.takeAside hs _ _ fun p t => ?_
    split
    · exact books_fenceNotice p
    · rfl
  | reset =>
    show ∃ t, execReset _ = .next t ∧ P t
    refine h.takeAside hs _ _ fun p t => ?_
    split
    · dsimp only
      split <;> rfl
    · rfl
  | countersRead =>
    show ∃ t, execCountersRead _ _ = .next t ∧ P t
    exact h.takeAside hs _ _ fun _ _ => rfl
  | rateSet =>
    show ∃ t, execRateSet _ _ _ _ _ _ = .next t ∧ P t
    refine h.takeAside hs _ _ fun p t => ?_
    split
    · rfl
    · split <;> rfl
  | tierSet =>
    show ∃ t, execTierSet _ _ _ _ _ = .next t ∧ P t
    refine h.takeAside hs _ _ fun p t => ?_
    split
    · rfl
    · split <;> rfl
  | accountOpen =>
    show ∃ t, execAccountOpen _ _ _ _ = .next t ∧ P t
    refine h.takeAside hs _ _ fun p t => ?_
    split
    · rfl
    · split
      · rfl
      · split <;> rfl
  | accountClose =>
    show ∃ t, execAccountClose _ _ = .next t ∧ P t
    refine h.takeAside hs _ _ fun p t => ?_
    split
    · rfl
    · split
      · rfl
      · split <;> rfl
  | accountLimit =>
    show ∃ t, execAccountLimit _ _ _ = .next t ∧ P t
    refine h.takeAside hs _ _ fun p t => ?_
    split
    · rfl
    · split
      · rfl
      · exact books_noteHeadroom ..
  | accountSwap =>
    show ∃ t, execAccountSwap _ _ _ _ = .next t ∧ P t
    refine h.takeAside hs _ _ fun p t => ?_
    split
    · rfl
    · dsimp only
      split
      · rfl
      · split
        · rfl
        · split
          · exact books_noteHeadroom ..
          · rfl
  | accountRead =>
    show ∃ t, execAccountRead _ _ _ = .next t ∧ P t
    exact h.takeAside hs _ _ fun p t => by split <;> rfl
  | accountRoll =>
    show ∃ t, execAccountRoll _ _ = .next t ∧ P t
    refine h.takeAside hs _ _ fun p t => ?_
    split
    · rfl
    · split <;> rfl
  | _ => exact hc.elim

theorem books_invalidate (pick : Fin 64 → CacheEntry → Bool) : (s.invalidate pick).books = s.books := by
  unfold State.invalidate
  generalize (Vector.ofFn _ : Vector CacheEntry 64) = cache
  rfl

/-- A directive on the alert log or on the stream cache, and one whose code no table names. -/
theorem exec_log (h : Custody P) (hs : P s) (c : Instr) (hc : match c with
    | .alertRead .. | .alertAck .. | .alertMask .. | .unknownDirective .. | .purge .. => True
    | _ => False) : ∃ t, exec c s = .next t ∧ P t := by
  cases c with
  | alertRead =>
    show ∃ t, execAlertRead _ _ _ = .next t ∧ P t
    refine h.takeAside hs _ _ fun p t => ?_
    split
    · rfl
    · split
      · rfl
      · split
        · rfl
        · split <;> rfl
  | alertAck =>
    show ∃ t, execAlertAck _ _ = .next t ∧ P t
    refine h.takeAside hs _ _ fun p t => ?_
    split
    · rfl
    · split
      · rfl
      · split <;> rfl
  | alertMask mask =>
    show ∃ t, execAlertMask _ _ = .next t ∧ P t
    refine h.takeDirective hs _ _ fun p t ht => ?_
    have masked : P { t with intakeMask := mask.setWidth 4 } := h.aside ht rfl
    exact h.complete (h.aside masked (books_relayUnmasked _)) _ _ _ _
  | unknownDirective =>
    show ∃ t, execUnknownDirective _ _ = .next t ∧ P t
    exact h.takeAside hs _ _ fun _ _ => rfl
  | purge =>
    show ∃ t, execPurge _ _ _ = .next t ∧ P t
    refine h.takeDirective hs _ _ fun p t ht => ?_
    split
    · exact h.complete ht _ _ _ _
    · exact h.complete (h.aside ht (books_invalidate _)) _ _ _ _
  | _ => exact hc.elim

/-- A directive on a lane, a pool or a job. -/
theorem exec_directive (h : Custody P) (hs : P s) (c : Instr) (hc : match c with
    | .laneSet .. | .laneRead .. | .poolSet .. | .poolReserve .. | .jobRead .. | .jobHold .. | .jobRelease .. | .jobCancel ..
    | .jobMove .. => True
    | _ => False) : ∃ t, exec c s = .next t ∧ P t := by
  cases c with
  | laneSet =>
    show ∃ t, execLaneSet _ _ _ _ _ _ _ _ _ = .next t ∧ P t
    refine h.takeDirective hs _ _ fun p t ht => ?_
    split
    · exact h.aside ht rfl
    · split
      · exact h.modLane (h.aside ht (books_completeOpt ..)) _ _ (by exact id)
      · exact h.setNow ht _ _ _
  | laneRead =>
    show ∃ t, execLaneRead _ _ _ = .next t ∧ P t
    exact h.takeAside hs _ _ fun p t => by split <;> rfl
  | poolSet =>
    show ∃ t, execPoolSet _ _ _ = .next t ∧ P t
    refine h.takeDirective hs _ _ fun p t ht => ?_
    split
    · exact h.aside ht rfl
    · exact h.complete (h.allowance ht _ _) _ _ _ _
  | poolReserve =>
    show ∃ t, execPoolReserve _ _ _ _ = .next t ∧ P t
    refine h.takeDirective hs _ _ fun p t ht => ?_
    split
    · exact h.aside ht rfl
    · split
      · exact h.aside ht rfl
      · rename_i inside
        split
        · exact h.aside ht rfl
        · rename_i apart
          split
          · exact h.aside ht rfl
          · rename_i unused
            simp only [Bool.or_eq_true, decide_eq_true_eq, not_or, Nat.not_lt] at inside
            exact h.complete (h.walk (h.reserve ht _ _ _ inside.1 inside.2 (Bool.eq_false_iff.mpr apart) (Bool.eq_false_iff.mpr unused)))
              _ _ _ _
  | jobRead =>
    show ∃ t, execJobRead _ _ _ = .next t ∧ P t
    refine h.takeAside hs _ _ fun p t => ?_
    split
    · rfl
    · split
      · rfl
      · split <;> rfl
  | jobHold =>
    show ∃ t, execJobHold _ _ _ = .next t ∧ P t
    refine h.takeDirective hs _ _ fun p t ht => ?_
    split
    · exact h.aside ht rfl
    · split
      · exact h.aside ht rfl
      · split
        · exact h.aside ht rfl
        · exact h.holdJob ht _ _
  | jobRelease =>
    show ∃ t, execJobRelease _ _ _ = .next t ∧ P t
    refine h.takeDirective hs _ _ fun p t ht => ?_
    split
    · exact h.aside ht rfl
    · split
      · exact h.aside ht rfl
      · split
        · exact h.aside ht rfl
        · exact h.unholdJob ht _ _
  | jobCancel =>
    show ∃ t, execJobCancel _ _ _ = .next t ∧ P t
    refine h.takeDirective hs _ _ fun p t ht => ?_
    split
    · exact h.aside ht rfl
    · split
      · exact h.aside ht rfl
      · split
        · exact h.aside ht rfl
        · split
          · exact h.aside ht rfl
          · exact h.cancelJob ht _ _
  | jobMove =>
    show ∃ t, execJobMove _ _ _ = .next t ∧ P t
    refine h.takeDirective hs _ _ fun p t ht => ?_
    split
    · exact h.aside ht rfl
    · split
      · exact h.aside ht rfl
      · split
        · exact h.aside ht rfl
        · exact h.complete (h.modJob ht _ _ (by exact ⟨rfl, id, id⟩)) _ _ _ _
  | _ => exact hc.elim

/-- A link frame with a bad CRC raises its counter (R70). -/
theorem exec_badCrc (h : Custody P) (hs : P s) (l : LaneNo) : ∃ t, exec (.linkFrameDiscarded l .crc) s = .next t ∧ P t := by
  have counted : P (s.begin.modLane l fun r => { r with crcErrors := bump r.crcErrors }) :=
    h.modLane (s := s.begin) (h.aside hs rfl) l (fun r => { r with crcErrors := bump r.crcErrors })
      fun ⟨_, rest⟩ => ⟨bump_le _, rest⟩
  show ∃ t, execLinkFrameDiscarded l .crc s = .next t ∧ P t
  unfold execLinkFrameDiscarded
  refine ⟨_, rfl, ?_⟩
  split
  · exact hs
  · exact h.finish counted

/-- A link frame of a printer. -/
theorem exec_link (h : Custody P) (hs : P s) (c : Instr) (hc : match c with
    | .hello .. | .proceed .. | .wait .. | .media .. | .refuse .. | .out .. | .jam .. | .stopped .. | .clear .. | .status ..
    | .linkFrameDiscarded .. => True
    | _ => False) : ∃ t, exec c s = .next t ∧ P t := by
  cases c with
  | hello =>
    show ∃ t, execHello _ _ _ _ _ _ = .next t ∧ P t
    refine h.receive hs _ _ fun t ht => ?_
    dsimp only
    split
    · exact h.enterIdle (h.modLane (h.modLane ht _ _ (by exact id)) _ _ (by exact id)) _
    · exact h.modLane ht _ _ (by exact id)
  | proceed =>
    show ∃ t, execProceed _ _ _ = .next t ∧ P t
    exact h.answer hs _ _ fun t i o ht => h.offerStep
      (h.settle (h.modJob (h.sendChunks (h.modLane ht _ _ (by exact id)) _ _ _) _ _ (by exact ⟨rfl, id, id⟩)) _) _
  | wait =>
    show ∃ t, execWait _ _ _ = .next t ∧ P t
    refine h.answer hs _ _ fun t i o ht => ?_
    dsimp only
    split
    · exact h.modLane (h.modLane (h.dropOffer ht _) _ _ (by exact id)) _ _ (by exact id)
    · exact h.settleHolding (h.modLane (h.dropOffer ht _) _ _ (by exact id)) _
  | media =>
    show ∃ t, execMedia _ _ _ = .next t ∧ P t
    exact h.answer hs _ _ fun t i o ht => h.settleHolding (h.aside (h.modLane (h.dropOffer ht _) _ _ (by exact id)) (books_raiseAlert _)) _
  | refuse =>
    show ∃ t, execRefuse _ _ _ = .next t ∧ P t
    exact h.answer hs _ _ fun t i o ht => h.refuseSheet (h.dropOffer ht _) _ _ _ _
  | out =>
    show ∃ t, execOut _ _ _ = .next t ∧ P t
    exact h.receive hs _ _ fun t ht => h.afterOut (h.confirmMany _ ht _) _
  | jam =>
    show ∃ t, execJam _ _ _ _ = .next t ∧ P t
    exact h.receive hs _ _ fun t ht => h.takeJam ht _ _ _
  | stopped =>
    show ∃ t, execStopped _ _ _ = .next t ∧ P t
    exact h.receive hs _ _ fun t ht => h.takeStopped ht _ _
  | clear =>
    show ∃ t, execClear _ _ = .next t ∧ P t
    exact h.receive hs _ _ fun t ht => h.takeClear ht _
  | status =>
    show ∃ t, execStatus _ _ _ _ _ = .next t ∧ P t
    exact h.receive hs _ _ fun t ht => h.takeStatus ht _ _
  | linkFrameDiscarded lane why =>
    cases why with
    | crc => exact h.exec_badCrc hs lane
    | kindOrLength =>
      show ∃ t, execLinkFrameDiscarded lane .kindOrLength s = .next t ∧ P t
      unfold execLinkFrameDiscarded
      exact h.receive hs _ _ fun t ht => ht
  | _ => exact hc.elim

/-- A carrier level, a timer expiry or the RESET pin. -/
theorem exec_lane (h : Custody P) (hs : P s) (c : Instr) (hc : match c with
    | .carrierLost .. | .carrierPresent .. | .hailTimerExpiry .. | .silenceTimerExpiry .. | .answerTimeout .. | .abortTimeout ..
    | .reofferTimerExpiry .. | .escalationTimerExpiry .. | .resetPinLow | .resetPinRise .. => True
    | _ => False) : ∃ t, exec c s = .next t ∧ P t := by
  cases c with
  | carrierLost =>
    show ∃ t, execCarrierLost _ _ = .next t ∧ P t
    exact h.carrierEvent hs _ _ fun t ht => h.loseCarrier ht _
  | carrierPresent =>
    show ∃ t, execCarrierPresent _ _ = .next t ∧ P t
    refine h.carrierEvent hs _ _ fun t ht => ?_
    split
    · exact h.enterTraining ht _
    · exact ht
  | hailTimerExpiry =>
    show ∃ t, execHailTimerExpiry _ _ = .next t ∧ P t
    exact h.expiry hs _ _ fun t ht => h.transmit (h.modLane ht _ _ (by exact id)) _ _
  | silenceTimerExpiry =>
    show ∃ t, execSilenceTimerExpiry _ _ = .next t ∧ P t
    exact h.expiry hs _ _ fun t ht => h.fallSilent ht _
  | answerTimeout =>
    show ∃ t, execAnswerTimeout _ _ = .next t ∧ P t
    refine h.expiry hs _ _ fun t ht => ?_
    split
    · exact h.aside (h.modLane ht _ _ (by exact id)) (books_repeatOffer _)
    · exact h.laneLoss ht _
  | abortTimeout =>
    show ∃ t, execAbortTimeout _ _ = .next t ∧ P t
    exact h.expiry hs _ _ fun t ht => h.laneLoss ht _
  | reofferTimerExpiry =>
    show ∃ t, execReofferTimerExpiry _ _ = .next t ∧ P t
    exact h.expiry hs _ _ fun t ht => h.offerStep (h.modLane ht _ _ (by exact id)) _
  | escalationTimerExpiry =>
    show ∃ t, execEscalationTimerExpiry _ _ = .next t ∧ P t
    exact h.expiry hs _ _ fun t ht => h.aside (h.modLane ht _ _ (by exact id)) (books_raiseAlert _)
  | resetPinLow => exact ⟨_, rfl, h.aside hs rfl⟩
  | resetPinRise straps => exact ⟨_, rfl, h.restart hs _ _⟩
  | _ => exact hc.elim

/-! ## Every command and every step -/

theorem exec (h : Custody P) (hs : P s) (c : Instr) : ∃ t, Machine.exec c s = .next t ∧ P t := by
  cases c
  case openJob | sheet | data | close | cancel | upstreamFrameDiscarded => exact h.exec_spool hs _ trivial
  case managementFrame | noticeSend | extend | fence | reset | countersRead | rateSet | tierSet | accountOpen | accountClose | accountLimit
    | accountSwap | accountRead | accountRoll => exact h.exec_management hs _ trivial
  case alertRead | alertAck | alertMask | unknownDirective | purge => exact h.exec_log hs _ trivial
  case laneSet | laneRead | poolSet | poolReserve | jobRead | jobHold | jobRelease | jobCancel | jobMove =>
    exact h.exec_directive hs _ trivial
  case hello | proceed | wait | media | refuse | out | jam | stopped | clear | status | linkFrameDiscarded => exact h.exec_link hs _ trivial
  case carrierLost | carrierPresent | hailTimerExpiry | silenceTimerExpiry | answerTimeout | abortTimeout | reofferTimerExpiry
    | escalationTimerExpiry | resetPinLow | resetPinRise => exact h.exec_lane hs _ trivial

theorem ticked (h : Custody P) (hs : P s) (tick : Word32) (v : Vector Lane 16)
    (hv : ∀ l : LaneNo, (s.lane l).metersInRange → v[l].metersInRange) : P { s with tick := tick, lanes := v } :=
  h.aside (h.lanes hs v hv) rfl

theorem tickOne (h : Custody P) (hs : P s) : P s.tickOne := by
  unfold State.tickOne
  split
  · exact hs
  · refine h.ticked hs (s.tick + 1) (mapVector Lane.tick s.lanes) fun l hl => ?_
    have ticks : (mapVector Lane.tick s.lanes)[l] = (s.lane l).tick := by simp [State.lane]
    rw [ticks]
    exact hl

theorem step (h : Custody P) (hs : P s) : ∃ t, Machine.step s = .next t ∧ P t := by
  unfold Machine.step
  split
  · rename_i rest _
    have begun : P { s with pending := rest } := h.aside hs rfl
    exact h.exec begun _
  · split
    · exact h.exec hs _
    · exact ⟨_, rfl, h.tickOne hs⟩

/-- A predicate that every step keeps holds of the state that a step answers. -/
theorem of_step (h : Custody P) {t : State} (ht : Machine.step s = .next t) (hs : P s) : P t := by
  obtain ⟨u, hu, hp⟩ := h.step hs
  rw [ht] at hu
  cases hu
  exact hp

end Sys2Proof.Machine.Custody
end

section
/-! PROOF. Totals, meters and counters in their ranges (R24, R69, R80, R150, R155, R170): settles O7. The engine's own counters are a
matter of the elementary updates alone (`Stable`); a job's totals and a lane's meters are kept by every update of their records (`Custody`). -/

namespace Sys2Proof.Machine

/-! ## The engine's counters -/

/-- The engine's own counters lie in 32 bits (R24, R155, R170). -/
def State.eventCountsInRange (s : State) : Prop :=
  s.unknownStream ≤ Config.counterMax ∧ s.closedStream ≤ Config.counterMax ∧ s.duplicates ≤ Config.counterMax ∧
    s.badHeaders ≤ Config.counterMax ∧ s.overruns ≤ Config.counterMax ∧ s.noticeDrops ≤ Config.counterMax ∧
    s.overflowCount ≤ Config.counterMax

theorem eventCountsInRange_notice {s : State} (h : s.eventCountsInRange) (n : Notice) : (s.notice n).eventCountsInRange := by
  unfold State.notice
  split
  · exact h
  · obtain ⟨unknown, closed, duplicates, headers, overruns, -, overflow⟩ := h
    exact ⟨unknown, closed, duplicates, headers, overruns, bump_le _, overflow⟩

theorem eventCountsInRange_relayInto {s : State} (h : s.eventCountsInRange) (i : Fin 32) (r : AlertRecord) :
    (s.relayInto i r).eventCountsInRange := by
  unfold State.relayInto
  split
  · exact h
  · exact eventCountsInRange_notice h _

theorem eventCountsInRange_raiseAlert {s : State} (h : s.eventCountsInRange) (e : AlertEvent) : (s.raiseAlert e).eventCountsInRange := by
  obtain ⟨unknown, closed, duplicates, headers, overruns, drops, -⟩ := id h
  have overflowed : ({ s with overflow := true, overflowCount := bump s.overflowCount } : State).eventCountsInRange :=
    ⟨unknown, closed, duplicates, headers, overruns, drops, bump_le _⟩
  unfold State.raiseAlert
  split
  · split
    · exact eventCountsInRange_relayInto h _ _
    · exact h
  · split
    · exact eventCountsInRange_relayInto h _ _
    · dsimp only
      split
      · exact overflowed
      · exact eventCountsInRange_notice overflowed _

theorem eventCountsInRange_relayHeld {s : State} (h : s.eventCountsInRange) (p : AlertRecord → Bool) (i : Fin 32) :
    (s.relayHeld p i).eventCountsInRange := by
  unfold State.relayHeld
  split
  · split
    · exact eventCountsInRange_notice h _
    · exact h
  · exact h

theorem stable_eventCountsInRange : Stable State.eventCountsInRange := by
  constructor
  case toSteady =>
    constructor
    case notice => exact fun h n => eventCountsInRange_notice h n
    case alert => exact fun h e => eventCountsInRange_raiseAlert h e
    case relay => exact fun h p i => eventCountsInRange_relayHeld h p i
    case unknownStream => exact fun ⟨_, rest⟩ _ => ⟨bump_le _, rest⟩
    case closedStream => exact fun ⟨unknown, _, rest⟩ _ => ⟨unknown, bump_le _, rest⟩
    case duplicates => exact fun ⟨unknown, closed, _, rest⟩ _ => ⟨unknown, closed, bump_le _, rest⟩
    case badHeaders => exact fun ⟨unknown, closed, duplicates, _, rest⟩ _ => ⟨unknown, closed, duplicates, bump_le _, rest⟩
    case overruns =>
      exact fun ⟨unknown, closed, duplicates, headers, _, rest⟩ _ => ⟨unknown, closed, duplicates, headers, bump_le _, rest⟩
    case restart =>
      exact fun _ _ _ => ⟨Nat.zero_le _, Nat.zero_le _, Nat.zero_le _, Nat.zero_le _, Nat.zero_le _, Nat.zero_le _, Nat.zero_le _⟩
    all_goals intros; assumption
  all_goals intros; assumption

/-! ## The totals of the jobs and the meters of the lanes -/

/-- Every job's totals and every lane's meters lie in their ranges (R69, R80, R150). -/
def State.recordsInRange (s : State) : Prop := (∀ i : Slot, (s.job i).totalsInRange) ∧ ∀ l : LaneNo, (s.lane l).metersInRange

/-- No lane record changes, and a job's totals change only to 0. -/
def State.tallied (s t : State) : Prop :=
  t.lanes = s.lanes ∧ ∀ k, (t.job k).totals = (s.job k).totals ∨ (t.job k).totals = Job.vacant.totals

section
variable {s t u : State} {i : Slot}

theorem tallied_refl (s : State) : s.tallied s := ⟨rfl, fun _ => .inl rfl⟩

theorem State.tallied.trans (h : s.tallied t) (h' : t.tallied u) : s.tallied u := by
  refine ⟨h'.1.trans h.1, fun k => ?_⟩
  rcases h'.2 k with e | e
  · rw [e]
    exact h.2 k
  · exact .inr e

theorem State.tallied.recordsInRange (h : s.tallied t) (hs : s.recordsInRange) : t.recordsInRange := by
  refine ⟨fun k => ?_, fun l => ?_⟩
  · have of_totals {j j' : Job} (e : j'.totals = j.totals) (hj : j.totalsInRange) : j'.totalsInRange := by
      unfold Job.totals at e
      simp only [Totals.mk.injEq] at e
      unfold Job.totalsInRange at *
      obtain ⟨confirmed, spoiled, damaged, charge⟩ := e
      rw [confirmed, spoiled, damaged, charge]
      exact hj
    rcases h.2 k with e | e
    · exact of_totals e (hs.1 k)
    · exact of_totals e ⟨Nat.zero_le _, Nat.zero_le _, Nat.zero_le _, Nat.zero_le _⟩
  · rw [show t.lane l = s.lane l by unfold State.lane; rw [h.1]]
    exact hs.2 l

theorem tallied_setJob {j : Job} (hj : j.totals = (s.job i).totals ∨ j.totals = Job.vacant.totals) : s.tallied (s.setJob i j) := by
  refine ⟨rfl, fun k => ?_⟩
  rw [State.job_setJob]
  split
  · rename_i e
    rw [← e]
    exact hj
  · exact .inl rfl

theorem tallied_modJob (i : Slot) (f : Job → Job) (hf : (f (s.job i)).totals = (s.job i).totals) : s.tallied (s.modJob i f) :=
  tallied_setJob (.inl hf)

theorem State.Rests.tallied (h : s.Rests t) : s.tallied t :=
  ⟨(of_outside h.outside).1, fun k => .inl (congrArg Job.totals (h.jobs k) : _)⟩

theorem tallied_leaveWait : s.tallied (s.leaveWait i) := tallied_refl s

theorem tallied_setPool (p : PoolNo) (r : Pool) : s.tallied (s.setPool p r) := tallied_refl s

theorem tallied_rebuild (p : PoolNo) (base limit : Nat) : s.tallied (s.rebuild p base limit) := by
  unfold State.rebuild
  exact tallied_setPool (s := { s with sharedFree := _ }) p _

theorem tallied_joinWait : s.tallied (s.joinWait i) := by
  unfold State.joinWait
  split
  · exact tallied_refl s
  · exact tallied_refl s

theorem tallied_returnPromise : s.tallied (s.returnPromise i) := by
  have returned := (tallied_modJob (s := s) i (fun j => { j with granted := j.allocated, promised := 0, promisedShared := 0 }) rfl).trans
    (tallied_leaveWait (i := i))
  unfold State.returnPromise
  dsimp only
  split
  · exact returned.trans walk_rests.tallied
  · exact returned

theorem tallied_vacates : s.tallied (s.vacates i) :=
  (freeBlocks_rests _).tallied.trans (tallied_setJob (s := ((s.freeBlocks (s.job i).chain).leaveWait i).forgetSlot i) (.inr rfl))

theorem tallied_takesOpen {j : Job} (hj : j.totals = Job.vacant.totals) : s.tallied (s.takesOpen i j) :=
  (tallied_setJob (.inr hj)).trans (tallied_joinWait (s := ((s.setJob i j).fillCache j.tag i).joinTail i))

theorem tallied_allocate : s.tallied (s.allocate i) := by
  unfold State.allocate
  split
  · split
    · exact tallied_modJob i _ rfl
    · exact tallied_refl s
  · split
    · exact tallied_modJob i _ rfl
    · exact tallied_refl s

theorem tallied_allocateMany (n : Nat) : s.tallied (State.allocateMany n s i) := by
  induction n generalizing s with
  | zero => exact tallied_refl s
  | succ n ih => exact tallied_allocate.trans ih

theorem tallied_takesPayload (payload : List Byte) : s.tallied (s.takesPayload i payload) := by
  have stored : s.tallied (s.storesPayload i payload) := (tallied_allocateMany _).trans (tallied_modJob i _ rfl)
  unfold State.takesPayload
  split
  · exact stored.trans tallied_joinWait
  · exact stored

theorem tallied_setAllowance (p : PoolNo) (n : Nat) : s.tallied (s.setAllowance p n) := by
  have follows (t : State) (k : Slot) : t.tallied (t.followMark p k) := by
    unfold State.followMark
    split
    · split
      · exact tallied_joinWait
      · exact tallied_refl t
    · exact tallied_refl t
  unfold State.setAllowance
  exact State.tallied.trans (foldl_related tallied_refl State.tallied.trans follows (List.finRange 256)
    (s.modPool p fun r => { r with allowance := n })) walk_rests.tallied

end

theorem recordsInRange_startUp (straps : Byte) (changes : List Byte) (carriers : Vector Bool 16) (mem : List Host.Cell) (sent : List Sent)
    (pending : List Instr) : (State.startUp straps changes carriers mem sent pending).recordsInRange := by
  obtain ⟨-, -, -, -, -, -, -, totals, meters⟩ := startUp_countersInRange straps changes carriers mem sent pending
  exact ⟨totals, meters⟩

theorem recordsInRange_restart (s : State) (straps : Byte) (changes : List Byte) : (s.restart straps changes).recordsInRange :=
  recordsInRange_startUp ..

theorem custody_recordsInRange : Custody State.recordsInRange where
  aside {s t} h e := by
    unfold State.books at e
    simp only [Prod.mk.injEq] at e
    obtain ⟨jobs, lanes, -⟩ := e
    unfold State.recordsInRange State.job State.lane
    rw [jobs, lanes]
    exact h
  job {s} h i j hj := by
    refine ⟨fun k => ?_, h.2⟩
    rw [State.job_setJob]
    split
    · exact hj.totals (h.1 i)
    · exact h.1 k
  lanes h v hv := ⟨h.1, fun l => hv l (h.2 l)⟩
  pool h p r _ := (tallied_setPool p r).recordsInRange h
  walk h := walk_rests.tallied.recordsInRange h
  releasePass h _ := releasePass_rests.tallied.recordsInRange h
  closes {s} h i := by
    have closed : s.tallied (s.modJob i fun j => { j with intakeOpen := false }) := tallied_modJob i _ rfl
    exact (closed.trans (tallied_returnPromise (i := i))).recordsInRange h
  vacates h _ := tallied_vacates.recordsInRange h
  opens h i _ tag a p prio copies first last :=
    (tallied_takesOpen (i := i) (j := Job.opened tag a p prio copies first last) rfl).recordsInRange h
  stores h _ _ payload _ := (tallied_takesPayload payload).recordsInRange h
  allowance h p n := (tallied_setAllowance p n).recordsInRange h
  reserve h p base limit _ _ _ _ := (tallied_rebuild p base limit).recordsInRange h
  restart _ _ _ := recordsInRange_restart ..

theorem countersInRange_iff (s : State) : s.countersInRange ↔ s.eventCountsInRange ∧ s.recordsInRange := by
  unfold State.countersInRange State.eventCountsInRange State.recordsInRange
  simp only [and_assoc]

/-- Settles O7: the accounts, the engine's counters and the passed records by their elementary updates, and the totals and meters by the
updates of their records. -/
theorem stepKeepsEveryFigureInRange : Obligations.StepKeepsEveryFigureInRange := by
  refine fun s t ht => ⟨stable_accountsInRange.of_step ht, fun h => ?_, stable_passedReleased.of_step ht⟩
  rw [countersInRange_iff] at h ⊢
  exact ⟨stable_eventCountsInRange.of_step ht h.1, custody_recordsInRange.of_step ht h.2⟩

end Sys2Proof.Machine
end

section
/-! PROOF. Where each spool block stands (R25 to R27), in sums over the pools and the jobs: how an update of one job record, of one free
queue, and the return of blocks to their free queues change them. -/

namespace Sys2Proof.Machine

/-! ## Sums over the tables -/

/-- Two sums that differ in one term alone. -/
theorem sum_add_eq {n : Nat} {f g : Fin n → Nat} (i : Fin n) (h : ∀ k, k ≠ i → f k = g k) : ∑ k, f k + g i = ∑ k, g k + f i := by
  have same : ∑ k ∈ Finset.univ.erase i, f k = ∑ k ∈ Finset.univ.erase i, g k :=
    Finset.sum_congr rfl fun k hk => h k (Finset.ne_of_mem_erase hk)
  rw [← Finset.add_sum_erase _ f (Finset.mem_univ i), ← Finset.add_sum_erase _ g (Finset.mem_univ i), same]
  omega

section
variable {s t : State} {i : Slot} {j : Job}

theorem sum_jobs (f : Job → Nat) : (s.jobs.toList.map f).sum = ∑ i : Slot, f (s.job i) := by
  have entries : s.jobs.toList = (List.finRange 256).map s.job :=
    List.ext_getElem (by simp) fun k h1 h2 => by simp [State.job]
  rw [entries, List.map_map, Fin.sum_univ_def]
  rfl

theorem promiseTotal_sum (p : PoolNo) : s.promiseTotal p = ∑ i : Slot, (s.job i).promisedIn p := by
  rw [promiseTotal_eq, sum_jobs]

theorem sharedTotal_sum : s.sharedTotal = ∑ i : Slot, (s.job i).sharedPart := by
  rw [sharedTotal_eq, sum_jobs]

/-- A sum over the jobs after an update of one record. -/
theorem sum_jobs_update (f : Job → Nat) (jobs : ∀ k, t.job k = if i = k then j else s.job k) :
    ∑ k : Slot, f (t.job k) + f (s.job i) = ∑ k : Slot, f (s.job k) + f j := by
  have self : t.job i = j := (jobs i).trans (if_pos rfl)
  rw [← self]
  refine sum_add_eq (f := fun k => f (t.job k)) (g := fun k => f (s.job k)) i fun k hk => ?_
  rw [jobs, if_neg (Ne.symm hk)]

/-! ## The places of a block -/

/-- How often a block stands in the free queues and the chains. -/
def State.placesOf (s : State) (b : Nat) : Nat :=
  s.sharedFree.count b + ∑ p : PoolNo, (s.pool p).free.count b + ∑ i : Slot, (s.job i).chain.count b

theorem count_places (b : Nat) : (s.sharedFree ++ ((List.finRange 8).flatMap fun p => (s.pool p).free) ++
    (List.finRange 256).flatMap fun i => (s.job i).chain).count b = s.placesOf b := by
  rw [List.count_append, List.count_append, List.count_flatMap, List.count_flatMap, State.placesOf, Fin.sum_univ_def, Fin.sum_univ_def]
  rfl

/-- Each block stands in one place (R25). -/
theorem State.blocksApart.placesOf (h : s.blocksApart) (b : Nat) : s.placesOf b = if b < 65536 then 1 else 0 := by
  rw [← count_places, h.once.count_eq, List.nodup_range.count]
  simp only [List.mem_range]

theorem once_of_places (h : ∀ b, s.placesOf b = if b < 65536 then 1 else 0) :
    (s.sharedFree ++ ((List.finRange 8).flatMap fun p => (s.pool p).free) ++
      (List.finRange 256).flatMap fun i => (s.job i).chain).Perm (List.range 65536) := by
  refine List.perm_iff_count.mpr fun b => ?_
  rw [count_places, h, List.nodup_range.count]
  simp only [List.mem_range]

/-- The regions of a state are those of one with the same reservations (R26). -/
theorem regionOf_congr (hp : ∀ p, (t.pool p).base = (s.pool p).base ∧ (t.pool p).limit = (s.pool p).limit) (b : Nat) :
    t.regionOf b = s.regionOf b := by
  unfold State.regionOf
  congr 1
  funext p
  rw [(hp p).1, (hp p).2]

/-- A move of blocks between free queues and chains that leaves the reservations. -/
theorem State.blocksApart.moves (h : s.blocksApart)
    (hp : ∀ p, (t.pool p).base = (s.pool p).base ∧ (t.pool p).limit = (s.pool p).limit)
    (places : ∀ b, t.placesOf b = s.placesOf b) (shared : ∀ b ∈ t.sharedFree, s.regionOf b = none)
    (pools : ∀ p, ∀ b ∈ (t.pool p).free, s.regionOf b = some p)
    (chains : ∀ k, ∀ b ∈ (t.job k).chain, s.regionOf b = none ∨ s.regionOf b = some (t.job k).pool)
    (vacant : ∀ k, (t.job k).state = .free → (t.job k).chain = [] ∧ (t.job k).intakeOpen = false) : t.blocksApart where
  once := once_of_places fun b => (places b).trans (h.placesOf b)
  shared b hb := by
    rw [regionOf_congr hp]
    exact shared b hb
  pools p b hb := by
    rw [regionOf_congr hp]
    exact pools p b hb
  chains k b hb := by
    rw [regionOf_congr hp]
    exact chains k b hb
  extents p hr := by
    rw [Pool.reserved, (hp p).1, (hp p).2] at hr
    rw [(hp p).2]
    exact h.extents p hr
  distinct p q hn hr hq := by
    rw [Pool.reserved, (hp p).1, (hp p).2] at hr
    rw [Pool.reserved, (hp q).1, (hp q).2] at hq
    rw [(hp p).1, (hp p).2, (hp q).1, (hp q).2]
    exact h.distinct p q hn hr hq
  vacant := vacant

/-- What a vacant slot has (R45, R47). -/
def Job.freeIsBare (j : Job) : Prop := j.state = .free → j.chain = [] ∧ j.intakeOpen = false

/-- A job record that keeps its chain and its pool. -/
theorem State.blocksApart.job (h : s.blocksApart) (jobs : ∀ k, t.job k = if i = k then j else s.job k)
    (pools : ∀ p, (t.pool p).region = (s.pool p).region) (shared : t.sharedFree = s.sharedFree) (chain : j.chain = (s.job i).chain)
    (pool : j.pool = (s.job i).pool ∨ j.chain = []) (bare : j.freeIsBare) : t.blocksApart := by
  have region (p : PoolNo) : (t.pool p).base = (s.pool p).base ∧ (t.pool p).limit = (s.pool p).limit ∧
      (t.pool p).free = (s.pool p).free := by
    have := pools p
    unfold Pool.region at this
    simp only [Prod.mk.injEq] at this
    exact ⟨this.1, this.2.1, this.2.2.1⟩
  have chains (k : Slot) : (t.job k).chain = (s.job k).chain := by
    rw [jobs]
    split
    · rename_i e
      rw [← e]
      exact chain
    · rfl
  refine h.moves (fun p => ⟨(region p).1, (region p).2.1⟩) (fun b => ?_) (fun b hb => ?_) (fun p b hb => ?_) (fun k b hb => ?_)
    fun k hk => ?_
  · unfold State.placesOf
    rw [shared, Finset.sum_congr rfl fun p _ => congrArg (List.count b) (region p).2.2,
      Finset.sum_congr rfl fun k _ => congrArg (List.count b) (chains k)]
  · rw [shared] at hb
    exact h.shared b hb
  · rw [(region p).2.2] at hb
    exact h.pools p b hb
  · rw [jobs] at hb ⊢
    split at hb
    · rename_i e
      rw [if_pos e]
      rcases pool with hp | hp
      · rw [hp]
        exact h.chains i b (chain ▸ hb)
      · rw [hp] at hb
        exact absurd hb List.not_mem_nil
    · rename_i e
      rw [if_neg e]
      exact h.chains k b hb
  · rw [jobs] at hk ⊢
    split at hk
    · rename_i e
      rw [if_pos e]
      exact bare hk
    · rename_i e
      rw [if_neg e]
      exact h.vacant k hk

/-- The tables alone count. -/
theorem State.blocksApart.congr (h : s.blocksApart) (jobs : ∀ k, t.job k = s.job k)
    (pools : ∀ p, (t.pool p).region = (s.pool p).region) (shared : t.sharedFree = s.sharedFree) : t.blocksApart :=
  h.job (i := 0) (j := s.job 0) (fun k => by rw [jobs]; split <;> simp_all) pools shared rfl (.inl rfl) fun h' => h.vacant 0 h'

/-! ## Returned blocks -/

/-- The free queues after blocks have returned to their regions (R27). -/
theorem freeBlocks_queues (bs : List Nat) :
    (s.freeBlocks bs).sharedFree = s.sharedFree ++ bs.filter (fun b => s.regionOf b == none) ∧
      ∀ p, (s.freeBlocks bs).pool p = { s.pool p with free := (s.pool p).free ++ bs.filter (fun b => s.regionOf b == some p) } := by
  have one (s : State) (b : Nat) : (s.freeBlock b).sharedFree = s.sharedFree ++ [b].filter (fun b => s.regionOf b == none) ∧
      ∀ p, (s.freeBlock b).pool p = { s.pool p with free := (s.pool p).free ++ [b].filter (fun b => s.regionOf b == some p) } := by
    unfold State.freeBlock
    cases hb : s.regionOf b with
    | none =>
      refine ⟨by simp [hb], fun p => ?_⟩
      rw [List.filter_cons_of_neg (by simp [hb]), List.filter_nil, List.append_nil]
      rfl
    | some q =>
      refine ⟨by simp [hb, State.modPool, State.setPool], fun p => ?_⟩
      dsimp only
      rw [State.modPool, State.pool_setPool]
      split
      · rename_i e
        rw [e, List.filter_cons_of_pos (by simp [hb, e]), List.filter_nil]
      · rename_i e
        rw [List.filter_cons_of_neg (by simpa [hb] using e), List.filter_nil, List.append_nil]
  unfold State.freeBlocks
  induction bs generalizing s with
  | nil => simp
  | cons b rest ih =>
    obtain ⟨shared, pools⟩ := one s b
    obtain ⟨shared', pools'⟩ := ih (s := s.freeBlock b)
    have region (c : Nat) : (s.freeBlock b).regionOf c = s.regionOf c :=
      regionOf_congr (fun p => by rw [pools p]; exact ⟨rfl, rfl⟩) c
    simp only [region] at shared' pools'
    rw [List.foldl_cons]
    refine ⟨?_, fun p => ?_⟩
    · rw [shared', shared, List.append_assoc, ← List.filter_append]
      rfl
    · rw [pools', pools, List.append_assoc, ← List.filter_append]
      rfl

/-- A list counts an entry as often as its parts by region do. -/
theorem count_by_region (f : Nat → Option PoolNo) (bs : List Nat) (b : Nat) :
    (bs.filter (fun c => f c == none)).count b + ∑ p : PoolNo, (bs.filter (fun c => f c == some p)).count b = bs.count b := by
  have part (o : Option PoolNo) : (bs.filter (fun c => f c == o)).count b = if f b = o then bs.count b else 0 := by
    split
    · rename_i e
      exact List.count_filter (by simp [e])
    · rename_i e
      exact List.count_eq_zero.mpr fun hb => e (by simpa using (List.mem_filter.mp hb).2)
  rw [part, Finset.sum_congr rfl fun p _ => part (some p)]
  cases f b with
  | none => simp
  | some q =>
    rw [if_neg (Option.some_ne_none q), Finset.sum_congr rfl fun p _ => if_congr Option.some_inj rfl rfl, Finset.sum_ite_eq]
    simp

/-- Blocks that leave the head of a job's chain return to the free queues of their regions (R27, R43, R45). -/
theorem State.blocksApart.frees (h : s.blocksApart) (bs : List Nat) (jobs : ∀ k, t.job k = if i = k then j else s.job k)
    (shared : t.sharedFree = (s.freeBlocks bs).sharedFree) (pools : ∀ p, t.pool p = (s.freeBlocks bs).pool p)
    (chain : (s.job i).chain = bs ++ j.chain) (pool : j.pool = (s.job i).pool ∨ j.chain = []) (bare : j.freeIsBare) : t.blocksApart := by
  obtain ⟨shared', pools'⟩ := freeBlocks_queues (s := s) bs
  have queue : t.sharedFree = s.sharedFree ++ bs.filter (fun b => s.regionOf b == none) := shared.trans shared'
  have free (p : PoolNo) : t.pool p = { s.pool p with free := (s.pool p).free ++ bs.filter (fun b => s.regionOf b == some p) } :=
    (pools p).trans (pools' p)
  refine h.moves (fun p => by rw [free]; exact ⟨rfl, rfl⟩) (fun b => ?_) (fun b hb => ?_) (fun p b hb => ?_) (fun k b hb => ?_)
    fun k hk => ?_
  · have jobSum := sum_jobs_update (fun j => j.chain.count b) jobs
    have poolSum : ∑ p : PoolNo, (t.pool p).free.count b =
        ∑ p : PoolNo, (s.pool p).free.count b + ∑ p : PoolNo, (bs.filter (fun c => s.regionOf c == some p)).count b := by
      rw [← Finset.sum_add_distrib]
      exact Finset.sum_congr rfl fun p _ => by rw [free]; exact List.count_append
    have parts := count_by_region s.regionOf bs b
    have before := congrArg (List.count b) chain
    rw [List.count_append] at before
    unfold State.placesOf
    rw [queue, List.count_append, poolSum]
    omega
  · rw [queue, List.mem_append] at hb
    rcases hb with hb | hb
    · exact h.shared b hb
    · simpa using (List.mem_filter.mp hb).2
  · rw [free] at hb
    rcases List.mem_append.mp hb with hb | hb
    · exact h.pools p b hb
    · simpa using (List.mem_filter.mp hb).2
  · rw [jobs] at hb ⊢
    split at hb
    · rename_i e
      rw [if_pos e]
      rcases pool with hp | hp
      · rw [hp]
        exact h.chains i b (by rw [chain]; exact List.mem_append_right _ hb)
      · rw [hp] at hb
        exact absurd hb List.not_mem_nil
    · rename_i e
      rw [if_neg e]
      exact h.chains k b hb
  · rw [jobs] at hk ⊢
    split at hk
    · rename_i e
      rw [if_pos e]
      exact bare hk
    · rename_i e
      rw [if_neg e]
      exact h.vacant k hk

end

end Sys2Proof.Machine
end

section
/-! PROOF. The accounting of credit (R31, R32, R37, R39): how an update of one job record changes it, and that a walk of the wait list keeps
it. -/

namespace Sys2Proof.Machine

/-- A job's granted units are its allocated blocks and its promise, there is none where its intake is closed, and its chain holds the
allocated blocks not released (R31, R41, R43). -/
structure Job.creditsAdd (j : Job) : Prop where
  granted : j.granted = j.allocated + j.promised + j.promisedShared
  closed : j.intakeOpen = false → j.promised = 0 ∧ j.promisedShared = 0
  chain : j.released + j.chain.length = j.allocated

/-- A job's spooled bytes take as many blocks as are allocated (R34). -/
def Job.storesFit (j : Job) : Prop := j.allocated = (j.spooled + 4095) / 4096

/-- `State.creditBacked` but for one job's spooled bytes and its place on the wait list. -/
structure State.backedBut (s : State) (i : Slot) : Prop where
  adds : ∀ k, (s.job k).creditsAdd
  stored : ∀ k, k ≠ i → (s.job k).storesFit
  pools : ∀ p, s.promiseTotal p ≤ (s.pool p).free.length
  shared : s.sharedTotal ≤ s.sharedFree.length
  nodup : s.waitList.Nodup
  waiting : ∀ k, k ≠ i → (k ∈ s.waitList ↔ s.due k = true)

section
variable {s t : State} {i : Slot} {j : Job}

theorem State.creditBacked.but (h : s.creditBacked) (i : Slot) : s.backedBut i :=
  ⟨fun k => ⟨h.granted k, h.closed k, h.chain k⟩, fun k _ => h.stored k, h.pools, h.shared, h.waiting.1, fun k _ => h.waiting.2 k⟩

theorem State.backedBut.whole (h : s.backedBut i) (stored : (s.job i).storesFit) (waiting : i ∈ s.waitList ↔ s.due i = true) :
    s.creditBacked where
  granted k := (h.adds k).granted
  closed k := (h.adds k).closed
  stored k := by
    by_cases e : k = i
    · rw [e]
      exact stored
    · exact h.stored k e
  chain k := (h.adds k).chain
  pools := h.pools
  shared := h.shared
  waiting := ⟨h.nodup, fun k => by
    by_cases e : k = i
    · rw [e]
      exact waiting
    · exact h.waiting k e⟩

theorem due_congr {k : Slot} (job : t.job k = s.job k) (marks : ∀ p, (t.pool p).refillMark = (s.pool p).refillMark) :
    t.due k = s.due k := by
  unfold State.due
  rw [job, marks]

theorem State.backedBut.update (h : s.backedBut i) (jobs : ∀ k, t.job k = if i = k then j else s.job k) (adds : j.creditsAdd)
    (marks : ∀ p, (t.pool p).refillMark = (s.pool p).refillMark)
    (pools : ∀ p, s.promiseTotal p + j.promisedIn p ≤ (t.pool p).free.length + (s.job i).promisedIn p)
    (shared : s.sharedTotal + j.sharedPart ≤ t.sharedFree.length + (s.job i).sharedPart)
    (nodup : t.waitList.Nodup) (wait : ∀ k, k ≠ i → (k ∈ t.waitList ↔ k ∈ s.waitList)) : t.backedBut i where
  adds k := by
    rw [jobs]
    split
    · exact adds
    · exact h.adds k
  stored k hk := by
    rw [jobs, if_neg (Ne.symm hk)]
    exact h.stored k hk
  pools p := by
    have total := sum_jobs_update (fun j => j.promisedIn p) jobs
    rw [← promiseTotal_sum, ← promiseTotal_sum] at total
    have := pools p
    omega
  shared := by
    have total := sum_jobs_update Job.sharedPart jobs
    rw [← sharedTotal_sum, ← sharedTotal_sum] at total
    omega
  nodup := nodup
  waiting k hk := by
    rw [wait k hk, due_congr ((jobs k).trans (if_neg (Ne.symm hk))) marks]
    exact h.waiting k hk

theorem refillMark_of_region {p q : Pool} (h : p.region = q.region) : p.refillMark = q.refillMark ∧ p.free = q.free ∧
    p.reserved = q.reserved ∧ p.allowance = q.allowance := by
  unfold Pool.region at h
  simp only [Prod.mk.injEq] at h
  obtain ⟨base, limit, free, allowance⟩ := h
  unfold Pool.refillMark Pool.reserved
  rw [base, limit, allowance]
  exact ⟨rfl, free, rfl, rfl⟩

/-- An update of one job that leaves its credit. -/
theorem State.creditBacked.job (h : s.creditBacked) (jobs : ∀ k, t.job k = if i = k then j else s.job k)
    (pools : ∀ p, (t.pool p).region = (s.pool p).region) (shared : t.sharedFree = s.sharedFree) (wait : t.waitList = s.waitList)
    (credit : j.credit = (s.job i).credit) (promised : ∀ p, j.promisedIn p = (s.job i).promisedIn p)
    (promisedShared : j.sharedPart = (s.job i).sharedPart) : t.creditBacked := by
  unfold Job.credit at credit
  simp only [Prod.mk.injEq] at credit
  obtain ⟨pool, intakeOpen, chain, granted, reservedPart, sharedPart, spooled, allocated, released⟩ := credit
  have self : t.job i = j := (jobs i).trans (if_pos rfl)
  have but := (h.but i).update jobs
    ⟨by rw [granted, allocated, reservedPart, sharedPart]; exact h.granted i,
      fun closed => by rw [reservedPart, sharedPart]; exact h.closed i (intakeOpen ▸ closed),
      by rw [released, chain, allocated]; exact h.chain i⟩ (fun p => (refillMark_of_region (pools p)).1)
    (fun p => by rw [(refillMark_of_region (pools p)).2.1, promised]; have := h.pools p; omega)
    (by rw [shared, promisedShared]; have := h.shared; omega) (by rw [wait]; exact h.waiting.1) (fun k _ => by rw [wait])
  refine but.whole ?_ ?_
  · rw [self, Job.storesFit, allocated, spooled]
    exact h.stored i
  · have outstanding : j.outstanding = (s.job i).outstanding := by rw [Job.outstanding, Job.outstanding, reservedPart, sharedPart]
    rw [wait, h.waiting.2, State.due, State.due, self, intakeOpen, outstanding, pool, (refillMark_of_region (pools _)).1]

theorem State.creditBacked.congr (h : s.creditBacked) (jobs : ∀ k, t.job k = s.job k)
    (pools : ∀ p, (t.pool p).region = (s.pool p).region) (shared : t.sharedFree = s.sharedFree) (wait : t.waitList = s.waitList) :
    t.creditBacked :=
  h.job (i := 0) (j := s.job 0) (fun k => by rw [jobs]; split <;> simp_all) pools shared wait rfl (fun _ => rfl) rfl

/-- What a FREE slot promises: nothing (R45). -/
theorem unpromised_of_free (hb : s.blocksApart) (h : s.creditBacked) (hf : (s.job i).state = .free) :
    (s.job i).promised = 0 ∧ (s.job i).promisedShared = 0 := h.closed i (hb.vacant i hf).2

/-! ## A walk -/

/-- What a visit of a walk grants is free and not promised (R39). -/
theorem grant_le {n a u v g r : Nat} (hg : g = min (n - a) (u + v)) (hr : r = min g u) : r ≤ u ∧ g - r ≤ v ∧ r ≤ g := by omega

theorem backedBut_granted (h : s.creditBacked) (ho : (s.job i).intakeOpen = true) {g r : Nat} (hg : s.grantSize i = g)
    (hr : min g (s.poolUnpromised (s.job i).pool) = r) (jobs : ∀ k, t.job k = if i = k then (s.job i).grant g r else s.job k)
    (pools : ∀ p, t.pool p = s.pool p) (shared : t.sharedFree = s.sharedFree) (nodup : t.waitList.Nodup)
    (wait : ∀ k, k ≠ i → (k ∈ t.waitList ↔ k ∈ s.waitList)) : t.backedBut i := by
  have grants := grant_le hg.symm hr.symm
  have fromPool : r = 0 ∨ s.promiseTotal (s.job i).pool + r ≤ (s.pool (s.job i).pool).free.length := by
    have := grants.1
    unfold State.poolUnpromised at this
    split at this
    · omega
    · omega
  have fromShared : g - r = 0 ∨ s.sharedTotal + (g - r) ≤ s.sharedFree.length := by
    have := grants.2.1
    unfold State.sharedUnpromised at this
    omega
  refine (h.but i).update jobs ⟨?_, fun closed => ?_, h.chain i⟩ (fun p => by rw [pools]) (fun p => ?_) ?_ nodup wait
  · have := h.granted i
    unfold Job.grant
    dsimp only
    omega
  · exact absurd (ho.symm.trans closed) (by decide)
  · rw [pools]
    have backed := h.pools p
    unfold Job.promisedIn Job.grant
    dsimp only
    split
    · rename_i e
      rw [Bool.and_eq_true, beq_iff_eq] at e
      rw [← e.2] at backed ⊢
      omega
    · omega
  · rw [shared]
    have backed := h.shared
    unfold Job.sharedPart Job.grant
    dsimp only
    split
    · omega
    · omega

/-- A visit of a walk to a job with open intake (R39, R40). -/
theorem creditBacked_grantTo (h : s.creditBacked) (ho : (s.job i).intakeOpen = true) : (s.grantTo i).creditBacked := by
  by_cases hz : s.grantSize i = 0
  · rw [grantTo_of_zero hz]
    exact h
  · rw [grantTo_of_pos rfl hz rfl]
    generalize hg : s.grantSize i = g
    generalize hr : min g (s.poolUnpromised (s.job i).pool) = r
    obtain ⟨t, ht⟩ : ∃ t, (s.notice (.credit i (s.job i).tag ((s.job i).granted + g))).setJob i ((s.job i).grant g r) = t := ⟨_, rfl⟩
    rw [ht]
    have jobs (k : Slot) : t.job k = if i = k then (s.job i).grant g r else s.job k := by
      rw [← ht, State.job_setJob, State.job_notice]
    have shared : t.sharedFree = s.sharedFree := by
      rw [← ht]
      exact congrArg (fun b => b.2.2.2.1) (books_notice (s := s) _)
    have wait : t.waitList = s.waitList := by
      rw [← ht]
      exact congrArg (fun b => b.2.2.2.2) (books_notice (s := s) _)
    have pools (p : PoolNo) : t.pool p = s.pool p := by
      rw [← ht]
      exact State.pool_notice ..
    have self : t.job i = (s.job i).grant g r := (jobs i).trans (if_pos rfl)
    have fits : (t.job i).storesFit := by
      rw [self]
      exact h.stored i
    have grown : t.due i = true → s.due i = true := by
      rw [due_iff, due_iff, self]
      unfold Job.grant Job.outstanding
      dsimp only
      rw [pools]
      exact fun ⟨ho, hm⟩ => ⟨ho, by omega⟩
    dsimp only
    split
    · rename_i due
      refine (backedBut_granted h ho hg hr jobs pools shared (by rw [wait]; exact h.waiting.1) (fun k _ => by rw [wait])).whole fits ?_
      rw [wait, h.waiting.2]
      exact ⟨fun _ => due, grown⟩
    · rename_i notDue
      refine (backedBut_granted (t := t.leaveWait i) h ho hg hr jobs pools shared ?_ fun k hk => ?_).whole fits ?_
      · exact (wait ▸ h.waiting.1 : t.waitList.Nodup).filter _
      · show k ∈ t.waitList.filter (· != i) ↔ _
        rw [List.mem_filter, wait]
        simp [hk]
      · show i ∈ t.waitList.filter (· != i) ↔ t.due i = true
        simp [notDue]

/-- Grants leave every job's intake (R39). -/
theorem intakeOpen_grantTo (k : Slot) : ((s.grantTo i).job k).intakeOpen = (s.job k).intakeOpen := by
  obtain ⟨g, p, q, h⟩ := job_grantTo (s := s) (i := i) k
  rw [h]
  rfl

theorem creditBacked_walk (h : s.creditBacked) : s.walk.creditBacked := by
  have visits (l : List Slot) : ∀ t : State, t.creditBacked → (∀ k ∈ l, (t.job k).intakeOpen = true) →
      (l.foldl State.grantTo t).creditBacked := by
    induction l with
    | nil => exact fun _ ht _ => ht
    | cons k rest ih =>
      intro t ht hl
      refine ih (t.grantTo k) (creditBacked_grantTo ht (hl k List.mem_cons_self)) fun m hm => ?_
      rw [intakeOpen_grantTo]
      exact hl m (List.mem_cons_of_mem _ hm)
  refine visits s.waitList s h fun k hk => ?_
  exact (due_iff.mp ((h.waiting.2 k).mp hk)).1

theorem blocksApart_walk (h : s.blocksApart) : s.walk.blocksApart := by
  obtain ⟨js, w, ns, drops, e⟩ := exists_walk_eq (s := s)
  have credit (k : Slot) : (s.walk.job k).chain = (s.job k).chain ∧ (s.walk.job k).pool = (s.job k).pool ∧
      (s.walk.job k).state = (s.job k).state ∧ (s.walk.job k).intakeOpen = (s.job k).intakeOpen := by
    obtain ⟨g, p, q, e⟩ := job_walk (s := s) k
    rw [e]
    exact ⟨rfl, rfl, rfl, rfl⟩
  have shared : s.walk.sharedFree = s.sharedFree := by rw [e]; rfl
  refine h.moves (fun p => by rw [pool_walk]; exact ⟨rfl, rfl⟩) (fun b => ?_) (fun b hb => ?_) (fun p b hb => ?_) (fun k b hb => ?_)
    fun k hk => ?_
  · unfold State.placesOf
    rw [shared, Finset.sum_congr rfl fun p _ => congrArg (fun r : Pool => r.free.count b) (pool_walk (s := s) p),
      Finset.sum_congr rfl fun k _ => congrArg (List.count b) (credit k).1]
  · rw [shared] at hb
    exact h.shared b hb
  · rw [pool_walk] at hb
    exact h.pools p b hb
  · rw [(credit k).1] at hb
    rw [(credit k).2.1]
    exact h.chains k b hb
  · rw [(credit k).2.2.1] at hk
    rw [(credit k).1, (credit k).2.2.2]
    exact h.vacant k hk

/-! ## Joining the wait list -/

theorem joinWait_leaves : (∀ k, (s.joinWait i).job k = s.job k) ∧ (∀ p, (s.joinWait i).pool p = s.pool p) ∧
    (s.joinWait i).sharedFree = s.sharedFree := by
  unfold State.joinWait
  split
  · exact ⟨fun _ => rfl, fun _ => rfl, rfl⟩
  · exact ⟨fun _ => rfl, fun _ => rfl, rfl⟩

/-- The wait list after a job joins it where it is due (R37). -/
theorem waitList_joinWait : (s.waitList.Nodup → (s.joinWait i).waitList.Nodup) ∧
    (∀ k, k ≠ i → (k ∈ (s.joinWait i).waitList ↔ k ∈ s.waitList)) ∧
    (i ∈ (s.joinWait i).waitList ↔ i ∈ s.waitList ∨ s.due i = true) := by
  unfold State.joinWait
  split
  · rename_i joins
    rw [Bool.and_eq_true, Bool.not_eq_true', List.contains_eq_mem, decide_eq_false_iff_not] at joins
    refine ⟨fun nodup => ?_, fun k hk => ?_, ?_⟩
    · rw [List.nodup_append]
      exact ⟨nodup, List.nodup_singleton i, fun a ha b hb e => joins.2 (by
        rw [List.mem_singleton] at hb
        rw [← hb, ← e]
        exact ha)⟩
    · simp [hk]
    · simp [joins.1]
  · rename_i stays
    refine ⟨id, fun _ _ => Iff.rfl, ?_⟩
    rw [Bool.and_eq_true, Bool.not_eq_true', List.contains_eq_mem, decide_eq_false_iff_not, not_and, not_not] at stays
    exact ⟨.inl, fun h => h.elim id stays⟩

/-- A job that has joined the wait list where it is due stands there as it should (R37). -/
theorem State.backedBut.joinWait (h : s.backedBut i) (stored : (s.job i).storesFit) (due : i ∈ s.waitList → s.due i = true) :
    (s.joinWait i).creditBacked := by
  obtain ⟨jobs, pools, shared⟩ := joinWait_leaves (s := s) (i := i)
  obtain ⟨nodup, others, self⟩ := waitList_joinWait (s := s) (i := i)
  have joined : (s.joinWait i).backedBut i := h.update (j := s.job i) (fun k => by rw [jobs]; split <;> simp_all) (h.adds i)
    (fun p => by rw [pools]) (fun p => by rw [pools]; have := h.pools p; omega) (by rw [shared]; have := h.shared; omega)
    (nodup h.nodup) others
  refine joined.whole (by rw [jobs]; exact stored) ?_
  rw [self, due_congr (jobs i) fun p => by rw [pools]]
  exact ⟨fun h => h.elim due id, .inr⟩

end

end Sys2Proof.Machine
end

section
/-! PROOF. The operations that move blocks and credit: the release pass, the closing of intake, a release, an accepted OPEN, the taking of
payload, a new allowance and a new reservation each keep the blocks apart (R25 to R27) and the credit accounted for (R31, R32, R37). -/

namespace Sys2Proof.Machine

section
variable {s t u : State} {i : Slot} {j : Job}

theorem refillMark_freeBlocks (bs : List Nat) (p : PoolNo) : ((s.freeBlocks bs).pool p).refillMark = (s.pool p).refillMark := by
  rw [(freeBlocks_queues bs).2 p]
  rfl

/-- Returned blocks leave no queue shorter (R27). -/
theorem freeBlocks_longer (bs : List Nat) : s.sharedFree.length ≤ (s.freeBlocks bs).sharedFree.length ∧
    ∀ p, (s.pool p).free.length ≤ ((s.freeBlocks bs).pool p).free.length := by
  obtain ⟨shared, pools⟩ := freeBlocks_queues (s := s) bs
  refine ⟨?_, fun p => ?_⟩
  · rw [shared, List.length_append]
    omega
  · rw [pools p, List.length_append]
    omega

/-- The queues after a return of blocks do not look at the jobs (R27). -/
theorem freeBlocks_setJob (bs : List Nat) : ((s.setJob i j).freeBlocks bs).sharedFree = (s.freeBlocks bs).sharedFree ∧
    ∀ p, ((s.setJob i j).freeBlocks bs).pool p = (s.freeBlocks bs).pool p := by
  obtain ⟨shared, pools⟩ := freeBlocks_queues (s := s) bs
  obtain ⟨shared', pools'⟩ := freeBlocks_queues (s := s.setJob i j) bs
  exact ⟨shared'.trans shared.symm, fun p => (pools' p).trans (pools p).symm⟩

/-! ## The release pass (R42 to R44) -/

theorem releasePass_blocks (h : s.blocksApart) {n : Nat} (hj : j.pool = (s.job i).pool ∧ j.state = (s.job i).state ∧
    j.intakeOpen = (s.job i).intakeOpen) (chain : j.chain = (s.job i).chain.drop n) :
    ((s.setJob i j).freeBlocks ((s.job i).chain.take n)).blocksApart := by
  obtain ⟨shared, pools⟩ := freeBlocks_setJob (s := s) (i := i) (j := j) ((s.job i).chain.take n)
  refine h.frees ((s.job i).chain.take n) (fun k => by rw [job_freeBlocks, State.job_setJob]) shared pools
    (by rw [chain, List.take_append_drop]) (.inl hj.1) fun hf => ?_
  obtain ⟨bare, closed⟩ := h.vacant i (hj.2.1 ▸ hf)
  exact ⟨by rw [chain, bare, List.drop_nil], hj.2.2.trans closed⟩

theorem releasePass_credit (h : s.creditBacked) {n : Nat} (hn : n ≤ (s.job i).chain.length) (released : j.released = (s.job i).released + n)
    (chain : j.chain = (s.job i).chain.drop n) (credit : ({ j with chain := (s.job i).chain, released := (s.job i).released } : Job).credit =
      (s.job i).credit) (state : j.state = (s.job i).state) :
    ((s.setJob i j).freeBlocks ((s.job i).chain.take n)).creditBacked := by
  obtain ⟨shared, pools⟩ := freeBlocks_setJob (s := s) (i := i) (j := j) ((s.job i).chain.take n)
  obtain ⟨longer, longerPools⟩ := freeBlocks_longer (s := s) ((s.job i).chain.take n)
  unfold Job.credit at credit
  simp only [Prod.mk.injEq, true_and, and_true] at credit
  obtain ⟨pool, intakeOpen, granted, reservedPart, sharedPart, spooled, allocated⟩ := credit
  have jobs (k : Slot) : ((s.setJob i j).freeBlocks ((s.job i).chain.take n)).job k = if i = k then j else s.job k := by
    rw [job_freeBlocks, State.job_setJob]
  have wait : ((s.setJob i j).freeBlocks ((s.job i).chain.take n)).waitList = s.waitList := waitList_freeBlocks _
  have promised (p : PoolNo) : j.promisedIn p = (s.job i).promisedIn p := by
    rw [Job.promisedIn, Job.promisedIn, state, pool, reservedPart]
  have promisedShared : j.sharedPart = (s.job i).sharedPart := by rw [Job.sharedPart, Job.sharedPart, state, sharedPart]
  have marks (p : PoolNo) : (((s.setJob i j).freeBlocks ((s.job i).chain.take n)).pool p).refillMark = (s.pool p).refillMark := by
    rw [pools, refillMark_freeBlocks]
  have self := (jobs i).trans (if_pos rfl)
  refine State.backedBut.whole ((h.but i).update jobs ⟨?_, fun closed => ?_, ?_⟩ marks (fun p => ?_) ?_ ?_ fun k _ => by rw [wait])
    ?_ ?_
  · rw [granted, allocated, reservedPart, sharedPart]
    exact h.granted i
  · rw [reservedPart, sharedPart]
    exact h.closed i (intakeOpen ▸ closed)
  · have := h.chain i
    rw [released, chain, allocated, List.length_drop]
    omega
  · have := h.pools p
    have := longerPools p
    rw [pools, promised]
    omega
  · have := h.shared
    rw [shared, promisedShared]
    omega
  · rw [wait]
    exact h.waiting.1
  · rw [self, Job.storesFit, allocated, spooled]
    exact h.stored i
  · have outstanding : j.outstanding = (s.job i).outstanding := by rw [Job.outstanding, Job.outstanding, reservedPart, sharedPart]
    rw [wait, h.waiting.2, State.due, State.due, self, intakeOpen, outstanding, pool, marks]

/-- A release pass frees the blocks behind the passed records, or does nothing; a walk may follow (R43). -/
theorem releasePass_cases {P : State → Prop} (hs : P s) (walks : ∀ t, P t → P t.walk)
    (freed : P ((s.setJob i (s.job i).afterPass).freeBlocks ((s.job i).chain.take (s.job i).passRecords.freeable))) :
    P (s.releasePass i) := by
  unfold State.releasePass
  split
  · dsimp only
    split
    · exact walks _ freed
    · exact freed
  · exact hs

theorem freeable_le (j : Job) : j.freeable ≤ j.chain.length := Nat.min_le_left _ _

theorem blocksApart_releasePass (h : s.blocksApart) : (s.releasePass i).blocksApart :=
  releasePass_cases h (fun _ => blocksApart_walk) (releasePass_blocks h ⟨rfl, rfl, rfl⟩ rfl)

theorem creditBacked_releasePass (h : s.creditBacked) : (s.releasePass i).creditBacked :=
  releasePass_cases h (fun _ => creditBacked_walk) (releasePass_credit h (freeable_le _) rfl rfl rfl rfl)

/-! ## The closing of intake (R41) -/

/-- A job whose intake closes: its promise is returned (R41). -/
def Job.intakeClosed (j : Job) : Job := { j with intakeOpen := false, granted := j.allocated, promised := 0, promisedShared := 0 }

/-- The state when a job's intake has closed, before the walk. -/
def State.closing (s : State) (i : Slot) : State := (s.setJob i (s.job i).intakeClosed).leaveWait i

theorem closing_cases {P : State → Prop} (walks : ∀ t, P t → P t.walk) (closing : P (s.closing i)) :
    P ((s.modJob i fun j => { j with intakeOpen := false }).returnPromise i) := by
  have returned : ((s.modJob i fun j => { j with intakeOpen := false }).modJob i fun j =>
      { j with granted := j.allocated, promised := 0, promisedShared := 0 }).leaveWait i = s.closing i := by
    rw [State.modJob, State.modJob, setJob_setJob, State.job_setJob_self]
    rfl
  unfold State.returnPromise
  rw [returned]
  split
  · exact walks _ closing
  · exact closing

theorem job_closing (k : Slot) : (s.closing i).job k = if i = k then (s.job i).intakeClosed else s.job k := State.job_setJob ..

theorem mem_leaveWait (k : Slot) : k ∈ (s.leaveWait i).waitList ↔ k ∈ s.waitList ∧ k ≠ i := by
  unfold State.leaveWait
  rw [List.mem_filter, bne_iff_ne]

/-- A job that is not due has left the wait list (R37). -/
theorem leaveWait_others {k : Slot} (hk : k ≠ i) : k ∈ (s.leaveWait i).waitList ↔ k ∈ s.waitList := by
  rw [mem_leaveWait]
  exact ⟨And.left, fun h => ⟨h, hk⟩⟩

theorem blocksApart_closing (h : s.blocksApart) : (s.closing i).blocksApart :=
  h.job job_closing (fun _ => rfl) rfl rfl (.inl rfl) fun hf => ⟨(h.vacant i hf).1, rfl⟩

theorem creditBacked_closing (h : s.creditBacked) : (s.closing i).creditBacked := by
  have self : (s.closing i).job i = (s.job i).intakeClosed := (job_closing i).trans (if_pos rfl)
  have closed : (s.closing i).due i = false := by
    rw [State.due, self]
    rfl
  refine State.backedBut.whole ((h.but i).update job_closing ⟨rfl, fun _ => ⟨rfl, rfl⟩, h.chain i⟩ (fun _ => rfl) (fun p => ?_) ?_
    (h.waiting.1.filter _) fun k hk => leaveWait_others (s := s.setJob i (s.job i).intakeClosed) hk) ?_ ?_
  · have none : (s.job i).intakeClosed.promisedIn p = 0 := by
      unfold Job.promisedIn Job.intakeClosed
      split <;> rfl
    have : s.promiseTotal p ≤ ((s.closing i).pool p).free.length := h.pools p
    omega
  · have none : (s.job i).intakeClosed.sharedPart = 0 := by
      unfold Job.sharedPart Job.intakeClosed
      split <;> rfl
    have : s.sharedTotal ≤ (s.closing i).sharedFree.length := h.shared
    omega
  · rw [self]
    exact h.stored i
  · rw [closed]
    exact ⟨fun hi => absurd rfl ((mem_leaveWait (s := s.setJob i (s.job i).intakeClosed) i).mp hi).2, nofun⟩

/-! ## A release (R45, R68) -/

theorem vacates_queues : (∀ k, (s.vacates i).job k = if i = k then Job.vacant else s.job k) ∧
    (s.vacates i).sharedFree = (s.freeBlocks (s.job i).chain).sharedFree ∧
    (∀ p, (s.vacates i).pool p = (s.freeBlocks (s.job i).chain).pool p) ∧
    (s.vacates i).waitList = (s.leaveWait i).waitList := by
  refine ⟨fun k => ?_, rfl, fun _ => rfl, ?_⟩
  · unfold State.vacates
    rw [State.job_setJob]
    split
    · rfl
    · exact job_freeBlocks ..
  · show (s.freeBlocks (s.job i).chain).waitList.filter (· != i) = _
    rw [waitList_freeBlocks]
    rfl

theorem blocksApart_vacates (h : s.blocksApart) : (s.vacates i).blocksApart := by
  obtain ⟨jobs, shared, pools, -⟩ := vacates_queues (s := s) (i := i)
  exact h.frees (s.job i).chain jobs shared pools (List.append_nil _).symm (.inr rfl) fun _ => ⟨rfl, rfl⟩

theorem creditBacked_vacates (h : s.creditBacked) : (s.vacates i).creditBacked := by
  obtain ⟨jobs, shared, pools, wait⟩ := vacates_queues (s := s) (i := i)
  obtain ⟨longer, longerPools⟩ := freeBlocks_longer (s := s) (s.job i).chain
  have self : (s.vacates i).job i = Job.vacant := (jobs i).trans (if_pos rfl)
  have notDue : (s.vacates i).due i = false := by
    rw [State.due, self]
    rfl
  refine State.backedBut.whole ((h.but i).update jobs ⟨rfl, fun _ => ⟨rfl, rfl⟩, rfl⟩ (fun p => by rw [pools, refillMark_freeBlocks])
    (fun p => ?_) ?_ (by rw [wait]; exact h.waiting.1.filter _) fun k hk => by rw [wait]; exact leaveWait_others hk) ?_ ?_
  · have := h.pools p
    have := longerPools p
    rw [pools, show Job.vacant.promisedIn p = 0 from rfl]
    omega
  · have := h.shared
    rw [shared, show Job.vacant.sharedPart = 0 from rfl]
    omega
  · rw [self]
    rfl
  · rw [wait, notDue]
    exact ⟨fun hi => absurd rfl ((mem_leaveWait i).mp hi).2, nofun⟩

/-! ## An accepted OPEN (R4, R31) -/

/-- A record as an OPEN fills it has no block and no credit (R31, R47). -/
def Job.isFresh (j : Job) : Prop := j.state ≠ .free ∧ j.chain = [] ∧ j.granted = 0 ∧ j.allocated = 0 ∧ j.promised = 0 ∧
  j.promisedShared = 0 ∧ j.spooled = 0 ∧ j.released = 0

/-- The state with a new record in a slot, in its class and in the cache, before the job joins the wait list. -/
def State.entersJob (s : State) (i : Slot) (j : Job) : State := ((s.setJob i j).fillCache j.tag i).joinTail i

theorem entersJob_leaves : (∀ k, (s.entersJob i j).job k = if i = k then j else s.job k) ∧
    (∀ p, ((s.entersJob i j).pool p).region = (s.pool p).region) ∧ (s.entersJob i j).sharedFree = s.sharedFree ∧
    (s.entersJob i j).waitList = s.waitList := by
  refine ⟨fun k => State.job_setJob .., fun p => ?_, rfl, rfl⟩
  show (State.pool (State.setPool _ _ _) p).region = _
  rw [State.pool_setPool]
  split
  · rename_i e
    rw [← e]
    rfl
  · rfl

theorem blocksApart_takesOpen (h : s.blocksApart) (hf : (s.job i).state = .free) (fresh : j.isFresh) :
    (s.takesOpen i j).blocksApart := by
  obtain ⟨live, chain, -⟩ := fresh
  obtain ⟨jobs, pools, shared, -⟩ := entersJob_leaves (s := s) (i := i) (j := j)
  obtain ⟨jobs', pools', shared'⟩ := joinWait_leaves (s := s.entersJob i j) (i := i)
  exact h.job (fun k => (jobs' k).trans (jobs k)) (fun p => (congrArg Pool.region (pools' p)).trans (pools p)) (shared'.trans shared)
    (chain.trans (h.vacant i hf).1.symm) (.inr chain) fun h => absurd h live

theorem creditBacked_takesOpen (hb : s.blocksApart) (h : s.creditBacked) (hf : (s.job i).state = .free) (fresh : j.isFresh) :
    (s.takesOpen i j).creditBacked := by
  obtain ⟨-, chain, granted, allocated, promised, promisedShared, spooled, released⟩ := fresh
  obtain ⟨jobs, pools, shared, wait⟩ := entersJob_leaves (s := s) (i := i) (j := j)
  have bare := unpromised_of_free hb h hf
  have notWaiting : i ∉ s.waitList := by
    rw [h.waiting.2, due_iff, (hb.vacant i hf).2]
    exact fun h => Bool.false_ne_true h.1
  have entered : (s.entersJob i j).backedBut i := by
    refine (h.but i).update jobs ⟨?_, fun _ => ⟨promised, promisedShared⟩, ?_⟩ (fun p => (refillMark_of_region (pools p)).1)
      (fun p => ?_) ?_ (by rw [wait]; exact h.waiting.1) fun k _ => by rw [wait]
    · rw [granted, allocated, promised, promisedShared]
    · rw [released, chain, allocated]
      rfl
    · have := h.pools p
      rw [(refillMark_of_region (pools p)).2.1, show j.promisedIn p = 0 by rw [Job.promisedIn, promised]; split <;> rfl]
      omega
    · have := h.shared
      rw [shared, show j.sharedPart = 0 by rw [Job.sharedPart, promisedShared]; split <;> rfl]
      omega
  refine entered.joinWait ?_ fun hi => absurd (wait ▸ hi) notWaiting
  rw [jobs, if_pos rfl, Job.storesFit, allocated, spooled]

end

end Sys2Proof.Machine
end

section
/-! PROOF. The taking of payload (R34, R35) and a new allowance (R30) keep the blocks apart and the credit accounted for. -/

namespace Sys2Proof.Machine

section
variable {s t : State} {i : Slot} {j : Job} {b : Nat}

/-! ## An allocation (R34) -/

/-- A job's record with a block more, from its pool's region or from the shared one (R34). -/
def Job.allotted (j : Job) (b : Nat) (reserved : Bool) : Job :=
  { j with
    promised := if reserved then j.promised - 1 else j.promised
    promisedShared := if reserved then j.promisedShared else j.promisedShared - 1
    chain := j.chain ++ [b], allocated := j.allocated + 1 }

/-- A pool with another free queue. -/
def Pool.withFree (r : Pool) (free : List Nat) : Pool := { r with free := free }

/-- The state with a block taken from a job's pool's queue. -/
def State.takesReserved (s : State) (i : Slot) (b : Nat) (rest : List Nat) : State :=
  (s.setPool (s.job i).pool ((s.pool (s.job i).pool).withFree rest)).setJob i ((s.job i).allotted b true)

/-- The state with a block taken from the shared queue. -/
def State.takesShared (s : State) (i : Slot) (b : Nat) (rest : List Nat) : State :=
  ({ s with sharedFree := rest }).setJob i ((s.job i).allotted b false)

/-- An allocation takes the head of the queue that the job's promise names, if there is one (R34). -/
theorem allocate_cases {P : State → Prop}
    (reserved : ∀ b rest, 0 < (s.job i).promised → (s.pool (s.job i).pool).free = b :: rest → P (s.takesReserved i b rest))
    (shared : ∀ b rest, (s.job i).promised = 0 → s.sharedFree = b :: rest → P (s.takesShared i b rest))
    (none : (0 < (s.job i).promised ∧ (s.pool (s.job i).pool).free = [] ∨ (s.job i).promised = 0 ∧ s.sharedFree = []) → P s) :
    P (s.allocate i) := by
  unfold State.allocate
  split
  · rename_i hp
    split
    · rename_i b rest hq
      exact reserved b rest hp hq
    · rename_i hq
      exact none (.inl ⟨hp, hq⟩)
  · rename_i hp
    split
    · rename_i b rest hq
      exact shared b rest (by omega) hq
    · rename_i hq
      exact none (.inr ⟨by omega, hq⟩)

theorem job_takesReserved (rest : List Nat) (k : Slot) :
    (s.takesReserved i b rest).job k = if i = k then (s.job i).allotted b true else s.job k := State.job_setJob ..

theorem job_takesShared (rest : List Nat) (k : Slot) :
    (s.takesShared i b rest).job k = if i = k then (s.job i).allotted b false else s.job k := State.job_setJob ..

theorem pool_takesReserved (rest : List Nat) (p : PoolNo) : (s.takesReserved i b rest).pool p =
    if (s.job i).pool = p then (s.pool (s.job i).pool).withFree rest else s.pool p :=
  State.pool_setPool (s := s) ..

/-- A block that leaves a free queue for the end of a live job's chain (R27). -/
theorem State.blocksApart.takes (h : s.blocksApart) (live : (s.job i).state ≠ .free) {reserved : Bool}
    (jobs : ∀ k, t.job k = if i = k then (s.job i).allotted b reserved else s.job k)
    (reservations : ∀ p, (t.pool p).base = (s.pool p).base ∧ (t.pool p).limit = (s.pool p).limit)
    (queues : ∀ c, t.sharedFree.count c + ∑ p : PoolNo, (t.pool p).free.count c + [b].count c =
      s.sharedFree.count c + ∑ p : PoolNo, (s.pool p).free.count c)
    (shared : t.sharedFree ⊆ s.sharedFree) (pools : ∀ p, (t.pool p).free ⊆ (s.pool p).free)
    (own : s.regionOf b = none ∨ s.regionOf b = some (s.job i).pool) : t.blocksApart := by
  refine h.moves reservations (fun c => ?_) (fun c hc => h.shared c (shared hc)) (fun p c hc => h.pools p c (pools p hc)) (fun k c hc => ?_)
    fun k hk => ?_
  · have chains := sum_jobs_update (fun j => j.chain.count c) jobs
    have longer : ((s.job i).allotted b reserved).chain.count c = (s.job i).chain.count c + [b].count c := List.count_append
    have := queues c
    unfold State.placesOf
    omega
  · rw [jobs] at hc ⊢
    split at hc
    · rename_i e
      rw [if_pos e]
      rcases List.mem_append.mp hc with hc | hc
      · exact h.chains i c hc
      · rw [List.mem_singleton.mp hc]
        exact own
    · rename_i e
      rw [if_neg e]
      exact h.chains k c hc
  · rw [jobs] at hk ⊢
    split at hk
    · exact absurd hk live
    · rename_i e
      rw [if_neg e]
      exact h.vacant k hk

theorem blocksApart_allocate (h : s.blocksApart) (live : (s.job i).state ≠ .free) : (s.allocate i).blocksApart := by
  refine allocate_cases (fun b rest _ hq => ?_) (fun b rest _ hq => ?_) fun _ => h
  · have pools := pool_takesReserved (s := s) (i := i) (b := b) rest
    have kept (p : PoolNo) : (s.takesReserved i b rest).pool p = s.pool p ∨
        (s.job i).pool = p ∧ (s.takesReserved i b rest).pool p = (s.pool p).withFree rest := by
      rw [pools]
      split
      · rename_i e
        exact .inr ⟨e, by rw [e]⟩
      · exact .inl rfl
    refine h.takes live (job_takesReserved rest) (fun p => ?_) (fun c => ?_) (fun _ hc => hc) (fun p c hc => ?_)
      (.inr (h.pools _ b (by rw [hq]; exact List.mem_cons_self)))
    · rcases kept p with e | ⟨-, e⟩
      · rw [e]
        exact ⟨rfl, rfl⟩
      · rw [e]
        exact ⟨rfl, rfl⟩
    · have total : ∑ p : PoolNo, ((s.takesReserved i b rest).pool p).free.count c + (s.pool (s.job i).pool).free.count c =
          ∑ p : PoolNo, (s.pool p).free.count c + rest.count c := by
        have self : ((s.takesReserved i b rest).pool (s.job i).pool).free = rest := by
          rw [pools, if_pos rfl]
          rfl
        conv_rhs => rw [← self]
        refine sum_add_eq (f := fun p => ((s.takesReserved i b rest).pool p).free.count c) (g := fun p => (s.pool p).free.count c)
          (s.job i).pool fun p hp => ?_
        rw [pools, if_neg (Ne.symm hp)]
      rw [hq, show b :: rest = [b] ++ rest from rfl, List.count_append] at total
      show s.sharedFree.count c + ∑ p : PoolNo, ((s.takesReserved i b rest).pool p).free.count c + _ = _
      omega
    · rcases kept p with e | ⟨e', e⟩
      · rw [e] at hc
        exact hc
      · rw [e] at hc
        rw [← e', hq]
        exact List.mem_cons_of_mem b hc
  · refine h.takes live (job_takesShared rest) (fun _ => ⟨rfl, rfl⟩) (fun c => ?_) (fun c hc => ?_) (fun _ _ hc => hc)
      (.inl (h.shared b (by rw [hq]; exact List.mem_cons_self)))
    · rw [hq, show b :: rest = [b] ++ rest from rfl, List.count_append]
      show rest.count c + ∑ p : PoolNo, (s.pool p).free.count c + _ = _
      omega
    · rw [hq]
      exact List.mem_cons_of_mem b hc

theorem state_allocate : ((s.allocate i).job i).state = (s.job i).state := by
  refine allocate_cases (P := fun t => (t.job i).state = (s.job i).state) (fun _ rest _ _ => ?_) (fun _ rest _ _ => ?_) fun _ => rfl
  · rw [job_takesReserved, if_pos rfl]
    rfl
  · rw [job_takesShared, if_pos rfl]
    rfl

theorem blocksApart_allocateMany (n : Nat) (h : s.blocksApart) (live : (s.job i).state ≠ .free) :
    (State.allocateMany n s i).blocksApart ∧ ((State.allocateMany n s i).job i).state = (s.job i).state := by
  induction n generalizing s with
  | zero => exact ⟨h, rfl⟩
  | succ n ih =>
    have state := state_allocate (s := s) (i := i)
    obtain ⟨apart, kept⟩ := ih (blocksApart_allocate h live) (by rw [state]; exact live)
    exact ⟨apart, kept.trans state⟩

/-! ## What allocations leave of the credit (R31, R34) -/

/-- The state `t` after `n` blocks have been allocated to a job of `s` that were promised to it. -/
structure State.Allocates (s t : State) (i : Slot) (n : Nat) : Prop where
  allocated : (t.job i).allocated = (s.job i).allocated + n
  outstanding : (t.job i).outstanding + n = (s.job i).outstanding
  kept : (t.job i).state = (s.job i).state ∧ (t.job i).pool = (s.job i).pool ∧ (t.job i).intakeOpen = (s.job i).intakeOpen ∧
    (t.job i).spooled = (s.job i).spooled
  wait : t.waitList = s.waitList
  marks : ∀ p, (t.pool p).refillMark = (s.pool p).refillMark

theorem promised_le_total {p : PoolNo} : (s.job i).promisedIn p ≤ s.promiseTotal p := by
  rw [promiseTotal_sum]
  exact Finset.single_le_sum (f := fun k => (s.job k).promisedIn p) (fun _ _ => Nat.zero_le _) (Finset.mem_univ i)

theorem sharedPart_le_total : (s.job i).sharedPart ≤ s.sharedTotal := by
  rw [sharedTotal_sum]
  exact Finset.single_le_sum (f := fun k => (s.job k).sharedPart) (fun _ _ => Nat.zero_le _) (Finset.mem_univ i)

theorem promisedIn_of_live (live : j.state ≠ .free) : j.promisedIn j.pool = j.promised ∧ j.sharedPart = j.promisedShared := by
  unfold Job.promisedIn Job.sharedPart
  simp [live]

theorem creditsAdd_allotted (h : j.creditsAdd) {reserved : Bool}
    (hp : if reserved = true then 0 < j.promised else 0 < j.promisedShared) : (j.allotted b reserved).creditsAdd := by
  obtain ⟨granted, closed, chain⟩ := h
  have longer : (j.allotted b reserved).released + (j.allotted b reserved).chain.length = (j.allotted b reserved).allocated := by
    show j.released + (j.chain ++ [b]).length = j.allocated + 1
    rw [List.length_append, List.length_singleton]
    omega
  cases reserved with
  | true =>
    rw [if_pos rfl] at hp
    refine ⟨?_, fun hc => absurd (closed hc).1 (by omega), longer⟩
    show j.granted = j.allocated + 1 + (j.promised - 1) + j.promisedShared
    omega
  | false =>
    rw [if_neg (by decide)] at hp
    refine ⟨?_, fun hc => absurd (closed hc).2 (by omega), longer⟩
    show j.granted = j.allocated + 1 + j.promised + (j.promisedShared - 1)
    omega

theorem promisedIn_of_live_in (live : j.state ≠ .free) (p : PoolNo) : j.promisedIn p = if j.pool = p then j.promised else 0 := by
  unfold Job.promisedIn
  simp [live]

theorem promisedIn_allotted (live : j.state ≠ .free) (p : PoolNo) :
    (j.allotted b true).promisedIn p = if j.pool = p then j.promised - 1 else 0 :=
  promisedIn_of_live_in (j := j.allotted b true) live p

theorem allocates_takesReserved (h : s.backedBut i) (live : (s.job i).state ≠ .free) (hp : 0 < (s.job i).promised) {rest : List Nat}
    (hq : (s.pool (s.job i).pool).free = b :: rest) :
    (s.takesReserved i b rest).backedBut i ∧ s.Allocates (s.takesReserved i b rest) i 1 := by
  have jobs := job_takesReserved (s := s) (i := i) (b := b) rest
  have pools := pool_takesReserved (s := s) (i := i) (b := b) rest
  have self : (s.takesReserved i b rest).job i = (s.job i).allotted b true := (jobs i).trans (if_pos rfl)
  have marks (p : PoolNo) : ((s.takesReserved i b rest).pool p).refillMark = (s.pool p).refillMark := by
    rw [pools]
    split
    · rename_i e
      rw [← e]
      rfl
    · rfl
  refine ⟨h.update jobs (creditsAdd_allotted (h.adds i) hp) marks (fun p => ?_) ?_ h.nodup fun _ _ => Iff.rfl,
    by rw [self]; rfl, ?_, by rw [self]; exact ⟨rfl, rfl, rfl, rfl⟩, rfl, marks⟩
  · have backed := h.pools p
    rw [promisedIn_allotted live, promisedIn_of_live_in live, pools]
    split
    · rename_i e
      rw [← e, hq, List.length_cons] at backed
      rw [← e]
      show _ ≤ rest.length + _
      omega
    · omega
  · have : s.sharedTotal ≤ (s.takesReserved i b rest).sharedFree.length := h.shared
    have : ((s.job i).allotted b true).sharedPart = (s.job i).sharedPart := rfl
    omega
  · rw [self]
    show (s.job i).promised - 1 + (s.job i).promisedShared + 1 = (s.job i).promised + (s.job i).promisedShared
    omega

theorem allocates_takesShared (h : s.backedBut i) (live : (s.job i).state ≠ .free) (hp : 0 < (s.job i).promisedShared) {rest : List Nat}
    (hq : s.sharedFree = b :: rest) : (s.takesShared i b rest).backedBut i ∧ s.Allocates (s.takesShared i b rest) i 1 := by
  have jobs := job_takesShared (s := s) (i := i) (b := b) rest
  have self : (s.takesShared i b rest).job i = (s.job i).allotted b false := (jobs i).trans (if_pos rfl)
  refine ⟨h.update jobs (creditsAdd_allotted (h.adds i) hp) (fun _ => rfl) (fun p => ?_) ?_ h.nodup fun _ _ => Iff.rfl,
    by rw [self]; rfl, ?_, by rw [self]; exact ⟨rfl, rfl, rfl, rfl⟩, rfl, fun _ => rfl⟩
  · have : s.promiseTotal p ≤ ((s.takesShared i b rest).pool p).free.length := h.pools p
    have : ((s.job i).allotted b false).promisedIn p = (s.job i).promisedIn p := rfl
    omega
  · have backed := h.shared
    have part : ((s.job i).allotted b false).sharedPart = (s.job i).promisedShared - 1 :=
      (promisedIn_of_live (j := (s.job i).allotted b false) live).2
    rw [hq, List.length_cons] at backed
    rw [part, (promisedIn_of_live live).2]
    show _ ≤ rest.length + _
    omega
  · rw [self]
    show (s.job i).promised + ((s.job i).promisedShared - 1) + 1 = (s.job i).promised + (s.job i).promisedShared
    omega

/-- A promised block is there to be allocated (R32, R34). -/
theorem allocates_allocate (h : s.backedBut i) (live : (s.job i).state ≠ .free) (ho : 0 < (s.job i).outstanding) :
    (s.allocate i).backedBut i ∧ s.Allocates (s.allocate i) i 1 := by
  refine allocate_cases (P := fun t => t.backedBut i ∧ s.Allocates t i 1) (fun b rest hp hq => allocates_takesReserved h live hp hq)
    (fun b rest hp hq => allocates_takesShared h live ?_ hq) fun none => ?_
  · unfold Job.outstanding at ho
    omega
  · obtain ⟨reserved, shared⟩ := promisedIn_of_live live
    unfold Job.outstanding at ho
    rcases none with ⟨hp, hq⟩ | ⟨hp, hq⟩
    · have backed := (promised_le_total (i := i)).trans (h.pools (s.job i).pool)
      rw [hq, reserved, List.length_nil] at backed
      omega
    · have backed := (sharedPart_le_total (i := i)).trans h.shared
      rw [hq, shared, List.length_nil] at backed
      omega

theorem allocates_allocateMany (n : Nat) (h : s.backedBut i) (live : (s.job i).state ≠ .free) (ho : n ≤ (s.job i).outstanding) :
    (State.allocateMany n s i).backedBut i ∧ s.Allocates (State.allocateMany n s i) i n := by
  induction n generalizing s with
  | zero => exact ⟨h, rfl, rfl, ⟨rfl, rfl, rfl, rfl⟩, rfl, fun _ => rfl⟩
  | succ n ih =>
    obtain ⟨but, one⟩ := allocates_allocate h live (by omega)
    have left := one.outstanding
    obtain ⟨but', more⟩ := ih but (by rw [one.kept.1]; exact live) (by omega)
    obtain ⟨state, pool, intake, spooled⟩ := more.kept
    obtain ⟨state', pool', intake', spooled'⟩ := one.kept
    refine ⟨but', ?_, ?_, ⟨state.trans state', pool.trans pool', intake.trans intake', spooled.trans spooled'⟩, more.wait.trans one.wait,
      fun p => (more.marks p).trans (one.marks p)⟩
    · have := more.allocated
      have := one.allocated
      show ((State.allocateMany n (s.allocate i) i).job i).allocated = _
      omega
    · have := more.outstanding
      show ((State.allocateMany n (s.allocate i) i).job i).outstanding + _ = _
      omega

/-! ## Taking payload (R35) -/

/-- A job's record with payload stored (R21, R35). -/
def Job.holdingPayload (j : Job) (n : Nat) : Job :=
  { j with spooled := j.spooled + n, records := modLast (fun r => r.receive n (j.placeOf j.spooled)) j.records }

theorem storesPayload_leaves (payload : List Byte) {t : State}
    (ht : State.allocateMany ((s.job i).blocksFor payload.length) s i = t) :
    (∀ k, (s.storesPayload i payload).job k = if i = k then (t.job i).holdingPayload payload.length else t.job k) ∧
      (∀ p, (s.storesPayload i payload).pool p = t.pool p) ∧ (s.storesPayload i payload).sharedFree = t.sharedFree ∧
      (s.storesPayload i payload).waitList = t.waitList := by
  subst ht
  exact ⟨fun _ => State.job_setJob .., fun _ => rfl, rfl, rfl⟩

theorem blocksApart_takesPayload (h : s.blocksApart) (ho : (s.job i).intakeOpen = true) (payload : List Byte) :
    (s.takesPayload i payload).blocksApart := by
  have live : (s.job i).state ≠ .free := fun hf => by
    rw [(h.vacant i hf).2] at ho
    cases ho
  obtain ⟨apart, state⟩ := blocksApart_allocateMany ((s.job i).blocksFor payload.length) h live
  obtain ⟨jobs, pools, shared, -⟩ := storesPayload_leaves (s := s) (i := i) payload rfl
  have stored : (s.storesPayload i payload).blocksApart := by
    refine apart.job jobs (fun p => by rw [pools]) shared rfl (.inl rfl) fun hf => absurd hf ?_
    show (State.job _ i).state ≠ .free
    rw [state]
    exact live
  unfold State.takesPayload
  split
  · obtain ⟨jobs', pools', shared'⟩ := joinWait_leaves (s := s.storesPayload i payload) (i := i)
    exact stored.congr jobs' (fun p => by rw [pools']) shared'
  · exact stored

theorem creditBacked_takesPayload (hb : s.blocksApart) (h : s.creditBacked) (ho : (s.job i).intakeOpen = true) (payload : List Byte)
    (hc : (s.job i).withinCredit payload.length = true) : (s.takesPayload i payload).creditBacked := by
  have live : (s.job i).state ≠ .free := fun hf => by
    rw [(hb.vacant i hf).2] at ho
    cases ho
  obtain ⟨n, hn⟩ : ∃ n, (s.job i).blocksFor payload.length = n := ⟨_, rfl⟩
  have granted := h.granted i
  have before := h.stored i
  have needed := hn
  unfold Job.withinCredit at hc
  unfold Job.blocksFor at needed
  simp only [Config.blockBytes, decide_eq_true_eq] at hc needed
  have promised : n ≤ (s.job i).outstanding := by
    unfold Job.outstanding
    omega
  obtain ⟨but, allocates⟩ := allocates_allocateMany n (h.but i) live promised
  obtain ⟨jobs, pools, shared, wait⟩ := storesPayload_leaves (s := s) (i := i) payload rfl
  rw [hn] at jobs pools shared wait
  obtain ⟨t, ht⟩ : ∃ t, State.allocateMany n s i = t := ⟨_, rfl⟩
  rw [ht] at but allocates jobs pools shared wait
  have self : (s.storesPayload i payload).job i = (t.job i).holdingPayload payload.length := (jobs i).trans (if_pos rfl)
  have stored : (s.storesPayload i payload).backedBut i := by
    refine but.update jobs ⟨(but.adds i).granted, (but.adds i).closed, (but.adds i).chain⟩ (fun p => by rw [pools]) (fun p => ?_) ?_
      (by rw [wait]; exact but.nodup) fun k _ => by rw [wait]
    · rw [pools]
      have := but.pools p
      have : ((t.job i).holdingPayload payload.length).promisedIn p = (t.job i).promisedIn p := rfl
      omega
    · rw [shared]
      have := but.shared
      have : ((t.job i).holdingPayload payload.length).sharedPart = (t.job i).sharedPart := rfl
      omega
  have fits : ((s.storesPayload i payload).job i).storesFit := by
    rw [self]
    show (t.job i).allocated = ((t.job i).spooled + payload.length + 4095) / 4096
    rw [allocates.allocated, allocates.kept.2.2.2]
    omega
  have due : (s.storesPayload i payload).due i = true ↔ (t.job i).outstanding < (s.pool (s.job i).pool).refillMark := by
    rw [due_iff, self, pools]
    show (t.job i).intakeOpen = true ∧ (t.job i).outstanding < (t.pool (t.job i).pool).refillMark ↔ _
    rw [allocates.kept.2.2.1, allocates.kept.2.1, allocates.marks, ho]
    exact ⟨And.right, fun h => ⟨rfl, h⟩⟩
  have left := allocates.outstanding
  have wasDue : i ∈ s.waitList ↔ (s.job i).outstanding < (s.pool (s.job i).pool).refillMark := by
    rw [h.waiting.2, due_iff, ho]
    exact ⟨And.right, fun h => ⟨rfl, h⟩⟩
  unfold State.takesPayload
  rw [hn]
  split
  · refine stored.joinWait fits fun hi => ?_
    rw [wait, allocates.wait, wasDue] at hi
    rw [due]
    omega
  · refine stored.whole fits ?_
    rw [wait, allocates.wait, wasDue, due]
    omega

/-! ## A new allowance (R30) -/

/-- What following the mark does to one job's place on the wait list (R30). -/
theorem followMark_eq (p : PoolNo) (k : Slot) : ∃ w, s.followMark p k = { s with waitList := w } ∧ (s.waitList.Nodup → w.Nodup) ∧
    (∀ m, m ≠ k → (m ∈ w ↔ m ∈ s.waitList)) ∧
    (k ∈ w ↔ if (s.job k).intakeOpen = true ∧ (s.job k).pool = p then s.due k = true else k ∈ s.waitList) := by
  unfold State.followMark
  simp only [Bool.and_eq_true, beq_iff_eq]
  by_cases follows : (s.job k).intakeOpen = true ∧ (s.job k).pool = p
  · rw [if_pos follows, if_pos follows]
    split
    · rename_i due
      obtain ⟨nodup, others, self⟩ := waitList_joinWait (s := s) (i := k)
      refine ⟨(s.joinWait k).waitList, ?_, nodup, others, self.trans ⟨fun _ => due, .inr⟩⟩
      unfold State.joinWait
      split <;> rfl
    · rename_i notDue
      refine ⟨(s.leaveWait k).waitList, rfl, fun nodup => nodup.filter _, fun m hm => leaveWait_others hm, ?_⟩
      rw [mem_leaveWait]
      exact ⟨fun hk => absurd rfl hk.2, fun due => absurd due notDue⟩
  · rw [if_neg follows, if_neg follows]
    exact ⟨s.waitList, rfl, id, fun _ _ => Iff.rfl, Iff.rfl⟩

/-- The wait list after the jobs of a list have followed the mark (R30). -/
theorem foldl_followMark (p : PoolNo) (l : List Slot) (s : State) : ∃ w, l.foldl (fun t k => t.followMark p k) s = { s with waitList := w } ∧
    (s.waitList.Nodup → w.Nodup) ∧
    ∀ k, k ∈ w ↔ if k ∈ l ∧ (s.job k).intakeOpen = true ∧ (s.job k).pool = p then s.due k = true else k ∈ s.waitList := by
  induction l generalizing s with
  | nil => exact ⟨s.waitList, rfl, id, fun k => by simp⟩
  | cons a rest ih =>
    obtain ⟨w, e, nodup, others, self⟩ := followMark_eq (s := s) p a
    obtain ⟨w', e', nodup', follow⟩ := ih { s with waitList := w }
    refine ⟨w', by rw [List.foldl_cons, e, e'], fun h => nodup' (nodup h), fun k => ?_⟩
    have follow : k ∈ w' ↔ if k ∈ rest ∧ (s.job k).intakeOpen = true ∧ (s.job k).pool = p then s.due k = true else k ∈ w := follow k
    rw [follow]
    by_cases own : (s.job k).intakeOpen = true ∧ (s.job k).pool = p
    · by_cases hk : k ∈ rest
      · rw [if_pos ⟨hk, own⟩, if_pos ⟨List.mem_cons_of_mem a hk, own⟩]
      · rw [if_neg fun h => hk h.1]
        by_cases ha : k = a
        · rw [ha] at own ⊢
          rw [self, if_pos own, if_pos ⟨List.mem_cons_self, own⟩]
        · rw [others k ha, if_neg fun h => (List.mem_cons.mp h.1).elim ha hk]
    · rw [if_neg fun h => own h.2, if_neg fun h => own h.2]
      by_cases ha : k = a
      · rw [ha] at own ⊢
        rw [self, if_neg own]
      · exact others k ha

/-- The state after a new allowance, before its walk. -/
theorem setAllowance_eq (p : PoolNo) (n : Nat) : ∃ w, s.setAllowance p n =
    State.walk { s.setPool p { s.pool p with allowance := n } with waitList := w } ∧ (s.waitList.Nodup → w.Nodup) ∧
    ∀ k, k ∈ w ↔ if (s.job k).intakeOpen = true ∧ (s.job k).pool = p then (s.setPool p { s.pool p with allowance := n }).due k = true
      else k ∈ s.waitList := by
  obtain ⟨w, e, nodup, follow⟩ := foldl_followMark p (List.finRange 256) (s.setPool p { s.pool p with allowance := n })
  refine ⟨w, ?_, nodup, fun k => (follow k).trans ?_⟩
  · unfold State.setAllowance State.modPool
    rw [e]
  · simp only [List.mem_finRange, true_and]
    rfl

theorem pool_setPool_allowance (p q : PoolNo) (n : Nat) : ((s.setPool p { s.pool p with allowance := n }).pool q).base = (s.pool q).base ∧
    ((s.setPool p { s.pool p with allowance := n }).pool q).limit = (s.pool q).limit ∧
    ((s.setPool p { s.pool p with allowance := n }).pool q).free = (s.pool q).free ∧
    (q ≠ p → (s.setPool p { s.pool p with allowance := n }).pool q = s.pool q) := by
  rw [State.pool_setPool]
  split
  · rename_i e
    rw [← e]
    exact ⟨rfl, rfl, rfl, fun h => absurd rfl h⟩
  · exact ⟨rfl, rfl, rfl, fun _ => rfl⟩

theorem blocksApart_setAllowance (h : s.blocksApart) (p : PoolNo) (n : Nat) : (s.setAllowance p n).blocksApart := by
  obtain ⟨w, e, -, -⟩ := setAllowance_eq (s := s) p n
  have pools (q : PoolNo) := pool_setPool_allowance (s := s) p q n
  rw [e]
  refine blocksApart_walk (h.moves (fun q => ⟨(pools q).1, (pools q).2.1⟩) (fun b => ?_) h.shared (fun q b hb => ?_) h.chains h.vacant)
  · show s.sharedFree.count b + ∑ q : PoolNo, ((s.setPool p { s.pool p with allowance := n }).pool q).free.count b + _ = _
    rw [Finset.sum_congr rfl fun q _ => congrArg (List.count b) (pools q).2.2.1]
    rfl
  · have hb : b ∈ ((s.setPool p { s.pool p with allowance := n }).pool q).free := hb
    rw [(pools q).2.2.1] at hb
    exact h.pools q b hb

theorem creditBacked_setAllowance (h : s.creditBacked) (p : PoolNo) (n : Nat) : (s.setAllowance p n).creditBacked := by
  obtain ⟨w, e, nodup, follow⟩ := setAllowance_eq (s := s) p n
  have pools (q : PoolNo) := pool_setPool_allowance (s := s) p q n
  rw [e]
  refine creditBacked_walk ⟨h.granted, h.closed, h.stored, h.chain, fun q => ?_, h.shared, nodup h.waiting.1, fun k => ?_⟩
  · show s.promiseTotal q ≤ ((s.setPool p { s.pool p with allowance := n }).pool q).free.length
    rw [(pools q).2.2.1]
    exact h.pools q
  · show k ∈ w ↔ (s.setPool p { s.pool p with allowance := n }).due k = true
    rw [follow k]
    split
    · exact Iff.rfl
    · rename_i other
      rw [h.waiting.2, due_iff, due_iff]
      show _ ↔ (s.job k).intakeOpen = true ∧ (s.job k).outstanding <
        ((s.setPool p { s.pool p with allowance := n }).pool (s.job k).pool).refillMark
      by_cases ho : (s.job k).intakeOpen = true
      · rw [(pools (s.job k).pool).2.2.2 fun hp => other ⟨ho, hp⟩]
      · exact ⟨fun h => absurd h.1 ho, fun h => absurd h.1 ho⟩

end

end Sys2Proof.Machine
end

section
/-! PROOF. A new reservation (R28, R29) keeps each block in one place and every promise backed; and with the operations that move blocks and
credit, so does every step: settles O9. -/

namespace Sys2Proof.Machine

section
variable {s t : State} {i : Slot} {j : Job} {p : PoolNo} {base limit : Nat}

/-! ## Regions -/

/-- Whether a block lies in a pool's reservation (R26). -/
def Pool.holds (r : Pool) (b : Nat) : Bool := inExtents r.base r.limit b

/-- Two reservations that share no extent (R26). -/
def Pool.clear (r q : Pool) : Prop := r.reserved = true → q.reserved = true → r.limit < q.base ∨ q.limit < r.base

theorem not_holds_of_clear {r q : Pool} {b : Nat} (h : r.clear q) (hr : r.holds b = true) : q.holds b = false := by
  unfold Pool.holds inExtents at *
  unfold Pool.clear Pool.reserved at h
  simp only [Bool.and_eq_true, decide_eq_true_eq] at hr h
  rw [Bool.and_eq_false_iff, decide_eq_false_iff_not, decide_eq_false_iff_not]
  by_cases hq : q.base ≤ q.limit
  · have := h (hr.1.trans hr.2) hq
    omega
  · omega

theorem regionOf_eq_some (apart : ∀ p q : PoolNo, p ≠ q → (s.pool p).clear (s.pool q)) (b : Nat) (q : PoolNo) :
    s.regionOf b = some q ↔ (s.pool q).holds b = true := by
  refine ⟨fun h => List.find?_some (p := fun q => inExtents (s.pool q).base (s.pool q).limit b) h, fun h => ?_⟩
  cases found : s.regionOf b with
  | none => exact absurd h (List.find?_eq_none.mp found q (List.mem_finRange q))
  | some r =>
    by_cases e : r = q
    · rw [e]
    · have held : (s.pool r).holds b = true := List.find?_some (p := fun q => inExtents (s.pool q).base (s.pool q).limit b) found
      have := not_holds_of_clear (apart r q e) held
      rw [h] at this
      cases this

theorem regionOf_eq_none (b : Nat) : s.regionOf b = none ↔ ∀ q, (s.pool q).holds b = false := by
  unfold State.regionOf
  rw [List.find?_eq_none]
  exact ⟨fun h q => Bool.eq_false_iff.mpr (h q (List.mem_finRange q)), fun h q _ => Bool.eq_false_iff.mp (h q)⟩

theorem State.blocksApart.clear (h : s.blocksApart) (p q : PoolNo) (hn : p ≠ q) : (s.pool p).clear (s.pool q) := h.distinct p q hn

theorem count_blockRange (b e k : Nat) : (blockRange b e).count k = if inExtents b e k = true then 1 else 0 := by
  rw [(sortedLT_blockRange b e).nodup.count]
  simp only [mem_blockRange, inExtents_iff]

/-- The blocks of a reservation are among the 65536 (R25). -/
theorem State.blocksApart.lt_of_holds (h : s.blocksApart) {b : Nat} {q : PoolNo} (hb : (s.pool q).holds b = true) : b < 65536 := by
  have inside := hb
  unfold Pool.holds inExtents at inside
  simp only [Bool.and_eq_true, decide_eq_true_eq] at inside
  have := h.extents q (decide_eq_true (inside.1.trans inside.2))
  have := (inExtents_iff _ _ _).mp hb
  omega

/-! ## The rebuilt queues (R29) -/

/-- A pool with a new reservation, all of it free (R29). -/
def Pool.rebuilt (r : Pool) (base limit : Nat) : Pool := { r with base := base, limit := limit, free := blockRange base limit }

theorem pool_rebuild (q : PoolNo) :
    (s.rebuild p base limit).pool q = if p = q then (s.pool p).rebuilt base limit else s.pool q :=
  State.pool_setPool (s := { s with sharedFree := (s.sharedFree.filter fun b => !inExtents base limit b) ++ s.givenBack p base limit }) ..

/-- No chain holds a block of the old or the new range (R28, test 3). -/
theorem unchained (hc : s.chained p base limit = 0) {b : Nat} (hb : inExtents base limit b = true ∨ (s.pool p).holds b = true) (k : Slot) :
    (s.job k).chain.count b = 0 := by
  unfold State.chained at hc
  rw [sum_jobs (fun j => j.chain.countP fun b => inExtents base limit b || inExtents (s.pool p).base (s.pool p).limit b),
    Finset.sum_eq_zero_iff] at hc
  have none := List.countP_eq_zero.mp (hc k (Finset.mem_univ k))
  refine List.count_eq_zero.mpr fun hk => none b hk ?_
  rw [Bool.or_eq_true]
  exact hb

/-- A block of a region stands in no free queue but its own (R27). -/
theorem State.blocksApart.queue_eq (h : s.blocksApart) {b : Nat} {q : PoolNo} (hq : (s.pool q).holds b = false) : (s.pool q).free.count b = 0 :=
  List.count_eq_zero.mpr fun hb => by
    have := (regionOf_eq_some h.clear b q).mp (h.pools q b hb)
    rw [hq] at this
    cases this

theorem clear_rebuild (h : s.blocksApart) (ho : s.overlaps p base limit = false) (q r : PoolNo) (hn : q ≠ r) :
    ((s.rebuild p base limit).pool q).clear ((s.rebuild p base limit).pool r) := by
  have fresh (q : PoolNo) (hq : q ≠ p) : ((s.pool p).rebuilt base limit).clear (s.pool q) := fun hr hq' => by
    have not := fun e => Bool.false_ne_true (ho.symm.trans ((overlaps_iff s p base limit).mpr e))
    have hr : base ≤ limit := of_decide_eq_true hr
    have hq' : (s.pool q).base ≤ (s.pool q).limit := of_decide_eq_true hq'
    by_contra far
    rw [not_or, Nat.not_lt, Nat.not_lt] at far
    exact not ⟨q, hq, hr, hq', far.2, far.1⟩
  rw [pool_rebuild, pool_rebuild]
  by_cases hq : p = q
  · rw [if_pos hq, if_neg fun e => hn (hq.symm.trans e)]
    exact fresh r fun e => hn (hq.symm.trans e.symm)
  · rw [if_neg hq]
    by_cases hr : p = r
    · rw [if_pos hr]
      exact fun h1 h2 => (fresh q (Ne.symm hq) h2 h1).symm
    · rw [if_neg hr]
      exact h.clear q r hn

theorem sharedFree_rebuild : (s.rebuild p base limit).sharedFree =
    s.sharedFree.filter (fun b => !inExtents base limit b) ++
      (blockRange (s.pool p).base (s.pool p).limit).filter fun b => !inExtents base limit b := rfl

/-- The rebuilding leaves each block in one place (R29). -/
theorem placesOf_rebuild (h : s.blocksApart) (hl : limit ≤ 255) (ho : s.overlaps p base limit = false) (hc : s.chained p base limit = 0)
    (b : Nat) : (s.rebuild p base limit).placesOf b = if b < 65536 then 1 else 0 := by
  have before := h.placesOf b
  have clear := clear_rebuild h ho
  have pools : ∑ q : PoolNo, ((s.rebuild p base limit).pool q).free.count b + (s.pool p).free.count b =
      ∑ q : PoolNo, (s.pool q).free.count b + if inExtents base limit b = true then 1 else 0 := by
    have self : ((s.rebuild p base limit).pool p).free = blockRange base limit := by
      rw [pool_rebuild, if_pos rfl]
      rfl
    rw [← count_blockRange, ← self]
    refine sum_add_eq (f := fun q => ((s.rebuild p base limit).pool q).free.count b) (g := fun q => (s.pool q).free.count b) p fun q hq => ?_
    rw [pool_rebuild, if_neg (Ne.symm hq)]
  have shared : (s.rebuild p base limit).sharedFree.count b = if inExtents base limit b = true then 0 else
      s.sharedFree.count b + if (s.pool p).holds b = true then 1 else 0 := by
    rw [sharedFree_rebuild, List.count_append]
    split
    · rename_i new
      rw [List.count_eq_zero.mpr fun hb => by simp [new] at hb, List.count_eq_zero.mpr fun hb => by simp [new] at hb]
    · rename_i new
      rw [List.count_filter (by simpa using new), List.count_filter (by simpa using new), count_blockRange]
      rfl
  have chains : ∑ k : Slot, ((s.rebuild p base limit).job k).chain.count b = ∑ k : Slot, (s.job k).chain.count b := rfl
  -- in the old and the new range only the pool's own queue has held blocks
  have own (others : ∀ q, q ≠ p → (s.pool q).holds b = false) :
      ∑ q : PoolNo, (s.pool q).free.count b = (s.pool p).free.count b :=
    Finset.sum_eq_single p (fun q _ hq => h.queue_eq (others q hq)) fun hp => absurd (Finset.mem_univ p) hp
  have unchains (hb : inExtents base limit b = true ∨ (s.pool p).holds b = true) : ∑ k : Slot, (s.job k).chain.count b = 0 :=
    Finset.sum_eq_zero fun k _ => unchained hc hb k
  unfold State.placesOf at before ⊢
  rw [shared, chains]
  by_cases new : inExtents base limit b = true
  · rw [if_pos new] at pools ⊢
    have small : b < 65536 := by
      have := (inExtents_iff _ _ _).mp new
      omega
    have sole := own fun q hq => by
      have far := clear p q (Ne.symm hq)
      rw [pool_rebuild, pool_rebuild, if_pos rfl, if_neg (Ne.symm hq)] at far
      exact not_holds_of_clear far new
    have := unchains (.inl new)
    rw [if_pos small]
    omega
  · rw [if_neg new] at pools ⊢
    by_cases old : (s.pool p).holds b = true
    · have sole := own fun q hq => not_holds_of_clear (h.clear p q (Ne.symm hq)) old
      have := unchains (.inr old)
      have absent : s.sharedFree.count b = 0 := List.count_eq_zero.mpr fun hb => by
        have := (regionOf_eq_none b).mp (h.shared b hb) p
        rw [old] at this
        cases this
      rw [if_pos old, if_pos (h.lt_of_holds old)]
      omega
    · have := h.queue_eq (Bool.eq_false_iff.mpr old)
      rw [if_neg old]
      omega

theorem blocksApart_rebuild (h : s.blocksApart) (hl : limit ≤ 255) (ho : s.overlaps p base limit = false)
    (hc : s.chained p base limit = 0) : (s.rebuild p base limit).blocksApart := by
  have clear := clear_rebuild h ho
  -- outside the old and the new range the regions stay
  have kept (b : Nat) (new : inExtents base limit b = false) (q : PoolNo) (hq : q ≠ p ∨ (s.pool p).holds b = false)
      (held : (s.pool q).holds b = false) : ((s.rebuild p base limit).pool q).holds b = false := by
    rw [pool_rebuild]
    split
    · exact new
    · exact held
  refine ⟨once_of_places (placesOf_rebuild h hl ho hc), fun b hb => ?_, fun q b hb => ?_, fun k b hb => ?_, fun q hq => ?_, clear, h.vacant⟩
  · rw [regionOf_eq_none]
    rw [sharedFree_rebuild, List.mem_append] at hb
    intro q
    rw [pool_rebuild]
    rcases hb with hb | hb
    · obtain ⟨hb, new⟩ := List.mem_filter.mp hb
      split
      · exact Bool.not_eq_true' _ ▸ new
      · exact (regionOf_eq_none b).mp (h.shared b hb) q
    · obtain ⟨hb, new⟩ := List.mem_filter.mp hb
      split
      · exact Bool.not_eq_true' _ ▸ new
      · rename_i hq
        exact not_holds_of_clear (h.clear p q hq) ((inExtents_iff _ _ _).mpr ((mem_blockRange _ _ _).mp hb))
  · rw [regionOf_eq_some clear]
    rw [pool_rebuild] at hb ⊢
    split at hb
    · rename_i e
      rw [if_pos e]
      exact (inExtents_iff _ _ _).mpr ((mem_blockRange _ _ _).mp hb)
    · rename_i e
      rw [if_neg e]
      exact (regionOf_eq_some h.clear b q).mp (h.pools q b hb)
  · have hb : b ∈ (s.job k).chain := hb
    have outside (hx : inExtents base limit b = true ∨ (s.pool p).holds b = true) : False :=
      List.count_eq_zero.mp (unchained hc hx k) hb
    have new : inExtents base limit b = false := Bool.eq_false_iff.mpr fun e => outside (.inl e)
    have old : (s.pool p).holds b = false := Bool.eq_false_iff.mpr fun e => outside (.inr e)
    have same (q : PoolNo) : ((s.rebuild p base limit).pool q).holds b = (s.pool q).holds b := by
      rw [pool_rebuild]
      split
      · rename_i e
        rw [← e, old]
        exact new
      · rfl
    rcases h.chains k b hb with hr | hr
    · exact .inl ((regionOf_eq_none b).mpr fun q => (same q).trans ((regionOf_eq_none b).mp hr q))
    · exact .inr ((regionOf_eq_some clear b _).mpr ((same _).trans ((regionOf_eq_some h.clear b _).mp hr)))
  · rw [pool_rebuild] at hq ⊢
    split
    · exact hl
    · rename_i e
      rw [if_neg e] at hq
      exact h.extents q hq

/-- The shared queue is at least as long after the rebuilding as R28 reckons. -/
theorem sharedAfter_le (h : s.blocksApart) : s.sharedAfter p base limit ≤ (s.rebuild p base limit).sharedFree.length := by
  have nodup : s.sharedFree.Nodup := List.nodup_iff_count_le_one.mpr fun b => by
    have := h.placesOf b
    unfold State.placesOf at this
    split at this <;> omega
  have taken : (s.sharedFree.filter fun b => inExtents base limit b).length ≤
      ((blockRange base limit).filter fun b => !inExtents (s.pool p).base (s.pool p).limit b).length := by
    refine ((nodup.filter _).subperm fun b hb => ?_).length_le
    obtain ⟨hb, new⟩ := List.mem_filter.mp hb
    have old : inExtents (s.pool p).base (s.pool p).limit b = false := (regionOf_eq_none b).mp (h.shared b hb) p
    exact List.mem_filter.mpr ⟨(mem_blockRange _ _ _).mpr ((inExtents_iff _ _ _).mp new), by rw [old]; rfl⟩
  have split := List.length_eq_length_filter_add (l := s.sharedFree) (fun b => inExtents base limit b)
  rw [sharedFree_rebuild, List.length_append]
  unfold State.sharedAfter State.givenBack
  omega

theorem creditBacked_rebuild (hb : s.blocksApart) (h : s.creditBacked) (hp : s.promiseTotal p = 0)
    (hs : s.sharedTotal ≤ s.sharedAfter p base limit) : (s.rebuild p base limit).creditBacked := by
  refine ⟨h.granted, h.closed, h.stored, h.chain, fun q => ?_, hs.trans (sharedAfter_le hb), h.waiting.1, fun k => ?_⟩
  · show s.promiseTotal q ≤ ((s.rebuild p base limit).pool q).free.length
    by_cases e : p = q
    · rw [← e, hp]
      exact Nat.zero_le _
    · rw [pool_rebuild, if_neg e]
      exact h.pools q
  · have marks (q : PoolNo) : ((s.rebuild p base limit).pool q).refillMark = (s.pool q).refillMark := by
      rw [pool_rebuild]
      split
      · rename_i e
        rw [← e]
        rfl
      · rfl
    rw [due_congr (s := s) (t := s.rebuild p base limit) rfl marks]
    exact h.waiting.2 k

end

/-! ## Every step -/

/-- Each block in one place, and, where `c` holds, the credit accounted for. -/
def State.inCustody (c : Prop) (s : State) : Prop := s.blocksApart ∧ (c → s.creditBacked)

theorem isFresh_opened (tag : Word16) (a : AccountNo) (p : PoolNo) (prio : Byte) (copies first last : Word16) :
    (Job.opened tag a p prio copies first last).isFresh := ⟨nofun, rfl, rfl, rfl, rfl, rfl, rfl, rfl⟩

/-- An update that moves no block and no credit leaves what a record adds to the promise totals (R32). -/
theorem promised_of_keeps {s : State} {i : Slot} {j : Job} (hb : s.blocksApart) (h : s.creditBacked) (hj : (s.job i).Keeps j) :
    (∀ p, j.promisedIn p = (s.job i).promisedIn p) ∧ j.sharedPart = (s.job i).sharedPart := by
  have credit := hj.credit
  unfold Job.credit at credit
  simp only [Prod.mk.injEq] at credit
  obtain ⟨pool, -, -, -, promised, promisedShared, -⟩ := credit
  unfold Job.promisedIn Job.sharedPart
  rw [pool, promised, promisedShared]
  by_cases hf : (s.job i).state = .free
  · obtain ⟨none, noneShared⟩ := unpromised_of_free hb h hf
    rw [none, noneShared]
    simp
  · have live : j.state ≠ .free := fun e => hf (hj.live e)
    simp [hf, live]

theorem custody_inCustody (c : Prop) : Custody (State.inCustody c) where
  aside {s t} h e := by
    unfold State.books at e
    simp only [Prod.mk.injEq] at e
    obtain ⟨jobs, -, pools, shared, wait⟩ := e
    have job (k : Slot) : t.job k = s.job k := by rw [State.job, State.job, jobs]
    have region (p : PoolNo) : (t.pool p).region = (s.pool p).region := by rw [State.pool, State.pool, pools]
    exact ⟨h.1.congr job region shared, fun hc => (h.2 hc).congr job region shared wait⟩
  job {s} h i j hj := by
    have credit := hj.credit
    unfold Job.credit at credit
    simp only [Prod.mk.injEq] at credit
    obtain ⟨pool, intake, chain, -⟩ := credit
    refine ⟨h.1.job (fun k => State.job_setJob (s := s) i k j) (fun _ => rfl) rfl chain (.inl pool) fun hf => ?_, fun hc => ?_⟩
    · obtain ⟨bare, closed⟩ := h.1.vacant i (hj.live hf)
      exact ⟨chain.trans bare, intake.trans closed⟩
    · obtain ⟨promised, promisedShared⟩ := promised_of_keeps h.1 (h.2 hc) hj
      exact (h.2 hc).job (fun k => State.job_setJob (s := s) i k j) (fun _ => rfl) rfl rfl hj.credit promised promisedShared
  lanes h v _ := ⟨h.1.congr (fun _ => rfl) (fun _ => rfl) rfl, fun hc => (h.2 hc).congr (fun _ => rfl) (fun _ => rfl) rfl rfl⟩
  pool {s} h p r hr := by
    have region (q : PoolNo) : ((s.setPool p r).pool q).region = (s.pool q).region := by
      rw [State.pool_setPool]
      split
      · rename_i e
        rw [← e]
        exact hr
      · rfl
    exact ⟨h.1.congr (fun _ => rfl) region rfl, fun hc => (h.2 hc).congr (fun _ => rfl) region rfl rfl⟩
  walk h := ⟨blocksApart_walk h.1, fun hc => creditBacked_walk (h.2 hc)⟩
  releasePass h _ := ⟨blocksApart_releasePass h.1, fun hc => creditBacked_releasePass (h.2 hc)⟩
  closes h _ := ⟨closing_cases (fun _ => blocksApart_walk) (blocksApart_closing h.1),
    fun hc => closing_cases (fun _ => creditBacked_walk) (creditBacked_closing (h.2 hc))⟩
  vacates h _ := ⟨blocksApart_vacates h.1, fun hc => creditBacked_vacates (h.2 hc)⟩
  opens h i hf tag a p prio copies first last :=
    have fresh := isFresh_opened tag a p prio copies first last
    ⟨blocksApart_takesOpen (i := i) h.1 hf fresh, fun hc => creditBacked_takesOpen (i := i) h.1 (h.2 hc) hf fresh⟩
  stores h _ ho payload hw := ⟨blocksApart_takesPayload h.1 ho payload, fun hc => creditBacked_takesPayload h.1 (h.2 hc) ho payload hw⟩
  allowance h p n := ⟨blocksApart_setAllowance h.1 p n, fun hc => creditBacked_setAllowance (h.2 hc) p n⟩
  reserve {s} h p base limit _ hl ho hbusy := by
    have free := Bool.eq_false_iff.mp hbusy
    rw [ne_eq, reserveBusy_iff, not_or, not_or, Nat.not_lt, Nat.not_lt, Nat.not_lt, Nat.le_zero, Nat.le_zero] at free
    obtain ⟨chained, promised, shared⟩ := free
    exact ⟨blocksApart_rebuild h.1 hl ho chained, fun hc => creditBacked_rebuild h.1 (h.2 hc) promised shared⟩
  restart _ _ _ := ⟨startUp_blocksApart .., fun _ => startUp_creditBacked ..⟩

/-- Settles O9: blocks and credit change in the operations of the spool manager alone, and each of them moves a block from one place to
another and counts what it grants. -/
theorem stepKeepsEveryBlockInOnePlace : Obligations.StepKeepsEveryBlockInOnePlace := by
  intro s t h ht
  refine ⟨((custody_inCustody False).of_step ht ⟨h, False.elim⟩).1, fun hc => ?_⟩
  exact ((custody_inCustody True).of_step ht ⟨h, fun _ => hc⟩).2 trivial

end Sys2Proof.Machine
end
